-- ==== Sys2Proof/Word.lean ====
section
/-!
DEFINITION. Sys2Proof/Word.lean: the kinds of value of the machine: element formats, ports, token kinds, the five
instruction-word formats of R83, R87 to R90, and the parameters of the events of spec/opcode_table.json.
Types only: what reads or computes with them lies in Decode.lean and under Machine/.
-/

namespace Sys2Proof

abbrev Byte := BitVec 8

/-- The 24-bit iteration tag (R6, R47). -/
abbrev Iter := BitVec 24

/-- The payload of one position: its element's bits, low bits first, the rest zero. The widest is the 128-bit form of
CAS (R206); JPRD on f32 reads two words (R263). -/
abbrev Val := BitVec 128

/-- The sixteen element formats, in the order of their codes (R108, R109). -/
inductive Fmt where
  | s8 | n8 | s16 | n16 | s32 | n32 | s64 | n64
  | e4m3 | e5m2 | f16 | bf16 | f32 | f64 | cb2 | b1
  deriving DecidableEq, Repr

/-- Tag operations (R83); 6 and 7 are reserved. -/
inductive TagOp where
  | same | inc | zero | fromL | outer | fieldSet
  deriving DecidableEq, Repr

/-- Scopes of formats M and S (R88); 5 to 7 are reserved. -/
inductive Scope where
  | e | h | s | m | d
  deriving DecidableEq, Repr

/-- Operand ports (R47). -/
inductive Port where
  | L | R | P
  deriving DecidableEq, Repr

/-- Token kinds; codes 6 and 7 are never produced (R47). -/
inductive Kind where
  | data | scale | bubble | eos | ovf | abort
  deriving DecidableEq, Repr

/-- A consumer field: slot index and port code, 3 being none (R80). -/
structure Consumer where
  slot : BitVec 7
  port : BitVec 2
  deriving DecidableEq, Repr

/-- Format A (R83). `mode` is bits [27:25], whose role R129 gives for each instruction. -/
structure WordA where
  fmt   : Fmt
  arity : BitVec 2
  tagop : TagOp
  cons1 : Consumer
  cons2 : Consumer
  nf    : Bool
  mode  : BitVec 3
  sat   : Bool
  inv   : Bool
  isel  : BitVec 2
  imm   : BitVec 21
  deriving DecidableEq, Repr

/-- Format B (R87). -/
structure WordB where
  fmt   : Fmt
  arity : BitVec 2
  subop : BitVec 3
  cons1 : Consumer
  cons2 : Consumer
  fsel  : BitVec 2
  inv   : Bool
  isel  : BitVec 2
  imm   : BitVec 21
  deriving DecidableEq, Repr

/-- Format M (R88). -/
structure WordM where
  fmt    : Fmt
  arity  : BitVec 2
  scope  : Scope
  cons1  : Consumer
  cons2  : Consumer
  region : BitVec 6
  chan   : Bool
  cmpl   : Bool
  op     : BitVec 4
  fpol   : Bool
  aux    : BitVec 16
  deriving DecidableEq, Repr

/-- Format X (R89). -/
structure WordX where
  fmtA   : Fmt
  fmtB   : Fmt
  acc64  : Bool
  cons1  : Consumer
  cons2  : Consumer
  sel    : BitVec 5
  scl    : BitVec 2
  region : BitVec 6
  pidx   : BitVec 6
  arity  : BitVec 2
  nf     : Bool
  deriving DecidableEq, Repr

/-- Format S (R90). -/
structure WordS where
  fmt    : Fmt
  arity  : BitVec 2
  scope  : Scope
  cons1  : Consumer
  cons2  : Consumer
  code   : BitVec 8
  region : BitVec 6
  inv    : Bool
  queue  : BitVec 8
  deriving DecidableEq, Repr

/-- The level on whose authority a hart acts (R324): the wholesaler, a reseller by its partition, a tenant by its
virtual device. -/
inductive Agent where
  | wholesaler
  | reseller (p : Nat)
  | tenant (v : Nat)
  /-- a hart of firebox core `c` running the scheduling firmware (R335) -/
  | core (c : Nat)
  deriving DecidableEq, Repr

/-- What the physical world does to one verified datum (R363): it matches, it matches on the retry, or it does not. -/
inductive Check where
  | good | transient | lasting
  deriving DecidableEq, Repr

/-- What the physical world does to one access at its home: the check of each beat read, whether the access missed in
its slice (R318), and the lines evicted from the slice before it (R295). -/
structure Phys where
  check : Check
  miss  : Bool
  evict : List Nat
  /-- the code with which another module refuses a domain access (R305) -/
  refused : Option Nat := none
  deriving DecidableEq, Repr

/-- What the physical world shows kindling at boot (R26, R28 to R32): the parts that fail to train, as bit masks, the failing
CXL ports, the components that present themselves as CXL Type 1 or 2 (port, type), the readable regions of the pooled devices (port,
device address, bytes), and the module number that the wholesaler assigns (R17). -/
structure BootWorld where
  badStacks : BitVec 12
  badBulk   : BitVec 12
  badPorts  : BitVec 24
  badCxl    : BitVec 4
  components : List (Nat × Nat)
  regions   : List (Nat × Nat × List Byte)
  number    : BitVec 8
  deriving DecidableEq, Repr

/-- One millisecond's division of the module's power (R33 to R35): budgets per stove, sixteenths of matrix issue and of
firing starts that each stove needs to meet its budget, and the rate points that each stack's controller chooses for its channels. -/
structure PowerPlan where
  stoveBudget : List (BitVec 16)
  stackBudget : List (BitVec 16)
  matrixRate  : List Nat
  startRate   : List Nat
  ratePoints  : List (List (BitVec 2))
  deriving DecidableEq, Repr

/-- Parts that can be retired one by one (R37, R39). -/
inductive Part where
  | stack (n : Nat) | bulk (n : Nat) | uet (n : Nat) | cxl (n : Nat) | core (n : Nat)
  deriving DecidableEq, Repr

/-- Repairs made in service (R40). -/
inductive Repair where
  | stackRow (n : Nat)
  | ways (hearth ce left : Nat)
  | bank (hearth b : Nat)
  deriving DecidableEq, Repr

/-- Delivery modes of UET packets (R22). -/
inductive UetMode where
  | rud | rod | rudi | other
  deriving DecidableEq, Repr

/-- What an endpoint-mode packet carries (R22, R23, R25, R32, R290, R291): a write into machine memory, a doorbell, a
management write of a register or of a flash copy's boot descriptor, or the begin or the end of a transfer of several packets. -/
inductive UetBody where
  | write (addr : Nat) (bytes : List Byte)
  | doorbell (v q : Nat) (value : BitVec 64)
  | management (offset : Nat) (bytes : List Byte)
  | descriptor (second : Bool) (bytes : List Byte)
  | opens
  | closes
  deriving DecidableEq, Repr

/-- A token as it travels on a chimney or a doorway: header fields of R47 and payload positions. -/
structure Frame where
  kind  : Kind
  ctx   : BitVec 4
  iter  : Iter
  vals  : List Val
  nd    : Bool
  /-- carried check (R42) -/
  check : BitVec 16
  deriving DecidableEq, Repr

/-- The operation of an access at its home. `fmt` is the element format. -/
inductive MemOp where
  | load
  | store
  /-- ATOM, with the op field of R88 -/
  | atom (op : BitVec 4)
  | cas
  | scat (op : BitVec 4)
  deriving DecidableEq, Repr

/-- Mode in which a firebox hart makes an access (R366): the wholesaler's, VS mode of a partition, or VU mode for a virtual device. -/
inductive HartMode where
  | hs
  | vs (p : Nat)
  | vu (v : Nat)
  deriving DecidableEq, Repr

/-- RISC-V atomic memory operations. -/
inductive AmoOp where
  | swap | add | xor | and | or | min | max | minu | maxu
  deriving DecidableEq, Repr

/-- A register that a hart of RVA23 with the hypervisor extension holds (R13): integer, floating-point and vector registers, the program
counter, and the control and status registers by number. -/
inductive HartReg where
  | x (n : Nat)
  | f (n : Nat)
  | v (n : Nat)
  | pc
  | csr (n : Nat)
  deriving DecidableEq, Repr

/-- An access of a firebox hart (R13, R314, R320): a load of `n` bytes into register `rd`, a store, an AMO, a load-reserve and a
store-conditional, of 32 bits or of 64 (`wide`), a read of a register of the management window, the write-back of a dirty line, or an
instruction of the hart that makes no access: what it writes to the hart's own registers is RVA23's, of which the spec gives no meaning
(assumption entry 103). -/
inductive HartOp where
  | load (rd addr n : Nat) (signed : Bool)
  | store (addr : Nat) (bytes : List Byte)
  | amo (rd addr : Nat) (wide : Bool) (op : AmoOp) (value : BitVec 64)
  | lr (rd addr : Nat) (wide : Bool)
  | sc (rd addr : Nat) (wide : Bool) (value : BitVec 64)
  | register (rd offset n : Nat)
  | writeBack (line : Nat)
  | execute (writes : List (HartReg × Nat))
  deriving DecidableEq, Repr

/-- A channel of a near stack (R35). -/
structure StackChannel where
  stack : Nat
  index : Nat
  deriving DecidableEq, Repr

/-- Where capacity of the pooled tier begins, and the CXL port behind which it lies (R26, R27). -/
structure CxlPlace where
  port : Nat
  base : Nat
  deriving DecidableEq, Repr

/-- Which access HOME_ACCESS performs: a position of a port's reorder buffer, the next element of an AG program or of an
MT program, an access of a firebox hart, a line that PFCH fetches; a line fetch of the index engine is part of IE_WALK. -/
inductive HomeTarget where
  | req (id : Nat)
  | ag (hearth n bind : Nat)
  | mt (hearth n bind : Nat)
  | hart (core : Nat) (mode : HartMode) (op : HartOp)
  /-- the line that a PFCH has asked for -/
  | fetch (id : Nat)
  deriving DecidableEq, Repr

/-- A unit that runs counter chains (R62). -/
inductive Chain where
  | ag (hearth n bind : Nat)
  | mt (hearth n bind : Nat)
  | mx (hearth ce bind : Nat)
  deriving DecidableEq, Repr

/-- Where an uncorrectable error strikes (R367). -/
inductive ErrorPlace where
  | beat (addr : Nat)
  /-- scratchpad frame, tile, overflow table, join slot, matching store, shadow storage or context frame of the charge
  in slot-table record `i` -/
  | ofCharge (i : Nat)
  /-- a line of the firebox cores' caches, by its number (R366) -/
  | firebox (line : Nat)
  deriving DecidableEq, Repr

/-- Uncorrectable errors of a page-motion line copy (R316). -/
inductive CopyError where
  /-- a beat's check matched on its retry (R363) -/
  | none | transient | source (beat : BitVec 2) | destination
  deriving DecidableEq, Repr

/-- A request that a remote module makes of a page here (R190): descriptor number, identity, address, element and operation,
with the policy word under which an atomic computes (R115). -/
structure RemoteAccess where
  aspace : Nat
  cid    : BitVec 8
  vaddr  : BitVec 56
  fmt    : Fmt
  wide   : Bool
  policy : BitVec 32
  op     : MemOp
  r      : Val
  p      : Val
  deriving DecidableEq, Repr

end Sys2Proof
end

