-- ==== Sys2Proof/Config.lean ====
section
/-!
DEFINITION. Sys2Proof/Config.lean: what the spec leaves to an implementation or does not state, as opaque constants.
None has a value that Lean can compute or prove; the assumption log names each.
-/

namespace Sys2Proof.Config

/-- A value the spec leaves open, by the index of its use (State.freshIx). -/
opaque freeValue : Nat → BitVec 128

/-- Whether a kindling image carries Jarnak's signature (R28, R29). -/
opaque kindlingSigned : List Byte → Bool

/-- Whether the boot key's digest, as stored in flash, verifies the descriptor's signature (R32). -/
opaque descriptorSigned : List Byte → List Byte → Bool

/-- SHA-384 (R32). -/
opaque sha384 : List Byte → List Byte

/-- The 16 detail bytes of a fault record of a code to which R351 or R362 gives them, from the numbers they hold. -/
opaque faultDetail : Nat → List Nat → BitVec 128

/-- Row of a machine address at its controller (R343), which the spec does not lay out. -/
opaque rowOf : Nat → Nat

/-- Cycles of a refresh window, less one, and of a refresh-management interval, less one (R343). -/
opaque refreshWindow : Nat
opaque refreshInterval : Nat

/-- The switch-box paths that the stoker may choose for a track between two endpoints (R199), each as the numbers of the switch-box
directions that it crosses: source hearth and endpoint, destination hearth and endpoint. The spec gives no topology. -/
opaque trackPaths : Nat → Nat → Nat → Nat → List (List Nat)

/-- Trip counts of the matrix sequencer's nested counters (R62), by the address of the image, the shape index of the hearth and the CE:
the spec lays out no configuration of theirs. -/
opaque sequencerTrips : Nat → Nat → Nat → List (BitVec 24)

/-- Power that a stack draws at a budget, in tenths of a watt (R33, R35): its budget is in bytes. -/
opaque stackPower : Nat → Nat

/-- The channel of its stack that an address belongs to (R35). -/
opaque channelOf : Nat → Nat

/-- The 256ths, fewer than 256, to which the bellows lowers every budget above the coolant limit, by temperature and limit (R36), and the
sixteenths of matrix issue and of firing starts, less one, by which a stove meets a budget so lowered (R34). -/
opaque coolShare : Nat → Nat → BitVec 8
opaque coolRates : Nat → BitVec 4 × BitVec 4

/-- The data-rate points of its channels, by number, with which a stack's controller meets a budget that the coolant lowers (R35, R36). -/
opaque coolPoints : Nat → List (BitVec 2)

/-- Runs that a chimney stream may have unacknowledged, less one (R235). -/
opaque linkWindow : Nat

end Sys2Proof.Config
end

