-- ==== Sys2Proof/Machine/Table.lean ====
section
/-!
DEFINITION. Sys2Proof/Machine/Table.lean: a table of records by number, kept as a list in ascending key order, for the
register files and units of which only a few numbers hold anything but their reset record.
-/

namespace Sys2Proof.Machine

abbrev Table (α : Type) := List (Nat × α)

/-- The record at key `k`, if one is listed. -/
def Table.get? {α : Type} : Table α → Nat → Option α
  | [], _ => none
  | (j, v) :: rest, k => if j = k then some v else Table.get? rest k

/-- The record at key `k`, or `d` where none is listed. -/
def Table.getD {α : Type} (t : Table α) (k : Nat) (d : α) : α := (Table.get? t k).getD d

/-- `t` with `v` at key `k`. -/
def Table.put {α : Type} : Table α → Nat → α → Table α
  | [], k, v => [(k, v)]
  | (j, w) :: rest, k, v =>
    if j = k then (k, v) :: rest
    else if k < j then (k, v) :: (j, w) :: rest
    else (j, w) :: Table.put rest k v

/-- `t` with nothing listed at key `k`. -/
def Table.erase {α : Type} : Table α → Nat → Table α
  | [], _ => []
  | (j, w) :: rest, k => if j = k then rest else (j, w) :: Table.erase rest k

/-- `t` with the record at `k` (or `d`) changed by `f`. -/
def Table.update {α : Type} (t : Table α) (k : Nat) (d : α) (f : α → α) : Table α :=
  Table.put t k (f (Table.getD t k d))

/-- `t` with the record listed at `k`, if any, changed by `f`. -/
def Table.modify {α : Type} (t : Table α) (k : Nat) (f : α → α) : Table α :=
  match Table.get? t k with
  | some v => Table.put t k (f v)
  | none => t

/-- The first element of a list that satisfies `p`, changed by `f`. -/
def modifyFirst {α : Type} (p : α → Bool) (f : α → α) : List α → List α
  | [] => []
  | x :: xs => if p x then f x :: xs else x :: modifyFirst p f xs

/-- `l` with its element at `i` changed by `f`; `l` itself where there is none. -/
def modifyAt {α : Type} : List α → Nat → (α → α) → List α
  | [], _, _ => []
  | x :: xs, 0, f => f x :: xs
  | x :: xs, n + 1, f => x :: modifyAt xs n f

end Sys2Proof.Machine
end

