-- ==== Sys2Proof/Syntax.lean ====
section
/-!
DEFINITION. Sys2Proof/Syntax.lean: the steps of the part, one constructor for each row of spec/opcode_table.json. The
155 instruction words carry their decoded fields; the 96 events carry which unit or request they concern, the bytes that
an agent outside the fabric writes, and what the physical world does. The six constructors at the end take what they
need from State.env.
-/

namespace Sys2Proof

inductive Instr where
  /-- RATE_POINT_CHANGE_DONE (R35) -/
  | ratePointChangeDone (channel : StackChannel)
  /-- HEARTH_RETIRE (R38) -/
  | hearthRetire (hearth : Nat)
  /-- PART_RETIRE (R39) -/
  | partRetire (part : Part)
  /-- PART_RETIRED (R39) -/
  | partRetired (part : Part)
  /-- PORT_MODE_WRITE (R23) -/
  | portModeWrite (port : Nat) (mode : BitVec 2)
  /-- PORT_DOWN (R25) -/
  | portDown (port : Nat)
  /-- UET_PACKET_RECEIVE (R22) -/
  | uetPacketReceive (port : Nat) (mode : UetMode) (body : UetBody)
  /-- CHIMNEY_FRAME_RECEIVE (R24) -/
  | chimneyFrameReceive (port stream : Nat) (rank : BitVec 8) (frame : Frame)
  /-- REMOTE_ACCESS_RECEIVE (R190) -/
  | remoteAccessReceive (access : RemoteAccess) (phys : Phys)
  /-- EXITED_DROP_REPORT (R69) -/
  | exitedDropReport (vdev : Nat) (header : BitVec 64)
  /-- POOLED_CAPACITY_CHANGE (R27) -/
  | pooledCapacityChange (place : CxlPlace) (length : Nat) (release : Bool)
  /-- RC_COUNTER_CLEAR (R43) -/
  | rcCounterClear (agent : Agent) (offset : Nat)
  /-- REGISTER_WRITE (R4) -/
  | registerWrite (agent : Agent) (offset : Nat) (bytes : List Byte)
  /-- HEARTH_SLOT_WRITE (R186) -/
  | hearthSlotWrite (agent : Agent) (addr : Nat) (bytes : List Byte)
  /-- PARAM_WINDOW_WRITE (R186) -/
  | paramWindowWrite (agent : Agent) (hearth ce ctx reg : Nat) (value : BitVec 32)
  /-- JAF_WINDOW_WRITE (R270) -/
  | jafWindowWrite (agent : Agent) (hearth offset : Nat) (bytes : List Byte)
  /-- INJECTION_WRITE (R188) -/
  | injectionWrite (agent : Agent) (hearth offset : Nat) (bytes : List Byte)
  /-- TOKEN_ARRIVAL (R59) -/
  | tokenArrival (index : Nat) (check : Check)
  /-- ABORT_TOKEN_ARRIVAL (R372) -/
  | abortTokenArrival (bind : Nat)
  /-- EOS_PROPAGATE (R54) -/
  | eosPropagate (hearth ce ctx slot : Nat)
  /-- LOOP_ISSUE (R141) -/
  | loopIssue (hearth ce ctx : Nat)
  /-- CHAIN_START (R62) -/
  | chainStart (index : Nat)
  /-- CHAIN_DONE (R62) -/
  | chainDone (chain : Chain)
  /-- STREAM_DONE (R201) -/
  | streamDone (chain : Chain)
  /-- PSTRM_DONE_EMIT (R146) -/
  | pstrmDoneEmit (hearth ce ctx slot : Nat)
  /-- HOME_ACCESS (R218) -/
  | homeAccess (target : HomeTarget) (phys : Phys)
  /-- PORT_REPLY_LEAVE (R208) -/
  | portReplyLeave (id count : Nat)
  /-- STORE_COMPLETION (R209) -/
  | storeCompletion (id : Nat)
  /-- GATHER_SERVE (R214) -/
  | gatherServe (id : Nat) (phys : Phys)
  /-- SCAT_APPLY (R215) -/
  | scatApply (id : Nat) (phys : Phys)
  /-- TILE_SEAL_EOS (R195) -/
  | tileSealEos (bind hearth tile : Nat)
  /-- TILE_READ_DONE (R219) -/
  | tileReadDone (id : Nat)
  /-- TILE_DRAIN_DONE (R195) -/
  | tileDrainDone (hearth entry : Nat)
  /-- BCPY_BEAT (R223) -/
  | bcpyBeat (id : Nat) (phys : Phys)
  /-- BCPY_COMPLETE (R223) -/
  | bcpyComplete (id : Nat)
  /-- NMC_STRIPE (R226) -/
  | nmcStripe (id : Nat) (failing : Option (BitVec 6))
  /-- NMC_COMPLETE (R226) -/
  | nmcComplete (id : Nat)
  /-- TLINC_ADD (R229) -/
  | tlincAdd (id : Nat)
  /-- TLWAIT_RELEASE (R230) -/
  | tlwaitRelease (id : Nat)
  /-- NTFY_POST (R346) -/
  | ntfyPost (id : Nat)
  /-- UINT_DELIVER (R346) -/
  | uintDeliver (vdev : Nat)
  /-- LSEND_ACK (R235) -/
  | lsendAck (bind stream : Nat)
  /-- LRECV_RUN (R235) -/
  | lrecvRun (bind stream : Nat)
  /-- REDN_RESULT (R236) -/
  | rednResult (bind stream : Nat) (iter : Iter)
  /-- SCALE_ENTRY (R256) -/
  | scaleEntry (hearth ce : Nat)
  /-- MGATH_READ_RETURN (R251) -/
  | mgathReadReturn (hearth ce : Nat) (second : Bool) (phys : Phys)
  /-- MATRIX_EOS (R246) -/
  | matrixEos (hearth ce ctx slot : Nat)
  /-- JDRO_DRAIN_DONE (R266) -/
  | jdroDrainDone (bind hearth : Nat)
  /-- IE_WALK (R271) -/
  | ieWalk (hearth : Nat) (phys : Phys)
  /-- SPLICE_SUCCESSOR_LOAD (R67) -/
  | spliceSuccessorLoad (bind hearth ce : Nat)
  /-- LAUNCH_COMPLETE (R68) -/
  | launchComplete (bind : Nat)
  /-- HANG_DETECT (R347) -/
  | hangDetect (bind : Nat)
  /-- QUANTUM_EXPIRE (R337) -/
  | quantumExpire (bind : Nat)
  /-- SELF_PREEMPT (R337) -/
  | selfPreempt (bind : Nat)
  /-- XSD_REQUEST (R308) -/
  | xsdRequest (agent : Agent) (p : Nat) (bytes : List Byte)
  /-- SHOOTDOWN_HEARTH_ACK (R309) -/
  | shootdownHearthAck (id hearth : Nat)
  /-- SHOOTDOWN_COMPLETE (R309) -/
  | shootdownComplete (id : Nat)
  /-- MIGRATION_REQUEST (R311) -/
  | migrationRequest (agent : Agent) (p : Nat) (bytes : List Byte)
  /-- MIGRATION_CANCEL (R311) -/
  | migrationCancel (agent : Agent) (p : Nat) (bytes : List Byte)
  /-- MIGRATION_LINE_COPY (R313) -/
  | migrationLineCopy (id : Nat) (error : CopyError)
  /-- MIGRATION_COMPLETE (R313) -/
  | migrationComplete (id : Nat)
  /-- EMBER_WRITE (R319) -/
  | emberWrite (agent : Agent) (frame : Nat) (value : Byte)
  /-- PARTITION_RESET (R341) -/
  | partitionReset (agent : Agent) (p : Nat)
  /-- VF_RESET (R341) -/
  | vfReset (agent : Agent) (v : Nat)
  /-- DOORBELL_RING (R327) -/
  | doorbellRing (agent : Agent) (v q : Nat) (tail : BitVec 24)
  /-- QUEUE_OPEN (R327) -/
  | queueOpen (agent : Agent) (v q : Nat)
  /-- QUEUE_DESTROY (R339) -/
  | queueDestroy (agent : Agent) (v q : Nat)
  /-- QUEUE_CLEAR_FAULT (R327) -/
  | queueClearFault (agent : Agent) (v q : Nat)
  /-- PACKET_READ (R329) -/
  | packetRead (v q : Nat) (check : Check)
  /-- WAIT_REREAD (R333) -/
  | waitReread (v q : Nat)
  /-- LAUNCH_LIST_APPEND (R334) -/
  | launchListAppend (v q : Nat)
  /-- BIND_DISPATCH (R336) -/
  | bindDispatch (agent : Agent) (i : Nat) (record : BitVec 256)
  /-- CHARGE_LOAD (R93) -/
  | chargeLoad (i pick : Nat)
  /-- BIND_PREEMPT (R337) -/
  | bindPreempt (agent : Agent) (i : Nat) (record : BitVec 256)
  /-- BIND_RESUME (R371) -/
  | bindResume (agent : Agent) (i pick : Nat) (record : BitVec 256)
  /-- BIND_TEARDOWN (R340) -/
  | bindTeardown (agent : Agent) (i : Nat) (record : BitVec 256)
  /-- SHADOW_SWAP (R370) -/
  | shadowSwap (i : Nat)
  /-- CONTEXT_FRAME_WRITE_DONE (R370) -/
  | contextFrameWriteDone (i : Nat)
  /-- DEFERRED_ACTIVATION (R343) -/
  | deferredActivation (controller : Nat)
  /-- FREEZE_START (R355) -/
  | freezeStart (bind : Nat)
  /-- FREEZE_COMPLETE (R355) -/
  | freezeComplete (bind : Nat)
  /-- FAULT_RECORD_POST (R351) -/
  | faultRecordPost (ring : Nat)
  /-- FAULT_RESUME (R352) -/
  | faultResume (agent : Agent) (ring : Nat) (seq : BitVec 32)
  /-- FAULT_FORWARD (R353) -/
  | faultForward (agent : Agent) (ring : Nat) (seq : BitVec 32)
  /-- FAULT_ABORT (R352) -/
  | faultAbort (agent : Agent) (ring : Nat) (seq : BitVec 32)
  /-- REPAIR_PASS (R359) -/
  | repairPass (bind : Nat)
  /-- REPAIR_PASS_END (R361) -/
  | repairPassEnd (bind : Nat)
  /-- UNCORRECTABLE_ERROR (R367) -/
  | uncorrectableError (place : ErrorPlace)
  /-- NOP (R133) -/
  | nop (w : WordA)
  /-- CONST (R134) -/
  | const (w : WordA)
  /-- DUP (R135) -/
  | dup (w : WordA)
  /-- STEER (R136) -/
  | steer (w : WordA)
  /-- MERGE (R137) -/
  | merge (w : WordA)
  /-- GATE (R136) -/
  | gate (w : WordA)
  /-- SYNC (R135) -/
  | sync (w : WordA)
  /-- SINK (R133) -/
  | sink (w : WordA)
  /-- EOS (R138) -/
  | eos (w : WordA)
  /-- ISBUB (R138) -/
  | isbub (w : WordA)
  /-- TRIG (R138) -/
  | trig (w : WordA)
  /-- HNDL (R139) -/
  | hndl (w : WordA)
  /-- LOOP (R141) -/
  | loop (w : WordB)
  /-- LOOPD (R141) -/
  | loopd (w : WordB)
  /-- LEXIT (R142) -/
  | lexit (w : WordB)
  /-- TCHK (R143) -/
  | tchk (w : WordB)
  /-- TGSET (R144) -/
  | tgset (w : WordB)
  /-- TGGET (R144) -/
  | tgget (w : WordB)
  /-- SCAN (R145) -/
  | scan (w : WordB)
  /-- SCANT (R145) -/
  | scant (w : WordB)
  /-- PSTRM (R146) -/
  | pstrm (w : WordB)
  /-- ADD (R148) -/
  | add (w : WordA)
  /-- SUB (R148) -/
  | sub (w : WordA)
  /-- ADDS (R149) -/
  | adds (w : WordA)
  /-- SUBS (R149) -/
  | subs (w : WordA)
  /-- MUL (R148) -/
  | mul (w : WordA)
  /-- MULH (R148) -/
  | mulh (w : WordA)
  /-- MAD (R151) -/
  | mad (w : WordA)
  /-- DIV (R150) -/
  | div (w : WordA)
  /-- REM (R150) -/
  | rem (w : WordA)
  /-- NEG (R148) -/
  | neg (w : WordA)
  /-- ABS (R148) -/
  | abs (w : WordA)
  /-- MIN (R148) -/
  | min (w : WordA)
  /-- MAX (R148) -/
  | max (w : WordA)
  /-- AVG (R148) -/
  | avg (w : WordA)
  /-- IDX (R152) -/
  | idx (w : WordA)
  /-- IDX2 (R152) -/
  | idx2 (w : WordA)
  /-- AND (R155) -/
  | and (w : WordA)
  /-- OR (R155) -/
  | or (w : WordA)
  /-- XOR (R155) -/
  | xor (w : WordA)
  /-- ANDN (R155) -/
  | andn (w : WordA)
  /-- NOT (R155) -/
  | not (w : WordA)
  /-- SHL (R156) -/
  | shl (w : WordA)
  /-- SHR (R156) -/
  | shr (w : WordA)
  /-- SHA (R156) -/
  | sha (w : WordA)
  /-- ROT (R156) -/
  | rot (w : WordA)
  /-- CLZ (R157) -/
  | clz (w : WordA)
  /-- POPC (R157) -/
  | popc (w : WordA)
  /-- BREV (R157) -/
  | brev (w : WordA)
  /-- BFX (R158) -/
  | bfx (w : WordA)
  /-- BFI (R158) -/
  | bfi (w : WordA)
  /-- CMP (R159) -/
  | cmp (w : WordA)
  /-- SEL (R160) -/
  | sel (w : WordA)
  /-- FADD (R162) -/
  | fadd (w : WordA)
  /-- FSUB (R162) -/
  | fsub (w : WordA)
  /-- FMUL (R162) -/
  | fmul (w : WordA)
  /-- FMA (R162) -/
  | fma (w : WordA)
  /-- FNMA (R162) -/
  | fnma (w : WordA)
  /-- FMIN (R163) -/
  | fmin (w : WordA)
  /-- FMAX (R163) -/
  | fmax (w : WordA)
  /-- FABS (R164) -/
  | fabs (w : WordA)
  /-- FNEG (R164) -/
  | fneg (w : WordA)
  /-- FCMP (R165) -/
  | fcmp (w : WordA)
  /-- FCLASS (R166) -/
  | fclass (w : WordA)
  /-- FRND (R167) -/
  | frnd (w : WordA)
  /-- FDIV (R162) -/
  | fdiv (w : WordA)
  /-- FSQRT (R162) -/
  | fsqrt (w : WordA)
  /-- FSCAL (R162) -/
  | fscal (w : WordA)
  /-- FCPYS (R164) -/
  | fcpys (w : WordA)
  /-- FRCP (R169) -/
  | frcp (w : WordA)
  /-- FRSQ (R169) -/
  | frsq (w : WordA)
  /-- FEX2 (R169) -/
  | fex2 (w : WordA)
  /-- FLG2 (R169) -/
  | flg2 (w : WordA)
  /-- FTNH (R169) -/
  | ftnh (w : WordA)
  /-- FSGM (R169) -/
  | fsgm (w : WordA)
  /-- FSIN (R169) -/
  | fsin (w : WordA)
  /-- FCOS (R169) -/
  | fcos (w : WordA)
  /-- FSILU (R169) -/
  | fsilu (w : WordA)
  /-- CVT (R171) -/
  | cvt (w : WordA)
  /-- CVTO (R121) -/
  | cvto (w : WordA)
  /-- CVTL (R121) -/
  | cvtl (w : WordA)
  /-- PACK (R173) -/
  | pack (w : WordA)
  /-- UNPK (R173) -/
  | unpk (w : WordA)
  /-- SCAC (R175) -/
  | scac (w : WordA)
  /-- SCALE (R174) -/
  | scale (w : WordA)
  /-- CBDEC (R176) -/
  | cbdec (w : WordA)
  /-- KEY (R177) -/
  | key (w : WordA)
  /-- VSUM (R180) -/
  | vsum (w : WordA)
  /-- VMAX (R180) -/
  | vmax (w : WordA)
  /-- VMIN (R180) -/
  | vmin (w : WordA)
  /-- VAND (R180) -/
  | vand (w : WordA)
  /-- VOR (R180) -/
  | vor (w : WordA)
  /-- VSCN (R181) -/
  | vscn (w : WordA)
  /-- VSPL (R182) -/
  | vspl (w : WordA)
  /-- VCAT (R182) -/
  | vcat (w : WordA)
  /-- PAND (R183) -/
  | pand (w : WordA)
  /-- POR (R183) -/
  | por (w : WordA)
  /-- PXOR (R183) -/
  | pxor (w : WordA)
  /-- PNOT (R183) -/
  | pnot (w : WordA)
  /-- PCNT (R180) -/
  | pcnt (w : WordA)
  /-- RDFL (R184) -/
  | rdfl (w : WordA)
  /-- CLFL (R184) -/
  | clfl (w : WordA)
  /-- LD (R212) -/
  | ld (w : WordM)
  /-- ST (R213) -/
  | st (w : WordM)
  /-- LDS (R212) -/
  | lds (w : WordM)
  /-- STS (R213) -/
  | sts (w : WordM)
  /-- ATOM (R216) -/
  | atom (w : WordM)
  /-- CAS (R217) -/
  | cas (w : WordM)
  /-- GATH (R214) -/
  | gath (w : WordM)
  /-- SCAT (R215) -/
  | scat (w : WordM)
  /-- TLD (R219) -/
  | tld (w : WordM)
  /-- TST (R220) -/
  | tst (w : WordM)
  /-- TQRY (R221) -/
  | tqry (w : WordM)
  /-- TCLR (R221) -/
  | tclr (w : WordM)
  /-- CRD (R219) -/
  | crd (w : WordM)
  /-- CWR (R220) -/
  | cwr (w : WordM)
  /-- ZBMP (R219) -/
  | zbmp (w : WordM)
  /-- PFCH (R227) -/
  | pfch (w : WordM)
  /-- BCPY (R223) -/
  | bcpy (w : WordM)
  /-- NMC (R224) -/
  | nmc (w : WordM)
  /-- PLACE (R227) -/
  | place (w : WordM)
  /-- FJOIN (R232) -/
  | fjoin (w : WordM)
  /-- TLINC (R229) -/
  | tlinc (w : WordM)
  /-- TLWAIT (R230) -/
  | tlwait (w : WordM)
  /-- TLRD (R231) -/
  | tlrd (w : WordM)
  /-- NTFY (R233) -/
  | ntfy (w : WordM)
  /-- LSEND (R235) -/
  | lsend (w : WordM)
  /-- LRECV (R235) -/
  | lrecv (w : WordM)
  /-- REDN (R236) -/
  | redn (w : WordM)
  /-- MLAT (R250) -/
  | mlat (w : WordX)
  /-- MGATH (R251) -/
  | mgath (w : WordX)
  /-- MMA (R252) -/
  | mma (w : WordX)
  /-- MMAS (R252) -/
  | mmas (w : WordX)
  /-- MOUT (R253) -/
  | mout (w : WordX)
  /-- MZER (R254) -/
  | mzer (w : WordX)
  /-- MCBT (R250) -/
  | mcbt (w : WordX)
  /-- JINIT (R262) -/
  | jinit (w : WordX)
  /-- JWIN (R262) -/
  | jwin (w : WordX)
  /-- JADD (R263) -/
  | jadd (w : WordX)
  /-- JPRD (R263) -/
  | jprd (w : WordX)
  /-- JMATCH (R268) -/
  | jmatch (w : WordX)
  /-- JPROBE (R268) -/
  | jprobe (w : WordX)
  /-- JDRO (R266) -/
  | jdro (w : WordX)
  /-- JDRH (R267) -/
  | jdrh (w : WordX)
  /-- JMRG (R265) -/
  | jmrg (w : WordX)
  /-- JSTAT (R269) -/
  | jstat (w : WordX)
  /-- IWALK (R271) -/
  | iwalk (w : WordX)
  /-- IBAL (R272) -/
  | ibal (w : WordX)
  /-- TRAP (R97) -/
  | trap (w : WordS)
  /-- HALT (R98) -/
  | halt (w : WordS)
  /-- YIELD (R99) -/
  | yield (w : WordS)
  /-- SPLICE (R100) -/
  | splice (w : WordS)
  /-- LAUNCH (R101) -/
  | launch (w : WordS)
  /-- RDCTL (R102) -/
  | rdctl (w : WordS)
  /-- CKSUM (R103) -/
  | cksum (w : WordS)
  /-- IN_SERVICE_REPAIR (R40) -/
  | inServiceRepair (repair : Repair)
  /-- PORT_OR_CORE_RETIRE (R37) -/
  | portOrCoreRetire (part : Part)
  /-- MODULE_RESET (R28) -/
  | moduleReset
  /-- RECOVERY_IMAGE_RECEIVE (R29) -/
  | recoveryImageReceive
  /-- BELLOWS_TICK (R33) -/
  | bellowsTick
  /-- COOLANT_THRESHOLD_CROSS (R36) -/
  | coolantThresholdCross
  /-- EMBER_HALVE (R318) -/
  | emberHalve
  /-- BUCKET_REFILL (R342) -/
  | bucketRefill
  deriving DecidableEq, Repr

end Sys2Proof
end

