-- ==== Sys2Proof/Machine/State.lean ====
section
/-!
DEFINITION. Sys2Proof/Machine/State.lean: the state of the KD-168 as plain data, and the state right after module reset.
The groups are those of INVENTORY.md's "State". Fields marked (model) are the model's own.
-/

namespace Sys2Proof.Machine

open Sys2Proof

/-! ## Why a step can stop -/

/-- The reasons a step of the model can end in a fault. -/
inductive Fault where
  /-- Raised by `step` alone: the selected slot or queue entry holds a word that R92 keeps from every CE, with the
  refusal code of R95 and the bit of R94. Safe: a charge with such a word is refused whole, so no machine runs it. -/
  | refusedWord (code : Nat) (bit : Nat)
  deriving DecidableEq, Repr

/-- The reasons a step of the model can be refused. -/
inductive Refusal where
  /-- Raised by exec's refused arms: the instruction has no meaning here yet. Safe: the model stops. -/
  | notModelled (mnemonic : String)
  deriving DecidableEq, Repr

/-! ## Module -/

/-- One copy of the mirrored flash (R28, R32). -/
structure FlashCopy where
  kindling   : List Byte
  descriptor : List Byte
  deriving DecidableEq, Repr

/-- The mirrored flash: kindling and the boot descriptor (R32), the boot key's digest, and the retirement record (R41). -/
structure Flash where
  a             : FlashCopy
  b             : FlashCopy
  bootKeyDigest : List Byte
  retired       : List Part
  /-- hearth assignment of each stove as recorded with each retirement (R10): enable mask and map -/
  assignment    : Table (BitVec 15 × BitVec 60)
  deriving DecidableEq, Repr

/-- How far boot has come (R28 to R30). -/
inductive BootStage where
  | rom
  | recoveryResponder
  | recoveryImage
  | epalmig (entry : Nat)
  deriving DecidableEq, Repr

/-- STOVE_STATE_n (R19), HEARTH_MAP_n (R20), INTEG_n (R364) and the stove's rate limits (R34, R35). -/
structure Stove where
  bulkState    : BitVec 4
  stackState   : BitVec 4
  /-- each channel's data-rate point, full where none is listed (R35) -/
  points       : Table (BitVec 2)
  stackBudget  : BitVec 16
  stoveBudget  : BitVec 16
  spareUsed    : Bool
  hearthEnable : BitVec 15
  hearthMap    : BitVec 60
  /-- the spare's physical number, fused (R10) -/
  spare        : BitVec 4
  /-- sixteenths of matrix issue and of firing starts (R34) -/
  matrixRate   : Nat
  startRate    : Nat
  /-- the points to which channels are changing, and a stack budget that arrived meanwhile, with the points that meet it (R35) -/
  changing     : Table (BitVec 2)
  nextBudget   : Option (BitVec 16 × Table (BitVec 2))
  transient    : BitVec 32
  lasting      : BitVec 16
  lastUnit     : BitVec 8
  lastHearth   : BitVec 8
  /-- misses of the slice since module reset (R318) -/
  misses       : Nat
  deriving DecidableEq, Repr

/-- PORT_n (R43). -/
structure PortReg where
  dropped     : BitVec 64
  /-- transfers of the endpoint mode that have begun and not ended (R23) -/
  transfers   : Nat
  /-- runs that the link holds in its retry buffer until its partner acknowledges them (R23) -/
  retained    : Nat
  retry       : BitVec 8
  mgmt        : Bool
  busy        : Bool
  mode        : BitVec 2
  deriving DecidableEq, Repr

/-- A mapping of pooled device capacity into machine space (R27, R31, R32). -/
structure PooledMap where
  base   : Nat
  length : Nat
  image  : Bool
  /-- the CXL port behind which the capacity lies -/
  port   : Nat
  /-- where the boot mapping begins in the device's own address space (R32) -/
  dpa    : Nat
  deriving DecidableEq, Repr

/-- Registers and records of the module as a whole. -/
structure ModRegs where
  number     : BitVec 8
  boot       : BootStage
  flash      : Flash
  stoves     : List Stove
  ports      : List PortReg
  damperRej  : BitVec 64
  windowRej  : BitVec 64
  exitedDrop : BitVec 64
  inlet      : BitVec 16
  critical   : BitVec 16
  limit      : BitVec 16
  actLimit   : BitVec 32
  /-- the inlet temperature has passed the critical limit and is not yet below the limit again (R36) -/
  held       : Bool
  /-- the inlet temperature has passed the limit since the bellows last divided (R36) -/
  crossed    : Bool
  injRej     : Table (BitVec 64)
  pooled     : List PooledMap
  /-- Type 1 and Type 2 components left unenumerated and reported to the wholesaler: port and type (R26) -/
  unenumerated : List (Nat × Nat)
  /-- ports and cores whose retirement has begun (R37) -/
  retiring   : List Part
  /-- switch-box directions of paths marked by a lasting fault (R365) -/
  markedDirs : List Nat
  /-- millisecond boundaries on which the bellows and the ember halving have acted, microseconds on which the buckets
  were refilled -/
  bellowsMs  : Nat
  emberMs    : Nat
  bucketUs   : Nat
  deriving DecidableEq, Repr

/-! ## Memory side -/

/-- One race-tag record (R293), whether its access was an atomic, CAS or SCAT update (R286), and its agent's partition
(R295). -/
structure RaceRec where
  agent  : BitVec 16
  epoch  : Nat
  mask   : BitVec 64
  atomic : Bool
  part   : Nat
  deriving DecidableEq, Repr

/-- The race tags of a 64-byte beat (R293). -/
structure BeatTags where
  writer  : Option RaceRec
  readers : List RaceRec
  deriving DecidableEq, Repr

/-- A page move in progress (R311 to R317). -/
structure Move where
  id      : Nat
  /-- requesting partition, or 255 for the wholesaler -/
  p       : Nat
  /-- the page in the requester's addressing, and as a partition address of `part` -/
  page    : Nat
  part    : Nat
  partPage : Nat
  leaf    : Nat
  src     : Nat
  dst     : Nat
  cursor  : Nat
  pool    : Nat
  cookie  : BitVec 64
  record  : Nat
  /-- the leaf has been written (step 4 of R313) -/
  written : Bool
  /-- the shootdown the move waits for -/
  sd      : Nat
  deriving DecidableEq, Repr

/-- An extent shootdown (R308, R309). -/
structure Shootdown where
  id     : Nat
  stageW : Bool
  aspace : Nat
  /-- partition whose stage W is concerned; 255 every partition -/
  part   : Nat
  first  : Nat
  pages  : Nat
  record : Option Nat
  /-- the move it belongs to -/
  move   : Option Nat
  /-- hearths that have acknowledged -/
  acked  : List Nat
  deriving DecidableEq, Repr

/-- A request waiting in a controller's deferred queue (R343). -/
structure Deferred where
  controller : Nat
  vdev : Nat
  row  : Nat
  /-- identifier of the request: a port's, a copy's, or 2^40 and up for units without one -/
  req  : Nat
  /-- its activation has been served -/
  granted : Bool
  deriving DecidableEq, Repr

/-- State that travels with memory. Beats, frames and rows are numbered by address. -/
structure MemSide where
  /-- poisoned 64-byte beats, ascending (R42) -/
  poison     : List Nat
  tags       : Table BeatTags
  emberOwner : Table (BitVec 8)
  /-- token buckets by controller and device: key 1024 × controller + device (R342) -/
  buckets    : Table Int
  /-- activations in the refresh window: key (controller × 2^32 + row) × 1024 + device (R343) -/
  acts       : Table Nat
  deferred   : List Deferred
  /-- one more than the refresh-management interval in which a controller last served a deferred activation (R343) -/
  served     : Table Nat
  moves      : List Move
  shootdowns : List Shootdown
  deriving DecidableEq, Repr

/-! ## Administration -/

/-- ASPACE_a (R300). -/
structure Aspace where
  partition : BitVec 8
  wRoot     : BitVec 39
  sRoot     : BitVec 51
  enable    : Bool
  deriving DecidableEq, Repr

/-- MIG_POOL_n (R312) and CTX_POOL (R368). -/
structure Pool where
  tail  : BitVec 32
  head  : BitVec 32
  base  : BitVec 52
  size  : BitVec 4
  owner : BitVec 8
  deriving DecidableEq, Repr

/-- PART_p (R322). -/
structure PartReg where
  pq      : BitVec 64
  hot     : BitVec 8
  cold    : BitVec 8
  rights  : BitVec 6
  hang    : BitVec 20
  state   : BitVec 2
  deriving DecidableEq, Repr

/-- VDEV_v (R323). -/
structure Vdev where
  qtable    : BitVec 64
  partition : BitVec 8
  rights    : BitVec 6
  state     : BitVec 2
  burst     : BitVec 20
  rate      : BitVec 20
  deriving DecidableEq, Repr

/-- A release vector or acquire table: agent numbers and epochs, and the lossy bit (R292). -/
structure Vec where
  entries : List (BitVec 16 × Nat)
  lossy   : Bool
  deriving DecidableEq, Repr

/-- What a release hands to the acquires that synchronise with it (R282, R283): its scope, the hearth where it is made,
and its vector (R292). -/
structure Rel where
  scope  : Scope
  hearth : Nat
  vec    : Vec
  deriving DecidableEq, Repr

/-- A launch on its way to a bind record: its packet's 128 bytes, the vectors that its doorbell and its waits have acquired
(R292), its device and queue, the address space of the packet's addresses (R330), and the completion record's address
there. -/
structure Launch where
  packet : List Byte
  vec    : Vec
  vdev   : Nat
  queue  : Nat
  aspace : Nat
  record : Nat
  deriving DecidableEq, Repr

/-- An accepted packet that its queue still holds (R333): its acceptance number, and whether its waits have been found
met. -/
structure HeldPacket where
  launch : Launch
  seq    : BitVec 32
  met    : Bool
  deriving DecidableEq, Repr

/-- A packet that a LAUNCH has written: the vector of the launching charge and its address space, device-side packets'
addresses being of that one (R292, R330), and the cycle of the launch (R340). -/
structure DevPacket where
  vec    : Vec
  aspace : Nat
  cycle  : Nat
  deriving DecidableEq, Repr

/-- QDB_v_q (R327), the descriptor read when the queue was opened (R326), and the packets it holds. -/
structure Queue where
  state  : BitVec 3
  cause  : BitVec 3
  head   : BitVec 24
  tail   : BitVec 24
  ring   : BitVec 64
  lsize  : Nat
  pcap   : Nat
  aspace : Nat
  held   : List HeldPacket
  /-- packets that a LAUNCH has written, by their number -/
  launched : Table DevPacket
  /-- cycle in which the queue was destroyed (R340) -/
  destroyed : Option Nat
  deriving DecidableEq, Repr

/-- SCHED_LIST (R334) and the acceptance sequence number. -/
structure Sched where
  base  : BitVec 52
  lsize : BitVec 4
  head  : BitVec 32
  tail  : BitVec 32
  seq   : BitVec 32
  deriving DecidableEq, Repr

/-- A bind record of the slot table (R335). -/
structure Bind where
  entry    : BitVec 64
  aspace   : BitVec 12
  vdev     : BitVec 10
  origin   : BitVec 8
  ctx      : BitVec 4
  share    : BitVec 8
  quantum  : BitVec 24
  priority : BitVec 3
  preempt  : Bool
  expired  : Bool
  state    : BitVec 3
  /-- order of the dispatch writes (R336), and the cycle of the last dispatch or resume (R337) -/
  order    : Nat
  since    : Nat
  /-- acceptance number of the listed launch that the record has dispatched -/
  launch   : Option Nat
  deriving DecidableEq, Repr

/-- What a fault record holds (R351), before the stoker writes it. -/
structure FaultRec where
  /-- cycle and hearth of the fault (R356) -/
  cycle     : Nat
  hearth    : Nat
  code      : Nat
  stageW    : Bool
  frozen    : Bool
  remote    : Bool
  bubbled   : Bool
  more      : Bool
  partition : Nat
  vdev      : Nat
  bind      : Nat
  tag       : BitVec 32
  launchId  : BitVec 64
  address   : BitVec 64
  block     : BitVec 32
  slot      : Nat
  ce        : Nat
  shape     : Nat
  unit      : Nat
  detail    : List Nat
  /-- its charge has ended since: the record holds nothing any more (R352) -/
  ended     : Bool := false
  deriving DecidableEq, Repr

/-- FLT_RING_n (R350), the records waiting in the stoker (R351) and the posted records that hold a charge (R352). -/
structure Ring where
  base    : BitVec 64
  lsize   : BitVec 4
  lost    : BitVec 12
  head    : BitVec 24
  tail    : BitVec 24
  nextSeq : BitVec 32
  waiting : List FaultRec
  holding : List (BitVec 32 × FaultRec)
  /-- external interrupt raised to the owner's harts -/
  irq     : Bool
  deriving DecidableEq, Repr

/-- A firebox hart (R13, R345): its program counter, integer, floating-point and vector registers and control and status registers, by number, the reservation that its load-reserve holds
(address and bytes), its Jarnak CSRs, and the exception that it has taken to the wholesaler for an access (cause of the RISC-V
privileged architecture, and address). -/
structure Hart where
  pc       : BitVec 64
  x        : Table (BitVec 64)
  f        : Table (BitVec 64)
  v        : Table Nat
  csr      : Table (BitVec 64)
  reserved : Option (Nat × Nat)
  juivec   : BitVec 64
  juirec   : BitVec 64
  juivd    : BitVec 64
  trap     : Option (Nat × Nat)
  deriving DecidableEq, Repr

/-- A 256-byte line in the firebox cores' caches (R13, R366): the directory's holders, the mode and device of the last writer while it is
dirty, and the mirror's copy where it holds wholesaler data. -/
structure FireLine where
  holders : List Nat
  dirty   : Option HartMode
  mirror  : List Byte
  deriving DecidableEq, Repr

/-- The firebox: harts by core number, cached lines by number, and (model) the core that stores in the present step. -/
structure Firebox where
  harts : Table Hart
  lines : Table FireLine
  now   : Option Nat
  deriving DecidableEq, Repr

/-- A conductor thread of a virtual device (R345): JUIVEC and JUIREC as registered, whether JUIVD registers it, the address space
of JUIREC, whether it runs, and whether a user interrupt is pending for it. -/
structure Thread where
  juivec  : BitVec 64
  juirec  : BitVec 64
  registered : Bool
  aspace  : Nat
  running : Bool
  pending : Bool
  /-- user interrupts raised at JUIVEC -/
  raised  : Nat
  deriving DecidableEq, Repr

/-- A token in transit (R47), with the source of R49's order: charge, block, slot and consumer of the producing word, or
a unit's code. `vals` holds one payload for each position; a BUBBLE run holds zeros. -/
structure Token where
  src    : List Nat
  bind   : Nat
  hearth : Nat
  ce     : Nat
  slot   : Nat
  port   : Port
  kind   : Kind
  iter   : Iter
  vals   : List Val
  /-- payload words of a position: 1, or 2 or 4 for elements of 64 and 128 bits (R48) -/
  words  : Nat
  ctx    : Nat
  task   : Bool
  nd     : Bool
  check  : BitVec 16
  /-- the completions of engine operations that the firing which consumes this token acquires (R283) -/
  acq    : List Rel
  /-- refused by its CE with a fault, and held back until the charge resumes (R55, R59, R349) -/
  parked : Bool
  deriving DecidableEq, Repr

/-- Registers of the firebox management window and the stoker's own records. Keys are register numbers; an unlisted
number holds its reset record. -/
structure Adm where
  aspaces  : Table Aspace
  pools    : Table Pool
  ctxPool  : Pool
  parts    : Table PartReg
  vdevs    : Table Vdev
  /-- key 256 × v + q -/
  queues   : Table Queue
  sched    : Sched
  binds    : Table Bind
  /-- MM_COUNT_p: races and covlost (R297) -/
  races    : Table (BitVec 32)
  covlost  : Table (BitVec 32)
  uintLost : Table (BitVec 64)
  rings    : Table Ring
  threads  : Table Thread
  /-- completion table, least recently written first: key is the completion record's address (R292) -/
  complVecs : List (Nat × Vec)
  /-- release vector of each published timeline word, by its machine address (R292) -/
  tlVecs   : Table Vec
  /-- launches on the launch list, by acceptance number -/
  listed   : Table Launch
  /-- splice successors, which the list does not hold (R334), by slot-table index -/
  spliced  : Table Launch
  /-- tokens that wait for a charge not yet placed, by slot-table index (R69, R372) -/
  inbox    : Table (List Token)
  deriving DecidableEq, Repr

/-! ## Tokens and firings -/

/-- An entry of the matching store or of the overflow table (R58, R59): `inTable` says which. `pair` is the scale pair
bound to an entry at SCAC's port L (R175). `count` is FJOIN's count (R232). An entry of kind EOS is a held EOS (R54). -/
structure Entry where
  slot    : Nat
  port    : Port
  iter    : Iter
  kind    : Kind
  vals    : List Val
  check   : BitVec 16
  stamp   : Nat
  pair    : BitVec 16 × BitVec 16
  inTable : Bool
  count   : Nat
  acq     : List Rel
  /-- the entry's tokens carried task bit 1 (R61) -/
  task    : Bool := false
  deriving DecidableEq, Repr

/-- One position of a firing: its tag's iter and the operand at each port, `none` being BUBBLE (R54). A port that the
word does not require holds `some 0`. -/
structure FPos where
  iter : Iter
  l    : Option Val
  r    : Option Val
  p    : Option Val
  /-- scale pair bound to the L run that the position came in (R175) -/
  pair : BitVec 16 × BitVec 16 := (0, 0)
  deriving DecidableEq, Repr

/-- A ready firing (R57) of the word in block-local slot `slot`: positions with consecutive tags, the arrival stamp, and
the kind of a run that MERGE forwards (R137). A ready firing of kind SCALE is
a captured scale in an HNDL slot's arrival order (R256). -/
structure Firing where
  slot  : Nat
  pos   : List FPos
  kind  : Kind
  stamp : Nat
  /-- results of the updates that a parked join operation has already applied (R264, R275) -/
  done  : List (Option Val) := []
  /-- epoch at which a parked join operation started (R292) -/
  epoch : Option Nat := none
  acq   : List Rel := []
  deriving DecidableEq, Repr

/-! ## Matrix block -/

/-- An entry of a matrix queue (R245, R256): a matrix word with its waking run and parameters, or a captured scale. -/
inductive QEntry where
  /-- block-local slot of the word, the HNDL slot that appended it, the waking run, MGATH's p(x) and p(x + 1), and the
  charge's epoch and the cycle of the handler firing -/
  | word (slot hndl : Nat) (pos : List FPos) (p0 p1 : BitVec 32) (epoch cycle : Nat)
  /-- a stationary or streaming scale: capturing HNDL slot, tag and encoding -/
  | scale (hndl : Nat) (streaming : Bool) (iter : Iter) (enc : BitVec 16)
  deriving DecidableEq, Repr

/-- A matrix context (R241). Latch and accumulator elements are keyed 16 × row + column; an unlisted element is zero.
Scales are encodings in the format of the capturing word. `mgath` is 0, or one more than the latch
elements that the MGATH entry at the head has gathered since it started (R251). `until_` is the cycle in which the entry
started last finishes (R245). -/
structure MCtx where
  owner     : Option Nat
  latch     : Table Val
  sb        : Table (BitVec 16)
  sa        : Option (BitVec 16)
  acc       : Table Val
  latchMark : Bool
  accMarks  : BitVec 32
  /-- last scale pair each MMAS slot emitted -/
  lastPair  : Table (Option (BitVec 16) × Option (BitVec 16))
  queue     : List QEntry
  mgath     : Nat
  until_    : Nat
  parked    : Bool
  /-- flags that the entry in progress raises as it finishes, by column (R255) -/
  pend      : Table (BitVec 5)
  deriving DecidableEq, Repr

/-! ## Hearths -/

/-- An instruction slot of a CE (R44). -/
structure SlotWord where
  ctx  : Nat
  word : BitVec 64
  deriving DecidableEq, Repr

/-- A compute element: its instruction slots, the arbiter's position among contexts (the context served and the firing
starts left to it in this turn), the cycle of the last start, the cycle until which a handler run holds it, and its
matrix contexts. -/
structure Ce where
  slots     : Table SlotWord
  turnCtx   : Nat
  turnLeft  : Nat
  lastStart : Option Nat
  busyUntil : Nat
  mx0       : MCtx
  mx1       : MCtx
  /-- the matrix context served last -/
  mxLast    : Bool
  mxStart   : Option Nat
  deriving DecidableEq, Repr

/-- A tile-table entry (R194) with the tile's fill mask and zero bitmap (one bit for each element), the charge and
charge-local number of the tile. -/
structure TileEntry where
  frame  : BitVec 7
  fmt    : Fmt
  bmv    : Bool
  owner  : BitVec 4
  busy   : BitVec 6
  mapped : Bool
  state  : BitVec 2
  fill   : Nat
  bitmap : Nat
  bind   : Nat
  tile   : Nat
  deriving DecidableEq, Repr

/-- A JU firing that has entered the arrival order of its partition and has not ended (R261): CE, slot, first tag, and the cycle in which
it started (R280). -/
structure Begun where
  ce    : Nat
  slot  : Nat
  tag   : Iter
  cycle : Nat
  deriving DecidableEq, Repr

/-- A drain under way (R266, R267, R354): whether it is ordered, the CE and slot of its word, the tag of its trigger and the cycle of its
firing, and the records not yet emitted, keys and values, with the tag of the first. -/
structure Drain where
  ordered : Bool
  ce    : Nat
  slot  : Nat
  trig  : Iter
  cycle : Nat
  tag   : Nat
  todo  : List (Nat × Nat)
  deriving DecidableEq, Repr

/-- A join partition of a context on a hearth (R258), with the configuration of its join entry (R273). -/
structure Join where
  bind     : Nat
  abase    : Nat
  q        : Nat
  wide     : Bool
  limit    : Nat
  ash      : Nat
  dtl      : Nat
  wlo      : BitVec 64
  whi      : BitVec 64
  flags    : BitVec 5
  spills   : Nat
  rejects  : Nat
  longest  : Nat
  drains   : Nat
  draining : Option Drain
  /-- what the accesses of the present operation to the ash have answered, in order, a write 0: an operation that waits or is parked goes
  on at its next access (R275) -/
  memo     : List Nat
  /-- machine address of the access with which it waits at a controller (R342) -/
  want     : Option Nat
  /-- JU firings that have started and not ended (R261): at most one for each CE, and the positions of different CEs interleave -/
  begun    : List Begun
  /-- identifier counter when that drain started (R229) -/
  since    : Nat
  /-- what its engine operation releases, and the epoch of its accesses while a drain is under way (R292) -/
  vec      : Vec
  epoch    : Option Nat
  /-- the operation that goes next, before any other (R261): CE, slot and first tag of its firing, which is ready again. An
  operation parked at the JU (R275) and the later positions of a drain stand here -/
  parked   : Option (Nat × Nat × Iter)
  deriving DecidableEq, Repr

/-- A walk queued at the index engine (R271): the issuing word, the tag, the range and the parameter quad. -/
structure Walk where
  bind  : Nat
  ce    : Nat
  slot  : Nat
  iter  : Iter
  e0    : BitVec 32
  e1    : BitVec 32
  quad  : List (BitVec 32)
  region : Nat
  epoch : Nat
  /-- cycle of the firing (R280) -/
  cycle : Nat
  parked : Bool
  /-- a BUBBLE position takes its place in the order and emits BUBBLE -/
  bubble : Bool
  /-- what the walk has read so far, in order: a walk that waits or is parked goes on at its next read -/
  memo   : List Nat
  /-- machine address of the read with which it waits at a controller (R342) -/
  want   : Option Nat
  deriving DecidableEq, Repr

/-- A running or idle AG or MT program of a charge (R201, R202): whether it runs, the index of its next element, the
starts pending, the starts made since bind, the positions read and not yet sent, the positions waiting to be written,
and the routes to which done pilots go back, oldest first. -/
structure ChainSt where
  running : Bool
  index   : Nat
  pending : Nat
  starts  : Nat
  buffer  : List (Iter × Option Val)
  fifo    : List (Option Val)
  /-- hearth, CE and slot of the PSTRM -/
  routes  : List (Nat × Nat × Nat)
  parked  : Bool
  /-- when the present stream started: the identifier counter (R229), its charge's acquire table and its agent's epoch
  (R292) -/
  since   : Nat
  vec     : Vec
  epoch   : Nat
  /-- the outermost counter has completed and the stream's end has been taken (R62, R201) -/
  ended   : Bool
  /-- cycle in which the present run started -/
  began   : Nat
  deriving DecidableEq, Repr

/-- A hearth (R11, R15). -/
structure Hearth where
  /-- the open dampers: bit 0 toward the lower row, 1 the higher column, 2 the higher row, 3 the lower column (R65) -/
  dampers  : BitVec 4
  /-- the partition that holds the hearth, and the virtual device of the tenant to which it belongs (R15, R321) -/
  owner    : Option Nat
  tenant   : Option Nat
  retiring : Bool
  ways     : Table Nat
  marked   : List Nat
  ces      : Table Ce
  tiles    : Table TileEntry
  banksOff : BitVec 32
  /-- by context -/
  joins    : Table Join
  ie       : List Walk
  /-- by 1024 × unit + slot-table index -/
  ags      : Table ChainSt
  mts      : Table ChainSt
  mxs      : Table ChainSt
  shadow   : Option Nat
  deriving DecidableEq, Repr

/-- A trip of a loop header (R141). -/
structure Trip where
  n : Nat
  j : Nat
  deriving DecidableEq, Repr

/-- A trip-log record (R359). -/
structure TripLog where
  first  : Iter
  n      : Nat
  issued : Nat
  deriving DecidableEq, Repr

/-- The state of a block's loop header (R141, R359); `reissue` holds the iters and indices of a repair pass. -/
structure LoopSt where
  cnt     : Iter
  out     : Nat
  queue   : List Trip
  log     : List TripLog
  /-- trips started, of which the log holds the 4,096 most recent -/
  trips   : Nat := 0
  reissue : List (Iter × BitVec 32)
  deriving DecidableEq, Repr

/-- SCAC's scale latch (R175): sa, sb, and whether the next SCALE token is written to sb. -/
structure ScaleLatch where
  sa     : Option (BitVec 16)
  sb     : Option (BitVec 16)
  second : Bool
  deriving DecidableEq, Repr

/-- The state of one charge's context in one CE. -/
structure CeCtx where
  bind   : Nat
  /-- position of the block in the charge's image, and which CE of its span this is -/
  block  : Nat
  part   : Nat
  base   : Nat
  loaded : Bool
  entries : List Entry
  ready  : List Firing
  flags  : List (BitVec 5)
  loop   : LoopSt
  scans  : Table Iter
  latch  : Table ScaleLatch
  /-- tags of the positions whose done pilot is awaited, and whether each was BUBBLE -/
  pstrm  : Table (List (Iter × Bool))
  /-- starts of PSTRM whose done pilot has come back, oldest first, each with what the consumer of its token acquires (R283) -/
  pdone  : Table (List (List Rel))
  /-- words that have emitted EOS, with its tag -/
  eosOut : Table Iter
  deriving DecidableEq, Repr

/-! ## Charges -/

/-- A block of a charge image (R75, R78). -/
structure Block where
  shape  : Nat
  first  : Nat
  header : BitVec 128
  words  : List (BitVec 64)
  deriving DecidableEq, Repr

/-- The parts of a charge image that running needs, as the sections give them (R73 to R76). -/
structure Image where
  overflow  : Nat
  tagsel    : Nat
  cid       : BitVec 8
  timelineCount : Nat
  shape     : List (BitVec 32)
  blocks    : List Block
  edges     : List (BitVec 128)
  tracks    : List (BitVec 128)
  /-- AG programs as 96 bytes, MT programs as 32, pilot routes as 16 -/
  ags       : List (List Byte)
  mts       : List (List Byte)
  pilots    : List (BitVec 128)
  tiles     : List (BitVec 64)
  policies  : List (BitVec 32)
  shells    : List (List (BitVec 32))
  params    : List (BitVec 64)
  /-- region word, base, length -/
  regions   : List (BitVec 64 × BitVec 64 × BitVec 64)
  timelines : List (BitVec 128)
  streams   : List (BitVec 128)
  joins     : List (BitVec 128)
  deriving DecidableEq, Repr

/-- Why a walk ends with a fault (R304). -/
inductive WalkFault where
  | translation | malformed | cid | protection | absent | poison
  /-- a table entry lies in the poisoned line at a machine address (R305) -/
  | line (ma : Nat)
  deriving DecidableEq, Repr

/-- An extent (R306): consecutive pages of one region, or a page whose walk faulted, with the stage of the fault. The
frame of page i is `frame` + i. -/
structure Extent where
  region  : Nat
  vpage   : Nat
  pages   : Nat
  frame   : Nat
  tier    : BitVec 2
  moving  : Bool
  watched : Bool
  ember   : Bool
  xs      : Bool
  rd      : Bool
  wr      : Bool
  /-- permissions of stage S alone, which is checked first (R304) -/
  rdS     : Bool
  wrS     : Bool
  fault   : Option (WalkFault × Bool)
  /-- partition address of the first page (for stage W shootdowns) -/
  ppage   : Nat
  deriving DecidableEq, Repr

/-- Run phases of a bound charge (R335, R355). -/
inductive Phase where
  | running
  | freezing
  | frozen
  | swapping
  | swapped
  | halting (code : Nat)
  | aborting
  deriving DecidableEq, Repr

/-- A record of the bubble list (R358). -/
structure Bubble where
  block : BitVec 32
  slot  : Nat
  code  : Nat
  iter  : Iter
  elem  : BitVec 32
  deriving DecidableEq, Repr

/-- A timeline counter with the release vectors of its advances, one for each scope and place of release (R228, R283,
R292); `skipped` marks an unpublished advance. -/
structure Timeline where
  value   : BitVec 64
  rels    : List Rel
  /-- agent number of the engine context that advances it (R276) -/
  agent   : BitVec 16
  skipped : Bool
  deriving DecidableEq, Repr

/-- A record of the occupancy map (R347): a slot and its entries at L, R and P and in the overflow table. -/
structure OccRec where
  shape : Nat
  ce    : Nat
  slot  : Nat
  l     : Nat
  r     : Nat
  p     : Nat
  overTable  : Nat
  deriving DecidableEq, Repr

/-- A bound charge. Its key is its slot-table index. -/
structure Charge where
  image    : Image
  ctx      : Nat
  aspace   : Nat
  vdev     : Nat
  part     : Nat
  /-- the launch packet's 128 bytes, and its queue -/
  packet   : List Byte
  queue    : Nat
  bindings : List (BitVec 64)
  /-- module hearths of the region in shape order -/
  region   : List Nat
  timelines : List Timeline
  acks     : Nat
  phase    : Phase
  /-- the freeze in progress or frozen belongs to a pre-emption, not to a fault -/
  preempting : Bool
  /-- cycle, hearth and CE of the HALT whose code is recorded (R98) -/
  haltFrom : Option (Nat × Nat × Nat)
  /-- parked requests, in the order in which they were parked (R352): kind of unit and its numbers -/
  retry    : List (List Nat)
  /-- its launch's tables could not be read through the walk: the load goes on when the charge resumes (R305) -/
  loading  : Bool
  faults   : List FaultRec
  holds    : Nat
  bubbleHolds : Nat
  /-- pages and codes for which a bubble record of this pass has been posted -/
  bubbled  : List (Nat × Nat)
  bubbles  : List Bubble
  pass     : Nat
  repairing : Bool
  /-- a bubble-unrepaired fault has been raised since the last pass (R362) -/
  unrepaired : Bool
  /-- the occupancy map, and the oldest waiting tag (R347) -/
  occupancy : List OccRec
  oldest   : Option Iter
  inbox    : List Token
  /-- slot-table index of the registered successor -/
  successor : Option Nat
  /-- slot-table index of the predecessor this charge was spliced to -/
  predecessor : Option Nat
  extents  : List Extent
  agent    : BitVec 16
  epoch    : Nat
  acquired : Vec
  /-- 64 KiB frames of the context frame in order (R368), the launch-list entry from which the charge was dispatched (R334), and
  the image's machine address -/
  ctxFrames : List Nat
  /-- further frames of it, which hold the extent list (R306) and the tokens added while the charge is swapped out (R69) -/
  extFrames : List Nat := []
  inboxFrames : List Nat := []
  listEntry : BitVec 64
  imageMa  : Nat
  lastActive : Nat
  /-- first scratchpad byte of the allocation on each hearth, by module hearth number (R192) -/
  alloc    : Table Nat
  /-- scratchpad frames of its overflow tables and MT programs (R192), by module hearth number: 128 × MT + frame -/
  frames   : Table (List Nat)
  /-- of each track, its width and the switch-box directions that its path crosses (R199) -/
  paths    : List (Nat × List Nat)
  /-- address space of the packet's addresses (R330), and the completion record's address there -/
  packetAspace : Nat
  record   : Nat
  /-- what a swap has saved (R369), by shape index of the hearth: contexts by CE, whose instruction slots are the image's
  words; walks; matrix contexts by CE; tiles with their bytes and the offsets of their poisoned beats (R42); join partitions
  with their slots; scratchpad bytes with poisoned beats;
  parameter registers by CE; AG, MT and MX counter states -/
  saved    : List (Nat × Nat × CeCtx)
  savedWalks : List (Nat × Walk)
  savedMx  : List (Nat × Nat × MCtx)
  savedTiles : List (Nat × TileEntry × List Byte × List Nat)
  savedJoins : List (Nat × Join × List (Nat × List Byte))
  savedPad : List (Nat × List Byte × List Nat)
  savedParams : List (Nat × Nat × List Byte)
  savedChains : List (Nat × Table ChainSt × Table ChainSt × Table ChainSt)
  deriving DecidableEq, Repr

/-- Machine address of a charge's context frame (R368): its first 64 KiB frame. -/
def Charge.frameMa (c : Charge) : Nat := c.ctxFrames.headD 0

/-! ## Units -/

/-- A start pilot token in transit (R62), with the PSTRM that sent it. -/
structure Pilot where
  bind   : Nat
  route  : Nat
  hearth : Nat
  ce     : Nat
  slot   : Nat
  deriving DecidableEq, Repr

/-- Which unit a request belongs to (R205, R351). -/
inductive ReqUnit where
  | port (region : Nat)
  | gather
  | ie
  | ag (n : Nat)
  deriving DecidableEq, Repr

/-- A position's access in a port's reorder buffer (R205 to R210). `reply` is its result once performed, `none` inside
for BUBBLE; `parked` holds its fault. -/
structure Req where
  id     : Nat
  flight : Nat
  bind   : Nat
  hearth : Nat
  ce     : Nat
  slot   : Nat
  unit   : ReqUnit
  index  : Nat
  iter   : Iter
  op     : MemOp
  fmt    : Fmt
  wide   : Bool
  region : Nat
  elem   : Nat
  r      : Val
  p      : Val
  scope  : Scope
  bubbleOk : Bool
  /-- the access is made; a position with a BUBBLE operand or a false predicate makes none (R206) -/
  live   : Bool
  owes   : Bool
  epoch  : Nat
  done   : Bool
  reply  : Option Val
  wrote  : Bool
  parked : Bool
  left   : Bool
  cycle  : Nat
  /-- its reply leaves when its data returns (R208) -/
  tagged : Bool := false
  deriving DecidableEq, Repr

/-- A firing of a port word with positions outstanding (R209). -/
structure Flight where
  id     : Nat
  bind   : Nat
  hearth : Nat
  ce     : Nat
  slot   : Nat
  region : Nat
  iter0  : Iter
  tagged : Bool
  cmpl   : Bool
  store  : Bool
  owes   : Bool
  /-- live positions accepted, and positions performed -/
  accepted : Nat
  count  : Nat
  /-- the completion has been taken (R209) -/
  closed : Bool
  /-- what the firing that consumes its completion token acquires (R283) -/
  rels   : List Rel := []
  deriving DecidableEq, Repr

/-- A pending TLINC addition or NTFY post (R229, R233): what it waits for, and its run. -/
structure Pending where
  id     : Nat
  bind   : Nat
  hearth : Nat
  ce     : Nat
  slot   : Nat
  notify : Bool
  index  : Nat
  amount : BitVec 64
  pos    : List FPos
  /-- identifier counter when the firing started; runs sent by then on each stream of the charge -/
  upTo   : Nat
  sends  : List (Nat × Nat)
  /-- cycle of the firing (R282) -/
  cycle  : Nat
  deriving DecidableEq, Repr

/-- A parked TLWAIT position (R230). -/
structure TlWait where
  id     : Nat
  bind   : Nat
  hearth : Nat
  ce     : Nat
  slot   : Nat
  index  : Nat
  iter   : Iter
  level  : BitVec 64
  deriving DecidableEq, Repr

/-- A bulk copy (R223). -/
structure Copy where
  id     : Nat
  bind   : Nat
  hearth : Nat
  ce     : Nat
  slot   : Nat
  iter   : Iter
  flight : Nat
  srcRegion : Nat
  dstRegion : Nat
  bubbleOk : Bool
  src    : Nat
  dst    : Nat
  length : Nat
  next   : Nat
  status : Option Nat
  worst  : Nat
  parked : Bool
  vec    : Vec
  epoch  : Nat
  deriving DecidableEq, Repr

/-- A near-memory command (R224 to R226). -/
structure Nmc where
  id     : Nat
  bind   : Nat
  hearth : Nat
  ce     : Nat
  slot   : Nat
  iter   : Iter
  flight : Nat
  count  : Nat
  target : Nat
  second : Nat
  region : Nat
  fmt    : Fmt
  op     : Nat
  c0     : BitVec 64
  c1     : BitVec 64
  done   : Nat
  status : Option (Nat × Nat)
  vec    : Vec
  epoch  : Nat
  deriving DecidableEq, Repr

/-- A line that a PFCH has asked for and that is not yet fetched (R227): the element's machine address, and the ember bit of its page's
leaf. -/
structure Fetch where
  id    : Nat
  bind  : Nat
  ma    : Nat
  ember : Bool
  deriving DecidableEq, Repr

/-- A tile read in progress (R219): by a charge's word or by an MT program. -/
structure TileRead where
  id     : Nat
  hearth : Nat
  entry  : Nat
  bind   : Nat
  deriving DecidableEq, Repr

/-- A TCLR firing waiting for EMPTY (R221). -/
structure TclrWait where
  bind   : Nat
  hearth : Nat
  ce     : Nat
  slot   : Nat
  entry  : Nat
  tile   : Nat
  pos    : List FPos
  deriving DecidableEq, Repr

/-- A chimney stream of a charge (R234 to R236). Key: 256 × slot-table index + stream. -/
structure Chimney where
  /-- runs LSEND or REDN may still hand to the link -/
  credit  : Nat
  /-- runs sent, and runs acknowledged -/
  sentNo  : Nat
  ackNo   : Nat
  /-- runs handed to the link, oldest first -/
  sent    : List Frame
  /-- LRECV has been opened by its trigger: hearth, CE and slot -/
  opened  : Option (Nat × Nat × Nat)
  /-- runs arrived and not yet emitted -/
  arrived : List Frame
  /-- contributions by rank and iter, with REDN's place -/
  contrib : List (BitVec 8 × Iter × Option Val)
  place   : Option (Nat × Nat × Nat)
  carriedEos : Bool
  /-- what each unacknowledged run of LSEND releases (R282, R292), oldest first -/
  vecs    : List Vec
  deriving DecidableEq, Repr

/-- The fabric. -/
structure Fab where
  /-- by module hearth number -/
  hearths  : Table Hearth
  /-- by (48 × hearth + CE) × 16 + context -/
  ctxs     : Table CeCtx
  charges  : Table Charge
  transit  : List Token
  pilots   : List Pilot
  reqs     : List Req
  flights  : List Flight
  pending  : List Pending
  waits    : List TlWait
  copies   : List Copy
  nmcs     : List Nmc
  fetches  : List Fetch
  tileReads : List TileRead
  tclrs    : List TclrWait
  chimneys : Table Chimney
  /-- runs dropped here and reported to the module that sent them (R69): port, stream and run, oldest first -/
  dropReports : List (Nat × Nat × Frame)
  /-- (model) the next identifier, the next arrival stamp, and the next agent number to try -/
  nextId   : Nat
  stamp    : Nat
  nextAgent : Nat
  deriving DecidableEq, Repr

/-- (model) What the present step runs: a firing that a CE's arbiter has started, or an entry that a matrix block has
started. -/
inductive Sel where
  | firing (hearth ce ctx : Nat) (f : Firing)
  | entry (hearth ce : Nat) (second : Bool) (e : QEntry)
  deriving DecidableEq, Repr

/-- (model) A choice of what happens next: an event, the start of a firing or of a matrix entry in a CE, the
passing of cycles, or what a link partner does. -/
inductive Action where
  | event (i : Instr)
  /-- with the check of the entries that the firing reads (R363) -/
  | fire (hearth ce : Nat) (check : Check)
  | matrix (hearth ce : Nat)
  | advance (cycles : Nat)
  /-- the link partner of a port acknowledges runs that the retry buffer holds, oldest first (R23) -/
  | linkAck (port runs : Nat)
  deriving DecidableEq, Repr

/-- (model) What the world outside the module shows it: how its parts train at boot, the recovery images that wait for
the responder, the power divisions of coming milliseconds, and the inlet temperatures to come, each earliest first; and of the reads and
accesses that no event of the model carries (those of a join unit, of an index engine after the first of an event, of the stoker, and
writes over Ultra Ethernet) the outcomes of the checks to come, good where none is listed (R363), and whether they miss in their slice,
a hit where none is listed (R318). -/
structure Env where
  world  : BootWorld
  images : List (List Byte)
  plans  : List PowerPlan
  inlets : List (BitVec 16)
  checks : List Check
  misses : List Bool
  deriving DecidableEq, Repr

/-- Memory bytes, in ascending address order, none listed that equals what an unlisted address reads as. -/
abbrev Memory := List Host.Cell

/-- The state of the module. -/
structure State where
  cycle   : Nat
  mem     : Memory
  /-- (model) bytes the present step has written, latest first; empty between steps -/
  wlog    : List Host.Cell
  mod     : ModRegs
  memSide : MemSide
  adm     : Adm
  fab     : Fab
  firebox : Firebox
  /-- (model) -/
  env     : Env
  /-- (model) index of the next free value -/
  freshIx : Nat
  /-- (model) -/
  sel     : Option Sel
  /-- (model) -/
  agenda  : List Action
  deriving DecidableEq, Repr

/-! ## Reset records -/

def Stove.reset : Stove where
  bulkState := 0
  stackState := 0
  points := []
  stackBudget := 2450
  stoveBudget := 1400
  spareUsed := false
  hearthEnable := 0x3FFF
  hearthMap := 0xFDCBA9876543210
  spare := 14
  matrixRate := 16
  startRate := 16
  changing := []
  nextBudget := none
  transient := 0
  lasting := 0
  lastUnit := 0xFF
  lastHearth := 0xFF
  misses := 0

/-- STOVE_STATE_n.rate_point: the slowest point among the stack's channels (R19, R35). -/
def Stove.ratePoint (x : Stove) : BitVec 2 := x.points.foldl (fun n p => if n.toNat < p.2.toNat then p.2 else n) 0

def PortReg.reset : PortReg where
  dropped := 0
  transfers := 0
  retained := 0
  retry := 16
  mgmt := false
  busy := false
  mode := 0

def FlashCopy.empty : FlashCopy := { kindling := [], descriptor := [] }

def Flash.empty : Flash :=
  { a := .empty, b := .empty, bootKeyDigest := [], retired := [], assignment := [] }

def ModRegs.reset : ModRegs where
  number := 0
  boot := .rom
  flash := .empty
  stoves := List.replicate 12 .reset
  ports := List.replicate 24 .reset
  damperRej := 0
  windowRej := 0
  exitedDrop := 0
  inlet := 0
  critical := 550
  limit := 450
  actLimit := 0
  held := false
  crossed := false
  injRej := []
  pooled := []
  unenumerated := []
  retiring := []
  markedDirs := []
  bellowsMs := 0
  emberMs := 0
  bucketUs := 0

def MemSide.reset : MemSide :=
  { poison := [], tags := [], emberOwner := [], buckets := [], acts := [], deferred := [], served := [], moves := [],
    shootdowns := [] }

def Aspace.reset : Aspace := { partition := 0xFF, wRoot := 0, sRoot := 0, enable := false }

def Pool.reset : Pool := { tail := 0, head := 0, base := 0, size := 0, owner := 0xFF }

def PartReg.reset : PartReg :=
  { pq := 0, hot := 0xFF, cold := 0, rights := 0, hang := 0, state := 0 }

def Vdev.reset : Vdev := { qtable := 0, partition := 0xFF, rights := 0, state := 0, burst := 0, rate := 0 }

def Vec.empty : Vec := { entries := [], lossy := false }

def Queue.reset : Queue :=
  { state := 0, cause := 0, head := 0, tail := 0, ring := 0, lsize := 0, pcap := 0, aspace := 0, held := [],
    launched := [], destroyed := none }

def Sched.reset : Sched := { base := 0, lsize := 0, head := 0, tail := 0, seq := 0 }

def Bind.reset : Bind :=
  { entry := 0, aspace := 0, vdev := 0, origin := 0, ctx := 0, share := 0, quantum := 0, priority := 0,
    preempt := false, expired := false, state := 0, order := 0, since := 0,
    launch := none }

def Hart.reset : Hart := { pc := 0, x := [], f := [], v := [], csr := [], reserved := none, juivec := 0, juirec := 0, juivd := 0, trap := none }

def Firebox.reset : Firebox := { harts := [], lines := [], now := none }

def Thread.reset : Thread :=
  { juivec := 0, juirec := 0, registered := false, aspace := 0, running := false, pending := false, raised := 0 }

def Ring.reset : Ring :=
  { base := 0, lsize := 0, lost := 0, head := 0, tail := 0, nextSeq := 1, waiting := [], holding := [],
    irq := false }

def Adm.reset : Adm where
  aspaces := []
  pools := []
  ctxPool := .reset
  parts := []
  vdevs := []
  queues := []
  sched := .reset
  binds := []
  races := []
  covlost := []
  uintLost := []
  rings := []
  threads := []
  complVecs := []
  tlVecs := []
  listed := []
  spliced := []
  inbox := []

def MCtx.reset : MCtx :=
  { owner := none, latch := [], sb := [], sa := none, acc := [], latchMark := false, accMarks := 0, lastPair := [],
    queue := [], mgath := 0, until_ := 0, parked := false, pend := [] }

def Ce.reset : Ce :=
  { slots := [], turnCtx := 0, turnLeft := 0, lastStart := none, busyUntil := 0, mx0 := .reset, mx1 := .reset,
    mxLast := true, mxStart := none }

def TileEntry.reset : TileEntry :=
  { frame := 0, fmt := .s8, bmv := false, owner := 0, busy := 0, mapped := false, state := 0, fill := 0,
    bitmap := 0, bind := 0, tile := 0 }

def ChainSt.reset : ChainSt :=
  { running := false, index := 0, pending := 0, starts := 0, buffer := [], fifo := [], routes := [], parked := false,
    since := 0, vec := { entries := [], lossy := false }, epoch := 0, ended := false,
    began := 0 }

def Hearth.reset : Hearth :=
  { dampers := 0, owner := none, tenant := none, retiring := false, ways := [], marked := [], ces := [], tiles := [], banksOff := 0,
    joins := [], ie := [], ags := [], mts := [], mxs := [], shadow := none }

def LoopSt.reset : LoopSt := { cnt := 0, out := 0, queue := [], log := [], reissue := [] }

def ScaleLatch.reset : ScaleLatch := { sa := none, sb := none, second := false }

def CeCtx.reset (bind block part base : Nat) : CeCtx :=
  { bind := bind, block := block, part := part, base := base, loaded := true, entries := [], ready := [],
    flags := List.replicate 32 0, loop := .reset, scans := [], latch := [], pstrm := [], pdone := [], eosOut := [] }

def Chimney.reset : Chimney :=
  { credit := 0, sentNo := 0, ackNo := 0, sent := [], opened := none, arrived := [], contrib := [], place := none,
    carriedEos := false, vecs := [] }

def Fab.reset : Fab where
  hearths := []
  ctxs := []
  charges := []
  transit := []
  pilots := []
  reqs := []
  flights := []
  pending := []
  waits := []
  copies := []
  nmcs := []
  fetches := []
  tileReads := []
  tclrs := []
  chimneys := []
  dropReports := []
  nextId := 0
  stamp := 0
  nextAgent := 0

def Env.reset : Env where
  world := { badStacks := 0, badBulk := 0, badPorts := 0, badCxl := 0, components := [], regions := [], number := 0 }
  images := []
  plans := []
  inlets := []
  checks := []
  misses := []

/-- The module right after reset (R28): every register at the value the spec gives, the rest at the values of
assumption entries 1 to 3. -/
def State.reset : State where
  cycle := 0
  mem := []
  wlog := []
  mod := .reset
  memSide := .reset
  adm := .reset
  fab := .reset
  firebox := .reset
  env := .reset
  freshIx := 0
  sel := none
  agenda := []

end Sys2Proof.Machine
end

