-- ==== Sys2Proof/Machine/Mem.lean ====
section
/-!
DEFINITION. Sys2Proof/Machine/Mem.lean: machine memory, byte by byte, and how a step ends. A step writes bytes into
`State.wlog` and reads through it; `finish` moves them into `State.mem`, which keeps its canonical form.
-/

namespace Sys2Proof.Machine

/-- The byte at address `a` (an unlisted address reads 0: assumption entry 1). -/
def Memory.get : Memory → Nat → Byte
  | [], _ => 0
  | (k, b) :: rest, a => if k = a then b else Memory.get rest a

/-- `m` with byte `b` at address `a`: a zero byte is not listed. -/
def Memory.set : Memory → Nat → Byte → Memory
  | [], a, b => if b = 0 then [] else [(a, b)]
  | (k, c) :: rest, a, b =>
    if a < k then (if b = 0 then (k, c) :: rest else (a, b) :: (k, c) :: rest)
    else if a = k then (if b = 0 then rest else (a, b) :: rest)
    else (k, c) :: Memory.set rest a b

/-- Every listed address lies above `lo` (where one is given), ascending strictly, and no listed byte is 0. -/
def Memory.wfFrom : Option Nat → Memory → Bool
  | _, [] => true
  | lo, (k, b) :: rest =>
    (match lo with
     | some l => decide (l < k)
     | none => true) && b != 0 && Memory.wfFrom (some k) rest

/-- The canonical form of memory: strictly ascending addresses, no entry equal to what an unlisted address reads as. -/
def Memory.wf (m : Memory) : Bool := Memory.wfFrom none m

/-- `m` after the writes of `log`, latest first. -/
def Memory.apply (m : Memory) (log : List Host.Cell) : Memory :=
  log.foldr (fun c acc => Memory.set acc c.1 c.2) m

/-- The byte that the log, latest write first, holds for `a`, if any. -/
def logByte : List Host.Cell → Nat → Option Byte
  | [], _ => none
  | (k, b) :: rest, a => if k = a then some b else logByte rest a

/-- The byte at `a` as the present step sees it. -/
def State.byte (s : State) (a : Nat) : Byte := (logByte s.wlog a).getD (Memory.get s.mem a)

/-- `n` bytes from `a`, in ascending address order. -/
def State.bytes (s : State) (a n : Nat) : List Byte := (List.range n).map fun i => s.byte (a + i)

/-- Little-endian value of a byte string (R3). -/
def leNat : List Byte → Nat
  | [] => 0
  | b :: rest => b.toNat + 256 * leNat rest

/-- The low `n` bytes of `v`, little-endian (R3). -/
def leBytes : Nat → Nat → List Byte
  | 0, _ => []
  | n + 1, v => BitVec.ofNat 8 v :: leBytes n (v / 256)

/-- The little-endian value of `n` bytes at `a`. -/
def State.nat (s : State) (a n : Nat) : Nat := leNat (s.bytes a n)

/-- `s` with one byte written. -/
def State.putByte (s : State) (a : Nat) (b : Byte) : State := { s with wlog := (a, b) :: s.wlog }

/-- `s` with bytes written from `a` upward. -/
def State.putBytes (s : State) : Nat → List Byte → State
  | _, [] => s
  | a, b :: rest => (s.putByte a b).putBytes (a + 1) rest

/-- The firebox after a step has written the bytes of `log` (R13): a reservation is lost to a write by anyone but its own hart, and the
directory takes from the cores' caches a line that an agent other than a hart has written. -/
def Firebox.settle (f : Firebox) (log : List Host.Cell) : Firebox :=
  { harts := f.harts.map fun (k, x) =>
      (k, if f.now ≠ some k && (x.reserved.any fun r => log.any fun c => r.1 ≤ c.1 && c.1 < r.1 + r.2) then
            { x with reserved := none }
          else x)
    lines := if f.now.isSome then f.lines else f.lines.filter fun (l, _) => !(log.any fun c => c.1 / 256 == l)
    now := none }

/-- The state that follows `s` when the step has computed `t`: the bytes written join memory. -/
def commit (s t : State) : State :=
  { t with mem := Memory.apply s.mem t.wlog, firebox := t.firebox.settle t.wlog, wlog := [], sel := none }

/-- A step that takes place (`some t`) or has no effect yet (`none`: the event is not enabled, or waits). -/
def finish (s : State) : Option State → Host.Outcome State Fault Refusal
  | some t => .next (commit s t)
  | none => .next { s with wlog := [], sel := none }

/-- A fresh free value (Config.freeValue), and the state that has used it up. -/
def State.free (s : State) : BitVec 128 × State := (Config.freeValue s.freshIx, { s with freshIx := s.freshIx + 1 })

/-- The outcome of the next check of a read that no event carries, and whether the next such access misses its slice (R318, R363). -/
def State.nextCheck (s : State) : Check × State :=
  (s.env.checks.headD .good, { s with env := { s.env with checks := s.env.checks.drop 1 } })
def State.nextMiss (s : State) : Bool × State :=
  (s.env.misses.headD false, { s with env := { s.env with misses := s.env.misses.drop 1 } })

end Sys2Proof.Machine
end

