-- ==== Sys2Proof/Machine/Num.lean ====
section
/-!
DEFINITION. Sys2Proof/Machine/Num.lean: element formats as integers and as bit patterns (R108, R109, R48), tag fields
(R50), and the check function (R77).
-/

namespace Sys2Proof

/-- Bits of an element (R108, R109). -/
def Fmt.bits : Fmt → Nat
  | .s8 | .n8 | .e4m3 | .e5m2 => 8
  | .s16 | .n16 | .f16 | .bf16 | .cb2 => 16
  | .s32 | .n32 | .f32 => 32
  | .s64 | .n64 | .f64 => 64
  | .b1 => 1

/-- The format's code (R108, R109). -/
def Fmt.code : Fmt → Nat
  | .s8 => 0 | .n8 => 1 | .s16 => 2 | .n16 => 3 | .s32 => 4 | .n32 => 5 | .s64 => 6 | .n64 => 7
  | .e4m3 => 8 | .e5m2 => 9 | .f16 => 10 | .bf16 => 11 | .f32 => 12 | .f64 => 13 | .cb2 => 14 | .b1 => 15

/-- The format of a code; every 4-bit code names one. -/
def Fmt.ofCode (c : Nat) : Fmt :=
  match c % 16 with
  | 0 => .s8 | 1 => .n8 | 2 => .s16 | 3 => .n16 | 4 => .s32 | 5 => .n32 | 6 => .s64 | 7 => .n64
  | 8 => .e4m3 | 9 => .e5m2 | 10 => .f16 | 11 => .bf16 | 12 => .f32 | 13 => .f64 | 14 => .cb2 | _ => .b1

def Fmt.isInt (f : Fmt) : Bool := f.code < 8

/-- Signed integer formats: bit 0 of the code is 0 (R109). -/
def Fmt.isSigned (f : Fmt) : Bool := f.isInt && f.code % 2 == 0

def Fmt.isFloat (f : Fmt) : Bool := 8 ≤ f.code && f.code < 14

/-- Class F of R128. -/
def Fmt.classF (f : Fmt) : Bool := f == .f16 || f == .bf16 || f == .f32 || f == .f64

/-- Positions that one run of the format can hold (R48). -/
def Fmt.maxRun (f : Fmt) : Nat := if f.bits = 64 then 16 else 32

namespace Machine

/-- The element's bits: the low bits of a payload, read in the format. DESIGN CHOICE (assumption entry 107): a run whose producer's elements
have another width maps position by position, each value's low bits. -/
def elemBits (f : Fmt) (v : Val) : Nat := v.toNat % 2 ^ f.bits

/-- A payload from element bits (R48: the unused bits are zero). -/
def mkVal (f : Fmt) (n : Nat) : Val := BitVec.ofNat 128 (n % 2 ^ f.bits)

/-- The integer that `w` bits denote as two's complement. -/
def signedOf (w n : Nat) : Int := if n % 2 ^ w < 2 ^ (w - 1) then (n % 2 ^ w : Nat) else (n % 2 ^ w : Nat) - (2 ^ w : Nat)

/-- The integer that the bits denote in width `w` (R109). -/
def intOf (signed : Bool) (w n : Nat) : Int := if signed then signedOf w n else (n % 2 ^ w : Nat)

/-- The low `w` bits of an integer. -/
def wrapInt (w : Nat) (e : Int) : Nat := (e % (2 ^ w : Nat)).toNat

def loBound (signed : Bool) (w : Nat) : Int := if signed then -(2 ^ (w - 1) : Nat) else 0
def hiBound (signed : Bool) (w : Nat) : Int := if signed then (2 ^ (w - 1) : Nat) - 1 else (2 ^ w : Nat) - 1

def clampTo (lo hi e : Int) : Int := if e < lo then lo else if hi < e then hi else e

/-- An exact integer delivered in width `w`: wrapped, or clamped with sat (R120). -/
def deliverInt (signed sat : Bool) (w : Nat) (e : Int) : Nat :=
  wrapInt w (if sat then clampTo (loBound signed w) (hiBound signed w) e else e)

/-- The integer that a payload denotes in an integer format. -/
def fmtInt (f : Fmt) (v : Val) : Int := intOf f.isSigned f.bits v.toNat

/-- Whether an integer lies in the format's range. -/
def fits (f : Fmt) (e : Int) : Bool := loBound f.isSigned f.bits ≤ e && e ≤ hiBound f.isSigned f.bits

/-! ## Tag fields (R50) -/

/-- Widths of f0, f1 and f2 by selector; 0 marks a field that is not declared. -/
def fieldWidths (sel : Nat) : Nat × Nat × Nat :=
  match sel with
  | 0 => (24, 0, 0) | 1 => (16, 8, 0) | 2 => (12, 12, 0) | 3 => (8, 16, 0) | 4 => (4, 20, 0) | 5 => (3, 21, 0)
  | 6 => (2, 22, 0) | 7 => (1, 23, 0) | 8 => (8, 8, 8) | 9 => (10, 10, 4) | 10 => (3, 13, 8) | 11 => (16, 4, 4)
  | 12 => (3, 9, 12) | 13 => (12, 6, 6) | 14 => (3, 5, 16) | _ => (24, 0, 0)

/-- Width of field `k`; field 3 is the whole iter (R87). -/
def fieldWidth (sel k : Nat) : Nat :=
  match k with
  | 0 => (fieldWidths sel).1
  | 1 => (fieldWidths sel).2.1
  | 2 => (fieldWidths sel).2.2
  | _ => 24

/-- Lowest bit of field `k`. -/
def fieldLow (sel k : Nat) : Nat :=
  match k with
  | 1 => (fieldWidths sel).1
  | 2 => (fieldWidths sel).1 + (fieldWidths sel).2.1
  | _ => 0

def getField (sel : Nat) (it : Iter) (k : Nat) : Nat := it.toNat / 2 ^ fieldLow sel k % 2 ^ fieldWidth sel k

/-- The iter with field `k` set to `v` modulo 2^width. -/
def setField (sel : Nat) (it : Iter) (k v : Nat) : Iter :=
  let lo := fieldLow sel k
  let w := fieldWidth sel k
  BitVec.ofNat 24 (it.toNat - getField sel it k * 2 ^ lo + v % 2 ^ w * 2 ^ lo)

/-- Whether tag `a` is older than tag `b` (R70). -/
def older (a b : Iter) : Bool := (a - b).msb

/-! ## The check function (R77) -/

/-- One bit of the check: generator 0x8BB7, most significant bit first. -/
def crcBit (r : Nat) (b : Nat) : Nat :=
  let t := r / 32768 ^^^ b
  let r' := r * 2 % 65536
  if t % 2 = 1 then r' ^^^ 0x8BB7 else r'

def crcBits : Nat → Nat → Nat → Nat
  | 0, _, r => r
  | n + 1, v, r => crcBits n v (crcBit r (v / 2 ^ n % 2))

/-- The check of a byte string. -/
def crc16 (bs : List Byte) : Nat := bs.foldl (fun r b => crcBits 8 b.toNat r) 0

/-- Bits [hi:lo] of a number (R3). -/
def bitsOf (v hi lo : Nat) : Nat := v / 2 ^ lo % 2 ^ (hi + 1 - lo)

/-- Bit `i` of a number. -/
def bitOf (v i : Nat) : Bool := v / 2 ^ i % 2 == 1

def boolNat (b : Bool) : Nat := if b then 1 else 0

end Machine
end Sys2Proof
end

