-- ==== Sys2Proof/Machine/Float.lean ====
section
/-!
DEFINITION. Sys2Proof/Machine/Float.lean: floating formats, the policy word, rounding, overflow, tiny results and NaN
(R108, R115 to R121), exact arithmetic on decoded values, and the conversions between formats (R171).
-/

namespace Sys2Proof.Machine

/-- Exponent bits, mantissa bits and bias of a floating format (R108). -/
structure FltSpec where
  e    : Nat
  m    : Nat
  bias : Nat
  deriving DecidableEq, Repr

def fltSpec : Fmt → FltSpec
  | .e4m3 => ⟨4, 3, 7⟩
  | .e5m2 => ⟨5, 2, 15⟩
  | .f16 => ⟨5, 10, 15⟩
  | .bf16 => ⟨8, 7, 127⟩
  | .f64 => ⟨11, 52, 1023⟩
  | _ => ⟨8, 23, 127⟩

/-- A decoded floating value: a NaN with its sign, mantissa field (left-aligned in 52 bits) and whether it signals; an
infinity; or (-1)^s × m × 2^e. -/
inductive FVal where
  | nan (s sig : Bool) (mant : Nat)
  | inf (s : Bool)
  | fin (s : Bool) (m : Nat) (e : Int)
  deriving DecidableEq, Repr

/-- The policy word (R115). -/
structure Policy where
  cbtab : Nat
  zpos  : Bool
  nanp  : Bool
  fout  : Bool
  fin   : Bool
  deriving DecidableEq, Repr

def policyOf (w : BitVec 32) : Policy :=
  { cbtab := bitsOf w.toNat 5 4, zpos := bitOf w.toNat 3, nanp := bitOf w.toNat 2, fout := bitOf w.toNat 1,
    fin := bitOf w.toNat 0 }

/-- Sticky flags of R122: nv, dz, of, uf, nx from bit 4 down. -/
abbrev Flags := BitVec 5

def flNV : Flags := 16
def flDZ : Flags := 8
def flOF : Flags := 4
def flUF : Flags := 2
def flNX : Flags := 1

/-- The bits of a floating element decoded as they stand (R108). -/
def decodeFlt (f : Fmt) (bits : Nat) : FVal :=
  let sp := fltSpec f
  let s := bitOf bits (sp.e + sp.m)
  let ex := bits / 2 ^ sp.m % 2 ^ sp.e
  let mt := bits % 2 ^ sp.m
  if f = .e4m3 then
    if ex = 15 ∧ mt = 7 then .nan s false (7 * 2 ^ 49)
    else if ex = 0 then .fin s mt (-9)
    else .fin s (8 + mt) ((ex : Int) - 10)
  else if ex = 2 ^ sp.e - 1 then
    if mt = 0 then .inf s else .nan s (mt < 2 ^ (sp.m - 1)) (mt * 2 ^ (52 - sp.m))
  else if ex = 0 then .fin s mt (1 - (sp.bias : Int) - sp.m)
  else .fin s (2 ^ sp.m + mt) ((ex : Int) - sp.bias - sp.m)

/-- The value of an operand of a floating format: a subnormal is read as zero with fin (R116). -/
def readFlt (p : Policy) (f : Fmt) (v : Val) : FVal :=
  match decodeFlt f (elemBits f v) with
  | .fin s m e => if p.fin ∧ m < 2 ^ (fltSpec f).m then .fin s 0 e else .fin s m e
  | x => x

def fltSign (f : Fmt) (s : Bool) : Nat := if s then 2 ^ (f.bits - 1) else 0

/-- The infinity of a format that has one. -/
def fltInf (f : Fmt) (s : Bool) : Nat := fltSign f s + (2 ^ (fltSpec f).e - 1) * 2 ^ (fltSpec f).m

/-- The largest finite value (R108). -/
def fltMax (f : Fmt) (s : Bool) : Nat := if f = .e4m3 then fltSign f s + 0x7E else fltInf f s - 1

/-- The canonical NaN (R108). -/
def fltNaN (f : Fmt) : Nat :=
  if f = .e4m3 then 0x7F else fltInf f false + 2 ^ ((fltSpec f).m - 1)

/-- A propagated NaN in format `f`: quieted, its payload extended or truncated (R117). -/
def fltNaNOf (f : Fmt) (s : Bool) (mant : Nat) : Nat :=
  if f = .e4m3 then fltSign f s + 0x7F
  else
    let mt := mant / 2 ^ (52 - (fltSpec f).m)
    fltInf f s + mt % 2 ^ ((fltSpec f).m - 1) + 2 ^ ((fltSpec f).m - 1)

/-- The NaN that an operation on `ops`, in the order L, R, P, delivers (R117). -/
def nanResult (p : Policy) (f : Fmt) (ops : List FVal) : Nat :=
  if p.nanp then
    match ops.find? (fun o => match o with | .nan .. => true | _ => false) with
    | some (.nan s _ m) => fltNaNOf f s m
    | _ => fltNaN f
  else fltNaN f

def isSNaN : FVal → Bool
  | .nan _ sig _ => sig
  | _ => false

def isNaN : FVal → Bool
  | .nan .. => true
  | _ => false

/-- NV for a signalling operand (R117). -/
def snanFlag (ops : List FVal) : Flags := if ops.any isSNaN then flNV else 0

/-- Whether rounding mode `rnd` takes the magnitude up, for a discarded part of `rem` in `den` (and more, with
`sticky`), the kept number's parity and the sign (R118). -/
def roundUp (rnd : Nat) (s odd : Bool) (rem den : Nat) (sticky : Bool) : Bool :=
  let inexact := rem ≠ 0 || sticky
  match rnd with
  | 0 => den < 2 * rem || (2 * rem == den && (sticky || odd))
  | 1 => false
  | 2 => inexact && !s
  | 3 => inexact && s
  | _ => den ≤ 2 * rem

/-- `m / 2^sh` rounded to an integer, and whether anything was discarded. -/
def roundShift (rnd : Nat) (s : Bool) (m sh : Nat) (sticky : Bool) : Nat × Bool :=
  let q := m / 2 ^ sh
  let rem := m % 2 ^ sh
  let den := 2 ^ sh
  let up := if sh = 0 then (rnd == 2 && sticky && !s) || (rnd == 3 && sticky && s)
            else roundUp rnd s (q % 2 == 1) rem den sticky
  (if up then q + 1 else q, rem ≠ 0 || sticky)

def bitLen (m : Nat) : Nat := if m = 0 then 0 else Nat.log2 m + 1

/-- What an overflowed result is delivered as (R119). -/
def overflowed (p : Policy) (f : Fmt) (rnd : Nat) (sat s : Bool) : Nat :=
  if sat then fltMax f s
  else if f = .e4m3 then nanResult p f []
  else match rnd with
    | 1 => fltMax f s
    | 2 => if s then fltMax f s else fltInf f s
    | 3 => if s then fltInf f s else fltMax f s
    | _ => fltInf f s

/-- The value `m × 2^e` with sign `s`, or a little above it in magnitude with `sticky`, rounded once to format `f`
(R116, R118, R119). `m` is not zero; with `sticky` it has more bits than the format keeps. -/
def roundFlt (p : Policy) (f : Fmt) (rnd : Nat) (sat s : Bool) (m : Nat) (e : Int) (sticky : Bool) : Nat × Flags :=
  let sp := fltSpec f
  let prec := sp.m + 1
  let emin : Int := 1 - (sp.bias : Int)
  let len := bitLen m
  -- unbounded exponent: `prec` bits kept
  let (mu, eu, _) :=
    if len ≤ prec then (m * 2 ^ (prec - len), e - (prec - len : Nat), sticky)
    else
      let (q, inex) := roundShift rnd s m (len - prec) sticky
      (q, e + (len - prec : Nat), inex)
  let (mu, eu) := if mu = 2 ^ prec then (2 ^ (prec - 1), eu + 1) else (mu, eu)
  let top : Int := eu + sp.m            -- exponent of the leading bit
  if top < emin then
    -- tiny
    if p.fout then (fltSign f s, flUF ||| flNX)
    else
      let q : Int := emin - sp.m
      let (k, inex) :=
        if e ≤ q then roundShift rnd s m (q - e).toNat sticky else (m * 2 ^ (e - q).toNat, sticky)
      (fltSign f s + k, if inex then flUF ||| flNX else 0)
  else
    let field := (top - emin + 1).toNat
    let enc := field * 2 ^ sp.m + (mu - 2 ^ sp.m)
    if enc > fltMax f false then (overflowed p f rnd sat s, flOF ||| flNX)
    else
      let inex := if len ≤ prec then sticky else m % 2 ^ (len - prec) ≠ 0 || sticky
      (fltSign f s + enc, if inex then flNX else 0)

/-- A zero of sign `s`; with zpos a zero sum is +0 (R115). -/
def zeroFlt (p : Policy) (f : Fmt) (sum s : Bool) : Nat := fltSign f (s && !(sum && p.zpos))

/-- The zero result of a sum under zpos: every zero result of an addition is +0 (R115). -/
def posZero (p : Policy) (f : Fmt) (r : Nat × Flags) : Nat × Flags :=
  if p.zpos ∧ r.1 = fltSign f true then (0, r.2) else r

/-- The exact number (-1)^s × m × 2^e as an integer multiple of 2^q, for q ≤ e. -/
def scaled (s : Bool) (m : Nat) (e q : Int) : Int :=
  let v : Int := (m * 2 ^ (e - q).toNat : Nat)
  if s then -v else v

/-- An exact finite result delivered in `f`. `zs` is the sign of an exact zero. -/
def deliver (p : Policy) (f : Fmt) (rnd : Nat) (sat sum zs : Bool) (v e : Int) : Nat × Flags :=
  if v = 0 then (zeroFlt p f sum zs, 0)
  else
    let r := roundFlt p f rnd sat (v < 0) v.natAbs e false
    if sum then posZero p f r else r

/-- The sum of exact values, the first two signs deciding the sign of an exact zero (R115, R118): infinities first. -/
def sumFlt (p : Policy) (f : Fmt) (rnd : Nat) (sat : Bool) (a b : FVal) (nans : List FVal) : Nat × Flags :=
  match a, b with
  | .nan .., _ => (nanResult p f nans, snanFlag nans)
  | _, .nan .. => (nanResult p f nans, snanFlag nans)
  | .inf s, .inf t =>
    if s = t then
      if f = .e4m3 then (if sat then (fltMax f s, 0) else (nanResult p f [], flNV)) else (fltInf f s, 0)
    else (nanResult p f nans, flNV)
  | .inf s, _ => (fltInf f s, 0)
  | _, .inf s => (fltInf f s, 0)
  | .fin s m e, .fin t n g =>
    let q := min e g
    let v := scaled s m e q + scaled t n g q
    let zs := if m = 0 ∧ n = 0 then (if s = t then s else rnd == 3) else rnd == 3
    deliver p f rnd sat true zs v q

def negF : FVal → FVal
  | .nan s g m => .nan s g m
  | .inf s => .inf (!s)
  | .fin s m e => .fin (!s) m e

/-- The exact product of two operands, or `none` for 0 × ∞. -/
def prodExact : FVal → FVal → Option FVal
  | .nan s g m, _ => some (.nan s g m)
  | _, .nan s g m => some (.nan s g m)
  | .inf s, .inf t => some (.inf (s != t))
  | .inf s, .fin t n _ => if n = 0 then none else some (.inf (s != t))
  | .fin s m _, .inf t => if m = 0 then none else some (.inf (s != t))
  | .fin s m e, .fin t n g => some (.fin (s != t) (m * n) (e + g))

/-- FADD, FSUB (R162). -/
def fltAdd (p : Policy) (f : Fmt) (rnd : Nat) (sat : Bool) (a b : FVal) : Nat × Flags :=
  sumFlt p f rnd sat a b [a, b]

/-- FMUL (R162). -/
def fltMul (p : Policy) (f : Fmt) (rnd : Nat) (sat : Bool) (a b : FVal) : Nat × Flags :=
  match prodExact a b with
  | none => (nanResult p f [], flNV)
  | some (.nan ..) => (nanResult p f [a, b], snanFlag [a, b])
  | some (.inf s) => (fltInf f s, 0)
  | some (.fin s m e) => if m = 0 then (fltSign f s, 0) else roundFlt p f rnd sat s m e false

/-- a × b + c rounded once (R162). NaN operands in the order given: c, a parameter for FMA and FNMA, which R117's order L, R, P does not
name, comes after L and R (DESIGN CHOICE, assumption entry 105). -/
def fltFma (p : Policy) (f : Fmt) (rnd : Nat) (sat : Bool) (a b c : FVal) (neg : Bool) : Nat × Flags :=
  let nans := [a, b, c]
  match prodExact a b with
  | none => (nanResult p f nans, flNV)
  | some (.nan ..) => (nanResult p f nans, snanFlag nans)
  | some q => sumFlt p f rnd sat (if neg then negF q else q) c nans

/-- FDIV (R162). -/
def fltDiv (p : Policy) (f : Fmt) (rnd : Nat) (sat : Bool) (a b : FVal) : Nat × Flags :=
  match a, b with
  | .nan .., _ => (nanResult p f [a, b], snanFlag [a, b])
  | _, .nan .. => (nanResult p f [a, b], snanFlag [a, b])
  | .inf _, .inf _ => (nanResult p f [], flNV)
  | .inf s, .fin t _ _ => (fltInf f (s != t), 0)
  | .fin s _ _, .inf t => (fltSign f (s != t), 0)
  | .fin s m e, .fin t n g =>
    if n = 0 then
      if m = 0 then (nanResult p f [], flNV) else (fltInf f (s != t), flDZ)
    else if m = 0 then (fltSign f (s != t), 0)
    else
      let k := 70 + bitLen n
      roundFlt p f rnd sat (s != t) (m * 2 ^ k / n) (e - g - (k : Nat)) (m * 2 ^ k % n ≠ 0)

/-- Bits of an integer square root, from bit `fuel` down. -/
def sqrtGo : Nat → Nat → Nat → Nat
  | 0, _, r => r
  | k + 1, n, r => sqrtGo k n (if (r + 2 ^ k) * (r + 2 ^ k) ≤ n then r + 2 ^ k else r)

/-- ⌊√n⌋. -/
def isqrt (n : Nat) : Nat := sqrtGo (bitLen n / 2 + 1) n 0

/-- FSQRT (R162). -/
def fltSqrt (p : Policy) (f : Fmt) (rnd : Nat) (a : FVal) : Nat × Flags :=
  match a with
  | .nan .. => (nanResult p f [a], snanFlag [a])
  | .inf s => if s then (nanResult p f [], flNV) else (fltInf f false, 0)
  | .fin s m e =>
    if m = 0 then (fltSign f s, 0)
    else if s then (nanResult p f [], flNV)
    else
      -- an even exponent and at least 130 bits under the root
      let (m, e) := if e % 2 = 0 then (m, e) else (2 * m, e - 1)
      let n := m * 2 ^ 140
      let r := isqrt n
      roundFlt p f rnd false false r ((e - 140) / 2) (r * r ≠ n)

/-- a × 2^k (FSCAL, R162): a NaN is delivered unchanged. -/
def fltScal (p : Policy) (f : Fmt) (rnd : Nat) (sat : Bool) (a : FVal) (k : Int) : Nat × Flags :=
  match a with
  | .nan s _ m => (fltInf f s + m / 2 ^ (52 - (fltSpec f).m), snanFlag [a])
  | .inf s => (fltInf f s, 0)
  | .fin s m e => if m = 0 then (fltSign f s, 0) else roundFlt p f rnd sat s m (e + k) false

/-- The exact order of two values that are not NaN, with −0 below +0 when `signed0`. -/
def fltCmp (signed0 : Bool) (a b : FVal) : Ordering :=
  match a, b with
  | .inf s, .inf t => if s = t then .eq else if s then .lt else .gt
  | .inf s, _ => if s then .lt else .gt
  | _, .inf t => if t then .gt else .lt
  | .fin s m e, .fin t n g =>
    let q := min e g
    let x := scaled s m e q
    let y := scaled t n g q
    if x < y then .lt else if y < x then .gt
    else if signed0 ∧ m = 0 ∧ n = 0 ∧ s ≠ t then (if s then .lt else .gt) else .eq
  | _, _ => .eq

/-- A value that is delivered without rounding: the operand as read (R163, R115). -/
def encodeFlt (f : Fmt) (a : FVal) : Nat :=
  match a with
  | .nan s _ m => fltNaNOf f s m
  | .inf s => fltInf f s
  | .fin s m e =>
    if m = 0 then fltSign f s
    else (roundFlt { cbtab := 0, zpos := false, nanp := false, fout := false, fin := false } f 0 false s m e false).1

/-- A result that was not rounded, under fout (R116): a subnormal becomes zero with UF and NX. -/
def flushTiny (p : Policy) (f : Fmt) (r : Nat × Flags) : Nat × Flags :=
  let mag := r.1 % 2 ^ (f.bits - 1)
  if p.fout ∧ 0 < mag ∧ mag < 2 ^ (fltSpec f).m then (r.1 - mag, r.2 ||| flUF ||| flNX) else r

/-- FMIN and FMAX (R163). -/
def fltMinMax (p : Policy) (f : Fmt) (mx : Bool) (a b : FVal) : Nat × Flags :=
  let fl := snanFlag [a, b]
  match a, b with
  | .nan .., .nan .. => (nanResult p f [a, b], fl)
  | .nan .., _ => flushTiny p f (encodeFlt f b, fl)
  | _, .nan .. => flushTiny p f (encodeFlt f a, fl)
  | _, _ =>
    let lt := fltCmp true a b == .lt
    flushTiny p f (encodeFlt f (if lt != mx then a else b), fl)

/-- FCMP (R165): condition codes of R129. -/
def fltCond (cond : Nat) (a b : FVal) : Bool × Flags :=
  if isNaN a || isNaN b then
    (cond == 1 || cond == 6, if isSNaN a || isSNaN b || (2 ≤ cond && cond ≤ 5) then flNV else 0)
  else
    let o := fltCmp false a b
    (match cond with
     | 0 => o == .eq
     | 1 => o != .eq
     | 2 => o == .lt
     | 3 => o != .gt
     | 4 => o == .gt
     | 5 => o != .lt
     | _ => false, 0)

/-- FCLASS (R166): bits classified as they stand. -/
def fltClass (f : Fmt) (bits : Nat) : Nat :=
  match decodeFlt f bits with
  | .nan _ sig _ => if sig then 2 ^ 8 else 2 ^ 9
  | .inf s => if s then 2 ^ 0 else 2 ^ 7
  | .fin s m _ =>
    if m = 0 then (if s then 2 ^ 3 else 2 ^ 4)
    else if m < 2 ^ (fltSpec f).m then (if s then 2 ^ 2 else 2 ^ 5)
    else if s then 2 ^ 1 else 2 ^ 6

/-- A finite value rounded to an integral magnitude, and whether that changed it. -/
def roundIntegral (rnd : Nat) (s : Bool) (m : Nat) (e : Int) : Nat × Bool :=
  if 0 ≤ e then (m * 2 ^ e.toNat, false) else roundShift rnd s m (-e).toNat false

/-- FRND (R167). -/
def fltRnd (p : Policy) (f : Fmt) (rnd : Nat) (a : FVal) : Nat × Flags :=
  match a with
  | .nan .. => (nanResult p f [a], snanFlag [a])
  | .inf s => (fltInf f s, 0)
  | .fin s m e =>
    let (k, inex) := roundIntegral rnd s m e
    (encodeFlt f (.fin s k 0), if inex then flNX else 0)

/-! ## Conversions (R171, R120) -/

/-- Floating to floating. An infinity into e4m3 follows R119. -/
def fltToFlt (p : Policy) (dst : Fmt) (rnd : Nat) (sat : Bool) (a : FVal) : Nat × Flags :=
  match a with
  | .nan .. => (nanResult p dst [a], snanFlag [a])
  | .inf s =>
    if dst = .e4m3 then (if sat then (fltMax dst s, 0) else (nanResult p dst [], flNV)) else (fltInf dst s, 0)
  | .fin s m e => if m = 0 then (fltSign dst s, 0) else roundFlt p dst rnd sat s m e false

/-- Integer to floating. -/
def intToFlt (p : Policy) (dst : Fmt) (rnd : Nat) (sat : Bool) (n : Int) : Nat × Flags :=
  if n = 0 then (0, 0) else roundFlt p dst rnd sat (n < 0) n.natAbs 0 false

/-- The exact integer that a finite value rounds to. -/
def fltToInt (rnd : Nat) (s : Bool) (m : Nat) (e : Int) : Int × Bool :=
  let (k, inex) := roundIntegral rnd s m e
  (if s then -(k : Int) else k, inex)

/-- Floating to integer (R120): clamps whatever sat holds. -/
def fltToIntFmt (dst : Fmt) (rnd : Nat) (a : FVal) : Nat × Flags :=
  match a with
  | .nan .. => (0, flNV)
  | .inf s => (wrapInt dst.bits (if s then loBound dst.isSigned dst.bits else hiBound dst.isSigned dst.bits), flNV)
  | .fin s m e =>
    let (v, inex) := fltToInt rnd s m e
    if fits dst v then (wrapInt dst.bits v, if inex then flNX else 0)
    else (deliverInt dst.isSigned true dst.bits v, flNV)

/-- CVT (R171). -/
def convert (p : Policy) (src dst : Fmt) (rnd : Nat) (sat : Bool) (v : Val) : Nat × Flags :=
  if src.isFloat then
    if dst.isFloat then fltToFlt p dst rnd sat (readFlt p src v) else fltToIntFmt dst rnd (readFlt p src v)
  else if dst.isFloat then intToFlt p dst rnd sat (fmtInt src v)
  else (deliverInt dst.isSigned sat dst.bits (fmtInt src v), 0)

/-- Whether a finite value overflows format `dst` (R119): the flags of its rounding say so. -/
def fltOverflows (dst : Fmt) (rnd : Nat) (a : FVal) : Bool :=
  match a with
  | .fin s m e =>
    m ≠ 0 && (roundFlt { cbtab := 0, zpos := false, nanp := false, fout := false, fin := false } dst rnd true s m e
      false).2 &&& flOF ≠ 0
  | _ => false

/-- An outlier of CVTO and CVTL (R121): overflow, or an infinity or NaN that the target cannot hold. For an integer
target a finite source outside the range overflows. -/
def isOutlier (dst : Fmt) (rnd : Nat) (a : FVal) : Bool :=
  match a with
  | .nan .. => dst.isInt
  | .inf _ => dst.isInt || dst == .e4m3
  | .fin s m e => if dst.isInt then !(fits dst (fltToInt rnd s m e).1) else fltOverflows dst rnd a

/-! ## Scales (R113, R174, R175) -/

/-- A scale's value: an e8 exponent or a bf16 encoding. An e8 NaN is a quiet NaN that never propagates a payload. -/
def scaleVal (p : Policy) (e8 : Bool) (v : Nat) : FVal :=
  if e8 then
    if v % 256 = 255 then .nan false false (2 ^ 51) else .fin false 1 ((v % 256 : Nat) - 127)
  else readFlt p .bf16 (BitVec.ofNat 128 v)

/-! ## The codebook format (R111) -/

/-- Weight `w` of index `i` under a shell-table entry. -/
def cbWeight (entry i w : Nat) : Int :=
  let h := i % 2
  let sgn := if w = 7 then (List.range 7).foldl (fun a k => a != bitOf i (k + 1)) false else bitOf i (w + 1)
  let mag : Int := (2 * bitsOf entry (4 * w + 2) (4 * w) + h : Nat)
  if sgn then -mag else mag

/-- The eight weights of an index, from its shell table (R111, R112). -/
def cbWeights (shell : List (BitVec 32)) (i : Nat) : List Int :=
  let entry := (shell.getD (i / 256 % 256) 0).toNat
  (List.range 8).map (cbWeight entry i)

end Sys2Proof.Machine
end

