-- ==== Sys2Proof/Machine/Ops.lean ====
section
/-!
DEFINITION. Sys2Proof/Machine/Ops.lean: named operations on the state: the records of the fabric, counters, the firebox
window of counters, taking a fault (R349, R351, R355, R356) and resuming after one (R352).
-/

namespace Sys2Proof.Machine

/-! ## Geometry (R10, R65) -/

def hearthCount : Nat := 168
def ceCount : Nat := 48

/-- Module hearth number of logical index `i` of stove `n` (R10). -/
def hearthOf (stove i : Nat) : Nat := 14 * stove + i

def stoveOf (h : Nat) : Nat := h / 14
def logicalOf (h : Nat) : Nat := h % 14

/-- Column and row of a hearth in its stove's grid (R65). -/
def columnOf (h : Nat) : Nat := logicalOf h / 2
def rowOf (h : Nat) : Nat := logicalOf h % 2

/-- The neighbour of a hearth in a grid direction: 0 the lower row, 1 the higher column, 2 the higher row, 3 the lower column;
none across the outer edge (R65). -/
def neighbour (h d : Nat) : Option Nat :=
  match d with
  | 0 => if rowOf h = 1 then some (h - 1) else none
  | 1 => if columnOf h < 6 then some (h + 2) else none
  | 2 => if rowOf h = 0 then some (h + 1) else none
  | _ => if 0 < columnOf h then some (h - 2) else none

/-- The side of hearth `g` that borders hearth `h`. -/
def borderSide (g h : Nat) : Option Nat := [0, 1, 2, 3].find? fun d => neighbour g d == some h

/-- The dampers of a hearth that stand on a border with another: those on the grid's outer edge pass nothing (R65). -/
def innerDampers (h : Nat) : BitVec 4 :=
  BitVec.ofNat 4 ([0, 1, 2, 3].foldl (fun n d => if (neighbour h d).isSome then n + 2 ^ d else n) 0)

/-- Edge hearths hold logical indices 0 and 1 (R10). -/
def isEdge (h : Nat) : Bool := logicalOf h < 2

/-- Physical hearth that holds a logical index: its place in HEARTH_MAP_n (R20). -/
def physicalOf (map : BitVec 60) (i : Nat) : Option Nat :=
  (List.range 15).find? fun p => bitsOf map.toNat (4 * p + 3) (4 * p) == i

def State.stove (s : State) (n : Nat) : Stove := s.mod.stoves.getD n .reset

/-- A logical index is vacant when no physical hearth holds it (R21). -/
def State.hearthPresent (s : State) (h : Nat) : Bool :=
  h < hearthCount && (physicalOf (s.stove (stoveOf h)).hearthMap (logicalOf h)).isSome

/-! ## Records of the fabric -/

def State.setMod (s : State) (m : ModRegs) : State := { s with mod := m }
def State.setSide (s : State) (m : MemSide) : State := { s with memSide := m }
def State.setAdm (s : State) (a : Adm) : State := { s with adm := a }
def State.setFab (s : State) (f : Fab) : State := { s with fab := f }
def State.setFirebox (s : State) (f : Firebox) : State := { s with firebox := f }

def State.modStove (s : State) (n : Nat) (f : Stove → Stove) : State :=
  s.setMod { s.mod with stoves := modifyAt s.mod.stoves n f }

def State.hearth (s : State) (h : Nat) : Hearth := Table.getD s.fab.hearths h .reset

def State.modHearth (s : State) (h : Nat) (f : Hearth → Hearth) : State :=
  s.setFab { s.fab with hearths := Table.update s.fab.hearths h .reset f }

def State.ce (s : State) (h e : Nat) : Ce := Table.getD (s.hearth h).ces e .reset

def State.modCe (s : State) (h e : Nat) (f : Ce → Ce) : State :=
  s.modHearth h fun x => { x with ces := Table.update x.ces e .reset f }

/-- A matrix context of a CE (R241). -/
def Ce.mx (x : Ce) (second : Bool) : MCtx := if second then x.mx1 else x.mx0

def Ce.setMx (x : Ce) (second : Bool) (m : MCtx) : Ce := if second then { x with mx1 := m } else { x with mx0 := m }

/-- Whether traffic passes the dampers between two hearths (R15): both belong to one tenant, and where the hearths border each other
the dampers on both sides of that border are open. Hearths that do not border each other exchange their traffic over the flue,
or on the stoker's route (R65, R76): it enters and leaves a hearth that has an open damper (assumption entry 15). -/
def State.passes (s : State) (g h : Nat) : Bool :=
  g == h || ((s.hearth g).tenant.isSome && (s.hearth g).owner == (s.hearth h).owner &&
    (s.hearth g).tenant == (s.hearth h).tenant &&
    (match borderSide g h with
     | some d => (s.hearth g).dampers.getLsbD d && (s.hearth h).dampers.getLsbD ((d + 2) % 4)
     | none => (s.hearth g).dampers != 0 && (s.hearth h).dampers != 0))

/-- Key of a context in a CE. -/
def ctxKey (h e c : Nat) : Nat := (48 * h + e) * 16 + c

def State.ctx? (s : State) (h e c : Nat) : Option CeCtx := Table.get? s.fab.ctxs (ctxKey h e c)

def State.modCtx (s : State) (h e c : Nat) (f : CeCtx → CeCtx) : State :=
  s.setFab { s.fab with ctxs := Table.modify s.fab.ctxs (ctxKey h e c) f }

def State.charge? (s : State) (b : Nat) : Option Charge := Table.get? s.fab.charges b

def State.modCharge (s : State) (b : Nat) (f : Charge → Charge) : State :=
  s.setFab { s.fab with charges := Table.modify s.fab.charges b f }

def State.port (s : State) (n : Nat) : PortReg := s.mod.ports.getD n .reset

def State.modPort (s : State) (n : Nat) (f : PortReg → PortReg) : State :=
  s.setMod { s.mod with ports := modifyAt s.mod.ports n f }

/-- A declared stream, decoded. -/
structure Stream where
  port  : Nat
  role  : Nat
  peer  : Nat
  count : Nat
  rank  : BitVec 8
  tl    : Nat
  nd    : Bool
  deriving DecidableEq, Repr

def streamOf (e : BitVec 128) : Stream :=
  let n := e.toNat
  { port := bitsOf n 20 16, role := bitsOf n 23 21, peer := bitsOf n 31 24, count := bitsOf n 39 32 + 1,
    rank := BitVec.ofNat 8 (bitsOf n 47 40), tl := bitsOf n 55 48, nd := bitOf n 56 }

def Charge.stream? (c : Charge) (k : Nat) : Option Stream :=
  (c.image.streams.find? fun e => (e.extractLsb' 8 8).toNat == k).map streamOf

/-- A run of stream `k` of a charge is in its port's retry buffer (R23); a port that is down holds none. -/
def State.retain (s : State) (c : Charge) (k : Nat) : State :=
  match c.stream? k with
  | some e => if (s.port e.port).mode = 2 then s else s.modPort e.port fun x => { x with retained := x.retained + 1 }
  | none => s

/-- A fresh identifier. -/
def State.newId (s : State) : Nat × State := (s.fab.nextId, s.setFab { s.fab with nextId := s.fab.nextId + 1 })

/-- A fresh arrival stamp (R58). -/
def State.newStamp (s : State) : Nat × State := (s.fab.stamp, s.setFab { s.fab with stamp := s.fab.stamp + 1 })

/-! ## Registers of the firebox window -/

def State.part (s : State) (p : Nat) : PartReg := Table.getD s.adm.parts p .reset
def State.modPart (s : State) (p : Nat) (f : PartReg → PartReg) : State :=
  s.setAdm { s.adm with parts := Table.update s.adm.parts p .reset f }

def State.vdev (s : State) (v : Nat) : Vdev := Table.getD s.adm.vdevs v .reset
def State.modVdev (s : State) (v : Nat) (f : Vdev → Vdev) : State :=
  s.setAdm { s.adm with vdevs := Table.update s.adm.vdevs v .reset f }

def State.queue (s : State) (v q : Nat) : Queue := Table.getD s.adm.queues (256 * v + q) .reset
def State.modQueue (s : State) (v q : Nat) (f : Queue → Queue) : State :=
  s.setAdm { s.adm with queues := Table.update s.adm.queues (256 * v + q) .reset f }

def State.aspace (s : State) (a : Nat) : Aspace := Table.getD s.adm.aspaces a .reset

def State.bindRec (s : State) (i : Nat) : Bind := Table.getD s.adm.binds i .reset
def State.modBind (s : State) (i : Nat) (f : Bind → Bind) : State :=
  s.setAdm { s.adm with binds := Table.update s.adm.binds i .reset f }

def State.ring (s : State) (n : Nat) : Ring := Table.getD s.adm.rings n .reset
def State.modRing (s : State) (n : Nat) (f : Ring → Ring) : State :=
  s.setAdm { s.adm with rings := Table.update s.adm.rings n .reset f }

/-- The sum of a counter of `w` bits and `n`, saturating at all ones (R43). -/
def satAdd {w : Nat} (c : BitVec w) (n : Nat) : BitVec w := BitVec.ofNat w (min (c.toNat + n) (2 ^ w - 1))

def State.countDamper (s : State) (n : Nat) : State := s.setMod { s.mod with damperRej := satAdd s.mod.damperRej n }
def State.countWindow (s : State) : State := s.setMod { s.mod with windowRej := satAdd s.mod.windowRej 1 }
def State.countExited (s : State) (n : Nat) : State := s.setMod { s.mod with exitedDrop := satAdd s.mod.exitedDrop n }
def State.countInj (s : State) (h : Nat) : State :=
  s.setMod { s.mod with injRej := Table.update s.mod.injRej h 0 fun c => satAdd c 1 }
def State.countRace (s : State) (p : Nat) : State :=
  s.setAdm { s.adm with races := Table.update s.adm.races p 0 fun c => satAdd c 1 }
/-- A memory-model exception, code 0x16, that an access of charge `c` raises is counted (R297); a charge that ends raises none (assumption
entry 17). -/
def State.raceRaised (s : State) (c : Charge) (code : Nat) : State :=
  match c.phase with
  | .halting _ | .aborting => s
  | _ => if code = 0x16 then s.countRace c.part else s
def State.countCovLost (s : State) (p n : Nat) : State :=
  if n = 0 then s else s.setAdm { s.adm with covlost := Table.update s.adm.covlost p 0 fun c => satAdd c n }

/-! ## Time (R5): the arithmetic clock runs at 1.6 GHz -/

def cyclesPerUs : Nat := 1600
def cyclesPerMs : Nat := 1600000

/-! ## Charges -/

/-- A field of a launch packet (R330). -/
def pktField (p : List Byte) (off n : Nat) : Nat := leNat ((p.drop off).take n)

def Charge.launchId (c : Charge) : Nat := pktField c.packet 0x30 8

/-- Shape index of a module hearth in the charge's region, or 0xFF (R351). -/
def Charge.shapeOf (c : Charge) (h : Nat) : Nat :=
  let i := c.region.findIdx (· == h)
  if i < c.region.length then i else 0xFF

def Block.id (b : Block) : BitVec 32 := b.header.extractLsb' 64 32
def Block.entrySlot (b : Block) : Nat := (b.header.extractLsb' 24 8).toNat
def Block.exitSlot (b : Block) : Nat := (b.header.extractLsb' 16 8).toNat
def Block.maxIter (b : Block) : Nat := (b.header.extractLsb' 40 24).toNat
def Block.credit (b : Block) : Nat := (b.header.extractLsb' 32 8).toNat
def Block.policyIx (b : Block) : Nat := (b.header.extractLsb' 106 4).toNat
def Block.paramTop (b : Block) : Nat := (b.header.extractLsb' 100 6).toNat
def Block.span (b : Block) : Nat := (b.words.length + 31) / 32

def Charge.block? (c : Charge) (i : Nat) : Option Block := c.image.blocks[i]?

/-- The policy word of a block (R115). -/
def Charge.policyOf (c : Charge) (b : Block) : Policy := Machine.policyOf (c.image.policies.getD b.policyIx 0)

/-- Whether the charge is bound and may start firings (R335, R352, R355): none starts once it has raised a freezing fault or
is to be pre-empted, nor before its launch's tables have been read (R305). -/
def Charge.runs (c : Charge) : Bool := c.phase == .running && c.faults.isEmpty && !c.preempting && !c.loading

/-- Whether the engines of a charge may go on (R98, R354). -/
def Charge.engines (c : Charge) : Bool :=
  match c.phase with
  | .running => c.runs
  | .halting _ | .aborting => true
  | _ => false

/-! ## Faults -/

/-- A fault record of charge `b` (R351) before the stoker numbers it. -/
def State.faultRec (s : State) (b code : Nat) (hearth : Nat) : FaultRec :=
  match s.charge? b with
  | some c =>
    { cycle := s.cycle, hearth := hearth, code := code, stageW := false, frozen := true, remote := false, bubbled := false, more := false,
      partition := c.part, vdev := c.vdev, bind := b, tag := 0, launchId := BitVec.ofNat 64 c.launchId, address := 0,
      block := 0xFFFFFFFF, slot := 0xFF, ce := 0xFF, shape := c.shapeOf hearth, unit := 0, detail := [] }
  | none =>
    { cycle := s.cycle, hearth := hearth, code := code, stageW := false, frozen := false, remote := false, bubbled := false, more := false,
      partition := 0xFF, vdev := 0x3FF, bind := 0xFFFF, tag := 0, launchId := 0, address := 0, block := 0xFFFFFFFF,
      slot := 0xFF, ce := 0xFF, shape := 0xFF, unit := 9, detail := [] }

/-- The tag field of a record: ctx and iter (R351). -/
def faultTag (ctx : Nat) (it : Iter) : BitVec 32 := BitVec.ofNat 32 (ctx % 16 * 2 ^ 24 + it.toNat)

/-- The ring that owns a fault (R348): partition rings, and 255 for the wholesaler. A remote fault is tenant-visible. -/
def ringOf (r : FaultRec) : Nat :=
  if r.remote then r.partition
  else if r.code = 0x08 ∨ r.code = 0x21 ∨ r.code = 0x22 ∨ r.code = 0x23 ∨ r.code = 0x26 then 255
  else if 1 ≤ r.code ∧ r.code ≤ 6 ∧ r.stageW then 255
  else if r.partition = 0xFF then 255
  else r.partition

/-- A record handed to its ring (R351): records with a hold wait and are never dropped; of the others at most 64 wait. -/
def State.postTo (s : State) (n : Nat) (r : FaultRec) : State :=
  s.modRing n fun g =>
    if r.frozen || r.bubbled || (g.waiting.filter fun x => !(x.frozen || x.bubbled)).length < 64 then
      { g with waiting := g.waiting ++ [r] }
    else { g with lost := satAdd g.lost 1 }

def State.post (s : State) (r : FaultRec) : State := s.postTo (ringOf r) r

/-- A hardware record to the wholesaler (R348). -/
def State.postHardware (s : State) (code unit : Nat) (address : Nat) (detail : List Nat) : State :=
  s.postTo 255 { s.faultRec 1024 code 0 with unit := unit, address := BitVec.ofNat 64 address, detail := detail }

/-- TAKING A FAULT: charge `b` freezes as a whole (R349, R355): no firing of it starts from here on. The first record to
reach the stoker is the one that the freeze's completion posts; later ones are parked (R356). A charge that already ends
keeps ending. -/
def State.raiseFault (s : State) (b : Nat) (r : FaultRec) : State :=
  s.modCharge b fun c =>
    match c.phase with
    | .running | .freezing => { c with faults := c.faults ++ [r] }
    | _ => c

/-! ### Parked requests (R352): each has a key, and is retried in the order in which it was parked -/

def reqKey (id : Nat) : List Nat := [0, id]
def engineKey (id : Nat) : List Nat := [1, id]
def agKey (h n : Nat) : List Nat := [2, h, n]
def mtKey (h n : Nat) : List Nat := [3, h, n]
def ieKey (h : Nat) : List Nat := [4, h]
def mxKey (h e : Nat) : List Nat := [5, h, e]
def juKey (h : Nat) : List Nat := [6, h]

/-- A request is parked: it takes the last place in the order of retries. -/
def State.parkKey (s : State) (b : Nat) (k : List Nat) : State :=
  s.modCharge b fun c => { c with retry := c.retry.erase k ++ [k] }

/-- A request is tried: it keeps no place in the order. -/
def State.tryKey (s : State) (b : Nat) (k : List Nat) : State :=
  s.modCharge b fun c => { c with retry := c.retry.erase k }

/-- Whether a request may be tried: none that was parked before it still waits for its retry. -/
def Charge.mayTry (c : Charge) (k : List Nat) : Bool := !c.retry.contains k || c.retry.head? == some k

/-- The parked requests of charge `b` may be tried again. -/
def State.unpark (s : State) (b : Nat) : State :=
  s.setFab { s.fab with
    transit := s.fab.transit.map fun q => if q.bind = b then { q with parked := false } else q
    reqs := s.fab.reqs.map fun q => if q.bind = b then { q with parked := false } else q
    copies := s.fab.copies.map fun q => if q.bind = b then { q with parked := false } else q
    hearths := s.fab.hearths.map fun (h, x) =>
      (h, { x with
        ie := x.ie.map fun w => if w.bind = b then { w with parked := false } else w
        ags := x.ags.map fun (k, g) => (k, if k % 1024 = b then { g with parked := false } else g)
        mts := x.mts.map fun (k, g) => (k, if k % 1024 = b then { g with parked := false } else g)
        ces := x.ces.map fun (e, ce) =>
          (e, { ce with
            mx0 := if ce.mx0.owner = some b then { ce.mx0 with parked := false } else ce.mx0
            mx1 := if ce.mx1.owner = some b then { ce.mx1 with parked := false } else ce.mx1 }) }) }

/-- A charge noted as active: a firing of it has started, or a request of it has ended (R347). -/
def State.touch (s : State) (b : Nat) : State := s.modCharge b fun c => { c with lastActive := s.cycle }

def State.touchAll (s : State) (l : List Nat) : State := l.foldl State.touch s

/-! ## Waking a run of units by identifier -/

def State.modReq (s : State) (id : Nat) (f : Req → Req) : State :=
  s.setFab { s.fab with reqs := modifyFirst (fun q => q.id == id) f s.fab.reqs }

def State.req? (s : State) (id : Nat) : Option Req := s.fab.reqs.find? fun q => q.id == id

def State.modFlight (s : State) (id : Nat) (f : Flight → Flight) : State :=
  s.setFab { s.fab with flights := modifyFirst (fun q => q.id == id) f s.fab.flights }

def State.flight? (s : State) (id : Nat) : Option Flight := s.fab.flights.find? fun q => q.id == id

/-- The charge's store-acknowledgement count raised by `n` (R209, R261). -/
def State.raiseAcks (s : State) (b n : Nat) : State := s.modCharge b fun c => { c with acks := c.acks + n }

def State.lowerAcks (s : State) (b n : Nat) : State := s.modCharge b fun c => { c with acks := c.acks - n }

end Sys2Proof.Machine
end

