-- ==== Sys2Proof/Machine/Translate.lean ====
section
/-!
DEFINITION. Sys2Proof/Machine/Translate.lean: the machine map (R298), the two-stage walk (R299 to R305), extents (R306,
R307), poison marks (R42) and how a region's byte is reached (R190, R191).
-/

namespace Sys2Proof.Machine

/-! ## The machine map (R298) -/

def nearEnd : Nat := 12 * 2 ^ 36
def bulkBase : Nat := 0x10000000000
def bulkEnd : Nat := bulkBase + 12 * 2 ^ 37
def pooledBase : Nat := 0x400000000000
def pooledEnd : Nat := 0x800000000000
def emberBase : Nat := 0xE000000000000
def emberEnd : Nat := 0xE000080000000
def slotBase : Nat := 0xF000000000000
def slotSize : Nat := 0x2000000
def slotEnd : Nat := slotBase + 168 * slotSize

/-- Tier of a machine address: 0 near, 1 bulk, 2 pooled (R298). -/
def tierOf (ma : Nat) : Option Nat :=
  if ma < nearEnd then some 0
  else if bulkBase ≤ ma ∧ ma < bulkEnd then some 1
  else if pooledBase ≤ ma ∧ ma < pooledEnd then some 2
  else none

/-- Owning stove of a line (R298). -/
def owningStove (ma : Nat) : Nat :=
  match tierOf ma with
  | some 0 => ma / 2 ^ 36
  | some 1 => (ma - bulkBase) / 2 ^ 37
  | _ => ma / 65536 % 12

/-- Whether a pooled address is mapped by the wholesaler, and whether its mapping has the image attribute (R27, R31). -/
def State.pooledAt (s : State) (ma : Nat) : Option PooledMap :=
  s.mod.pooled.find? fun m => m.base ≤ ma && ma < m.base + m.length

/-- Controller of a machine address: 0 to 11 the stacks, 12 to 23 the bulk packages, 24 to 27 the CXL ports, of which a pooled address has
the one behind which its mapping lies (R27, R342). -/
def State.controllerOf (s : State) (ma : Nat) : Nat :=
  match tierOf ma with
  | some 0 => ma / 2 ^ 36
  | some 1 => 12 + (ma - bulkBase) / 2 ^ 37
  | _ => 24 + ((s.pooledAt ma).map (·.port)).getD 0

/-- Machine address of scratchpad byte `o` of hearth `h`. -/
def padAddr (h o : Nat) : Nat := slotBase + h * slotSize + o
/-- Machine address of join slot `n` of hearth `h` (R258). -/
def jafAddr (h n : Nat) : Nat := slotBase + h * slotSize + 0x800000 + 64 * n
/-- Machine address of parameter register `g` of context `c` in CE `e` (R186). -/
def paramAddr (h e c g : Nat) : Nat := slotBase + h * slotSize + 0xD00000 + 0x1000 * e + 0x100 * c + 4 * g

/-- A parameter group read as one number, lowest register first (R86). -/
def State.param (s : State) (h e c g bits : Nat) : Nat := s.nat (paramAddr h e c g) (max 4 (bits / 8))

/-! ## Poison (R42) -/

def State.poisoned (s : State) (ma : Nat) : Bool := s.memSide.poison.contains (ma / 64)

/-- Whether any of `n` bytes at `ma` lies in a poisoned beat. -/
def State.anyPoison (s : State) (ma n : Nat) : Bool :=
  (List.range ((ma + n + 63) / 64 - ma / 64)).any fun i => s.memSide.poison.contains (ma / 64 + i)

/-- A number inserted into an ascending list without repeats. -/
def insertAsc (x : Nat) : List Nat → List Nat
  | [] => [x]
  | y :: ys => if x < y then x :: y :: ys else if x = y then y :: ys else y :: insertAsc x ys

def State.markPoison (s : State) (ma : Nat) : State :=
  s.setSide { s.memSide with poison := insertAsc (ma / 64) s.memSide.poison }

def State.clearPoison (s : State) (ma : Nat) : State :=
  s.setSide { s.memSide with poison := s.memSide.poison.filter (· ≠ ma / 64) }

/-- Offsets of the poisoned beats of `n` bytes at `ma`. -/
def State.poisonIn (s : State) (ma n : Nat) : List Nat :=
  (s.memSide.poison.filter fun b => ma / 64 ≤ b && b < (ma + n + 63) / 64).map fun b => (b - ma / 64) * 64

/-- Bytes written to memory; a write that covers a whole poisoned beat clears its mark (R42). -/
def State.store (s : State) (ma : Nat) (bs : List Byte) : State :=
  let s := s.putBytes ma bs
  if s.memSide.poison.isEmpty then s
  else
    (List.range ((ma + bs.length + 63) / 64 - ma / 64)).foldl (init := s) fun s i =>
      let beat := ma / 64 + i
      if ma ≤ 64 * beat ∧ 64 * beat + 64 ≤ ma + bs.length then s.clearPoison (64 * beat) else s

/-! ## The cursor rule (R314) -/

/-- The move whose home of record serves a machine address. -/
def State.moveAt (s : State) (ma : Nat) : Option Move := s.memSide.moves.find? fun m => m.src == ma / 65536

/-- Where the byte at `ma` is read. -/
def State.readAt (s : State) (ma : Nat) : Nat :=
  match s.moveAt ma with
  | some m => if m.written || ma % 65536 / 256 < m.cursor then m.dst * 65536 + ma % 65536 else ma
  | none => ma

/-- Where it is written: below the cursor at the source and the destination, after the leaf write at the destination. -/
def State.writeAt (s : State) (ma : Nat) : List Nat :=
  match s.moveAt ma with
  | some m =>
    if m.written then [m.dst * 65536 + ma % 65536]
    else if ma % 65536 / 256 < m.cursor then [ma, m.dst * 65536 + ma % 65536]
    else [ma]
  | none => [ma]

/-- Whether a machine address can be written: one of the map, and in the pooled tier one that the wholesaler has mapped and
that holds no image (R27, R31, R298). -/
def State.writable (s : State) (ma : Nat) : Bool :=
  match tierOf ma with
  | some 2 => (s.pooledAt ma).any fun m => !m.image
  | some _ => true
  | none => (emberBase ≤ ma && ma < emberEnd) || (slotBase ≤ ma && ma < slotEnd)

/-- Whether a machine address shows its contents: outside the map, and in pooled capacity that the wholesaler has not mapped, it reads
as zero (R27, R298). -/
def State.visible (s : State) (ma : Nat) : Bool :=
  match tierOf ma with
  | some 2 => (s.pooledAt ma).isSome
  | some _ => true
  | none => (emberBase ≤ ma && ma < emberEnd) || (slotBase ≤ ma && ma < slotEnd)

/-- Byte `o` of a join slot as a write leaves it: reserved bits ignore the write (R259). -/
def jafByte (o : Nat) (b : Byte) : Byte := if o < 18 then b else if o = 19 then b &&& 0x80 else 0

/-- Bytes as the join accumulator file takes them from byte `off` of the file on. -/
def jafBytes : Nat → List Byte → List Byte
  | _, [] => []
  | off, b :: rest => jafByte (off % 64) b :: jafBytes (off + 1) rest

/-- The byte that a write leaves at a hearth slot's address (R4, R186, R258): reserved bits of a join slot stay zero, and the read-only
windows, the injection window (which takes whole records by its own event) and the gaps of the map keep what they hold. -/
def slotByte (ma : Nat) (b : Byte) : Option Byte :=
  let o := (ma - slotBase) % slotSize
  if o < 0x800000 then some b
  else if o < 0xC00000 then some (jafByte (o % 64) b)
  else if 0xD00000 ≤ o ∧ o < 0xD30000 then some b
  else none

/-- Whether a scratchpad byte lies in the frame of a tile that is not FILLING: no write through the scratchpad window lands there (R195). -/
def State.tileBlocks (s : State) (h off : Nat) : Bool :=
  (s.hearth h).tiles.any fun (t, x) => x.mapped && x.state != 1 && off / 0x1000 == 0x80 * (t / 8) + x.frame.toNat

/-- The same for a byte at the machine address of a hearth slot. -/
def State.tileBlocksAt (s : State) (ma : Nat) : Bool :=
  (ma - slotBase) % slotSize < 0x800000 && s.tileBlocks ((ma - slotBase) / slotSize) ((ma - slotBase) % slotSize)

/-- Bytes stored at the machine address where they lie: one that cannot be written is discarded and counted (R27, R31, R298), and in a
hearth slot each byte is written as its window admits (R186). -/
def State.storeAt (s : State) (ma : Nat) (bs : List Byte) : State :=
  if !(s.writable ma) then s.countWindow
  else if slotBase ≤ ma then
    let l := bs.zipIdx.map fun (b, i) => (ma + i, slotByte (ma + i) b)
    if l.any fun x => x.2.isNone then l.foldl (fun s x => match x.2 with | some b => s.store x.1 [b] | none => s) s.countWindow
    else s.store ma (l.filterMap (·.2))
  else s.store ma bs

/-- Bytes stored at an address's home (R314). -/
def State.storeHome (s : State) (ma : Nat) (bs : List Byte) : State := (s.writeAt ma).foldl (fun s a => s.storeAt a bs) s

/-- The number of `n` bytes as they show at their own address, and at their home. -/
def State.natAt (s : State) (ma n : Nat) : Nat := if s.visible ma then s.nat ma n else 0
def State.loadHome (s : State) (ma n : Nat) : Nat := s.natAt (s.readAt ma) n

/-- Bytes as they show, one by one, where they lie and at their homes. -/
def State.byteAt (s : State) (ma : Nat) : Byte := if s.visible ma then s.byte ma else 0
def State.bytesAt (s : State) (ma n : Nat) : List Byte := (List.range n).map fun i => s.byteAt (ma + i)
def State.bytesHome (s : State) (ma n : Nat) : List Byte := (List.range n).map fun i => s.byteAt (s.readAt (ma + i))

/-! ## Leaf entries (R301, R302) -/

/-- Whether an entry that points to a table holds only its address bits (R301). -/
def tableEntryOk (stageW : Bool) (e : Nat) : Bool :=
  bitsOf e 63 56 = 0 && bitsOf e 12 2 = 0 && (!stageW || bitsOf e 55 52 = 0)

def leafTier (e : Nat) : Nat := bitsOf e 7 6
def leafState (e : Nat) : Nat := bitsOf e 5 4
def leafCid (e : Nat) : Nat := bitsOf e 63 56

/-- Output address of a leaf at `level` for `input` (R302). -/
def leafOut (e level input : Nat) : Nat :=
  if level = 3 then bitsOf e 55 16 * 65536 + input % 65536
  else bitsOf e 55 26 * 2 ^ 26 + bitsOf e 25 16 * 65536 + (if bitsOf e 25 16 = 0 then input % 2 ^ 26 else input % 65536)

/-- A malformed leaf (R302). -/
def leafMalformed (stageW : Bool) (level e input : Nat) : Bool :=
  let size := bitsOf e 11 10
  bitsOf e 15 13 ≠ 0 || size = 3 || bitOf e 1 ||
  (size = 0 && level ≠ 3) || (size = 1 && level ≠ 3) || (size = 2 && level ≠ 2) ||
  (size = 1 && bitsOf e 20 16 ≠ bitsOf input 20 16) ||
  (size = 2 && (bitsOf e 29 26 ≠ bitsOf input 29 26 || bitsOf e 25 16 ≠ 0)) ||
  (if stageW then
    leafTier e = 3 || bitsOf e 55 52 ≠ 0 || tierOf (bitsOf e 55 16 * 65536) ≠ some (leafTier e) ||
    (leafState e = 1 && size ≠ 0) || (bitOf e 12 && leafTier e ≠ 2)
   else leafState e = 1 || leafTier e ≠ 0 || bitOf e 9 || bitOf e 12)

/-! ## The walk (R299, R304) -/

/-- A leaf that a walk has found: the entry, its level, and its own address (machine in stage W, partition in S). -/
structure Leaf where
  entry : Nat
  level : Nat
  addr  : Nat
  deriving DecidableEq, Repr

def levelIndex (input level : Nat) : Nat := input / 2 ^ (46 - 10 * level) % 1024

/-- Stage W levels from `level`, with `fuel` levels left. A table entry in a poisoned line faults as one (R305). -/
def walkWGo (s : State) (input : Nat) : Nat → Nat → Nat → Except WalkFault Leaf
  | 0, _, _ => .error .translation
  | fuel + 1, level, table =>
    let a := table + 8 * levelIndex input level
    let e := s.loadHome a 8
    if s.anyPoison (s.readAt a) 8 then .error (.line (s.readAt a))
    else if !(bitOf e 0) then .error .translation
    else if bitOf e 1 ∧ level < 3 then
      if tableEntryOk true e then walkWGo s input fuel (level + 1) (bitsOf e 55 13 * 8192) else .error .translation
    else .ok { entry := e, level := level, addr := a }

/-- The stage W leaf of a partition address. -/
def State.walkW (s : State) (wRoot input : Nat) : Except WalkFault Leaf := walkWGo s input 4 0 (wRoot * 8192)

/-- A stage S table read through stage W (R304): valid, malformed, r, ABSENT and POISON are checked, cid is not. -/
def State.readPart (s : State) (wRoot pa : Nat) : Except WalkFault Nat :=
  match s.walkW wRoot pa with
  | .error f => .error f
  | .ok l =>
    if leafMalformed true l.level l.entry pa then .error .malformed
    else if !(bitOf l.entry 2) then .error .protection
    else if leafState l.entry = 2 then .error .absent
    else if leafState l.entry = 3 then .error .poison
    else
      let ma := s.readAt (leafOut l.entry l.level pa)
      if s.anyPoison ma 8 then .error (.line ma) else .ok (s.natAt ma 8)

/-- Stage S levels. An error carries whether the fault is stage W's. -/
def walkSGo (s : State) (wRoot input : Nat) : Nat → Nat → Nat → Except (WalkFault × Bool) Leaf
  | 0, _, _ => .error (.translation, false)
  | fuel + 1, level, table =>
    let a := table + 8 * levelIndex input level
    match s.readPart wRoot a with
    | .error f => .error (f, true)
    | .ok e =>
      if !(bitOf e 0) then .error (.translation, false)
      else if bitOf e 1 ∧ level < 3 then
        if tableEntryOk false e then walkSGo s wRoot input fuel (level + 1) (bitsOf e 55 13 * 8192)
        else .error (.translation, false)
      else .ok { entry := e, level := level, addr := a }

def State.walkS (s : State) (a : Aspace) (va : Nat) : Except (WalkFault × Bool) Leaf :=
  walkSGo s a.wRoot.toNat va 4 0 (a.sRoot.toNat * 8192 % 2 ^ 56)

def cidAdmits (cid : Option (BitVec 8)) (e : Nat) : Bool :=
  match cid with
  | some c => leafCid e = 0 || leafCid e = c.toNat
  | none => true

/-- The extent of one page of 64 KiB: the outcome of the walk, permissions aside (R306). -/
def State.walkPage (s : State) (a : Aspace) (cid : Option (BitVec 8)) (region va : Nat) : Extent :=
  let base : Extent :=
    { region := region, vpage := va / 65536, pages := 1, frame := 0, tier := 0, moving := false, watched := false,
      ember := false, xs := false, rd := false, wr := false, rdS := true, wrS := true, fault := none, ppage := 0 }
  match s.walkS a va with
  | .error f => { base with rd := true, wr := true, fault := some f }
  | .ok l =>
    let e := l.entry
    let base := { base with rdS := bitOf e 2, wrS := bitOf e 3 }
    if leafMalformed false l.level e va then { base with fault := some (.malformed, false) }
    else if !(cidAdmits cid e) then { base with fault := some (.cid, false) }
    else if leafState e = 2 then { base with fault := some (.absent, false) }
    else if leafState e = 3 then { base with fault := some (.poison, false) }
    else
      let pa := leafOut e l.level va
      let base := { base with ppage := pa / 65536 }
      match s.walkW a.wRoot.toNat pa with
      | .error f => { base with fault := some (f, true) }
      | .ok m =>
        let w := m.entry
        let out := { base with
          frame := leafOut w m.level pa / 65536
          tier := BitVec.ofNat 2 (leafTier w)
          moving := leafState w = 1
          watched := bitOf e 8 && bitOf w 8
          ember := bitOf w 9
          xs := bitOf w 12
          rd := bitOf w 2
          wr := bitOf w 3 }
        if leafMalformed true m.level w pa then { out with fault := some (.malformed, true) }
        else if !(cidAdmits cid w) then { out with fault := some (.cid, true) }
        else if leafState w = 2 then { out with fault := some (.absent, true) }
        else if leafState w = 3 then { out with fault := some (.poison, true) }
        else out

/-- What an access may do with an extent (R304): the checks of stage S come first, and in each stage the permission comes
before ABSENT and POISON. `Except.error` carries the fault and whether stage W raised it. -/
def Extent.grant (x : Extent) (needR needW : Bool) : Except (WalkFault × Bool) Extent :=
  let early (w : Bool) : Bool :=
    match x.fault with
    | some (.absent, _) | some (.poison, _) | none => false
    | some (_, g) => g == w
  if early false then .error (x.fault.getD (.translation, false))
  else if (needR && !x.rdS) || (needW && !x.wrS) then .error (.protection, false)
  else
    match x.fault with
    | some (f, false) => .error (f, false)
    | _ =>
      if early true then .error (x.fault.getD (.translation, true))
      else if (needR && !x.rd) || (needW && !x.wr) then .error (.protection, true)
      else match x.fault with
        | some f => .error f
        | none => .ok x

/-- Machine address of `va` through a page's extent. -/
def Extent.machine (x : Extent) (va : Nat) : Nat := (x.frame + (va / 65536 - x.vpage)) * 65536 + va % 65536

/-- A stoker access through an address space: no cid check (R303). -/
def State.stokerAddr (s : State) (aspace va : Nat) (needR needW : Bool) : Option Nat :=
  let a := s.aspace aspace
  match (s.walkPage a none 0 va).grant needR needW with
  | .ok x => some (x.machine va)
  | .error _ => none

/-- Code of a walk fault (R348). -/
def walkCode : WalkFault → Nat
  | .translation => 1 | .malformed => 2 | .cid => 3 | .protection => 4 | .absent => 5 | .poison => 6 | .line _ => 8

/-- The address of a walk fault's record: the tenant's, or for a poisoned line the machine's (R351). -/
def walkAddr (f : WalkFault) (va : Nat) : Nat := match f with | .line ma => ma | _ => va

/-! ## Regions (R189 to R191) -/

/-- A declared region, decoded (R189). -/
structure Region where
  number : Nat
  space  : Nat
  rd     : Bool
  wr     : Bool
  atom   : Bool
  window : Nat
  bind   : Nat
  base   : Nat
  length : Nat
  deriving DecidableEq, Repr

def regionOf (r : BitVec 64 × BitVec 64 × BitVec 64) : Region :=
  let w := r.1.toNat
  { number := bitsOf w 5 0, space := bitsOf w 19 16, rd := bitOf w 24, wr := bitOf w 25, atom := bitOf w 26,
    window := bitsOf w 39 36, bind := bitsOf w 47 40, base := r.2.1.toNat, length := r.2.2.toNat }

def Charge.region? (c : Charge) (n : Nat) : Option Region :=
  (c.image.regions.map regionOf).find? fun r => r.number == n

def roundFrames (n : Nat) : Nat := (n + 4095) / 4096

/-- Frames of an image's scratchpad allocation (R192). -/
def Image.allocFrames (m : Image) : Nat :=
  roundFrames (((m.regions.map regionOf).filter fun r => r.space == 0).foldl (fun n r => max n (r.base + r.length)) 0)

/-- Where a byte of a region lies. -/
inductive Place where
  /-- near, bulk or pooled memory, through an extent -/
  | mem (ma : Nat) (x : Extent)
  /-- scratchpad of hearth `h` -/
  | pad (h ma : Nat)
  /-- another window of hearth `h`: join accumulator file, tile table, parameter registers, injection window. Window 0 is the part of
  the scratchpad window beyond the charge's allocation, which shows nothing of the charge (R187) -/
  | window (h w off : Nat)
  /-- memory of another module -/
  | remote (module va : Nat)
  /-- the page waits on a shootdown (R309) -/
  | waits
  deriving DecidableEq, Repr

/-- A port fault: code of R348, stage W, remote, and the address of the record. -/
structure PlaceFault where
  code   : Nat
  stageW : Bool
  remote : Bool
  addr   : Nat
  deriving DecidableEq, Repr

/-- Tenant virtual address of offset `off` in a region of tenant virtual space. -/
def Charge.vaddr (c : Charge) (r : Region) (off : Nat) : Nat := ((c.bindings.getD r.bind 0).toNat + off) % 2 ^ 64

/-- Whether two shootdowns concern a common address space (R309). -/
def State.sdMeets (s : State) (a b : Shootdown) : Bool :=
  let ofPart (p n : Nat) : Bool := p == 255 || (s.aspace n).partition.toNat == p
  match a.stageW, b.stageW with
  | false, false => a.aspace == b.aspace
  | true, true => a.part == b.part || a.part == 255 || b.part == 255
  | true, false => ofPart a.part b.aspace
  | false, true => ofPart b.part a.aspace

/-- Whether a shootdown is in progress: those requested before it on its address spaces are done. -/
def State.sdActive (s : State) (d : Shootdown) : Bool :=
  (s.memSide.shootdowns.takeWhile fun e => e.id != d.id).all fun e => !(s.sdMeets e d)

/-- Whether a shootdown marks extent `x` of charge `c`: its range overlaps the extent (R309 step 1). -/
def Shootdown.marks (d : Shootdown) (c : Charge) (x : Extent) : Bool :=
  let meets (first : Nat) : Bool := d.first / 65536 < first + x.pages && first < d.first / 65536 + d.pages
  if d.stageW then (d.part == c.part || d.part == 255) && meets x.ppage else d.aspace == c.aspace && meets x.vpage

/-- Whether a shootdown affects the page of `va`, which lies in extent `x` of charge `c`. -/
def Shootdown.hits (d : Shootdown) (c : Charge) (x : Extent) (va : Nat) : Bool :=
  let covers (page : Nat) : Bool := d.first / 65536 ≤ page && page < d.first / 65536 + d.pages
  if d.stageW then (d.part == c.part || d.part == 255) && covers (x.ppage + (va / 65536 - x.vpage))
  else d.aspace == c.aspace && covers (va / 65536)

/-- Whether a shootdown in progress has marked an extent (R309): an access through it waits. -/
def State.marked (s : State) (c : Charge) (x : Extent) : Bool :=
  s.memSide.shootdowns.any fun d => s.sdActive d && d.marks c x

/-- The extents that each hearth's extent table holds for the charge, and those of the extent list in its context frame, which a hearth
searches after the table (R306). -/
def extentTableSize : Nat := 64
def Charge.extentTable (c : Charge) : List Extent := c.extents.take extentTableSize
def Charge.extentList (c : Charge) : List Extent := c.extents.drop extentTableSize

/-- The extent of a page of a region: the hearth's table is searched first, then the list (R306). -/
def Charge.extent? (c : Charge) (region va : Nat) : Option Extent :=
  (c.extentTable ++ c.extentList).find? fun x => x.region == region && x.vpage ≤ va / 65536 && va / 65536 < x.vpage + x.pages

/-- The byte at `off` (counted from the region's start, base included) of a region, for an access of `n` bytes by the
charge on hearth `h`. -/
def State.place (s : State) (c : Charge) (h : Nat) (r : Region) (off : Nat) (needR needW : Bool) :
    Except PlaceFault Place :=
  match r.space with
  | 0 => .ok (.pad h (padAddr h (Table.getD c.alloc h 0 + off)))
  | 1 =>
    let g := c.region.getD r.bind 0
    match r.window with
    | 0 =>
      if off < 4096 * c.image.allocFrames then .ok (.pad g (padAddr g (Table.getD c.alloc g 0 + off))) else .ok (.window g 0 off)
    | w => .ok (.window g w off)
  | 2 | 3 | 4 =>
    let va := c.vaddr r off
    match c.extent? r.number va with
    | none => .error { code := 1, stageW := false, remote := false, addr := va }
    | some x =>
      if s.marked c x then .ok .waits
      else match x.grant needR needW with
        | .ok x => .ok (.mem (x.machine va) x)
        | .error (f, w) => .error { code := walkCode f, stageW := w, remote := false, addr := walkAddr f va }
  | 5 =>
    let b := (c.bindings.getD r.bind 0).toNat
    .ok (.remote (b / 2 ^ 56) ((b % 2 ^ 56 + off) % 2 ^ 56))
  | _ => .ok (.window h 4 off)

/-- Bytes of one element (R191). -/
def elemBytes (f : Fmt) (wide : Bool) : Nat := if wide then 16 else max 1 (f.bits / 8)

/-- Whether element `x` of `n` bytes lies within a region's length (R191). -/
def Region.inBounds (r : Region) (x n : Nat) : Bool := x * n + n ≤ r.length

/-! ## Extents of a charge (R306, R307) -/

/-- Whether page `x` continues extent `e`. -/
def extentContinues (e x : Extent) : Bool :=
  e.region == x.region && x.vpage == e.vpage + e.pages && e.fault.isNone && x.fault.isNone &&
  x.frame == e.frame + e.pages && x.ppage == e.ppage + e.pages && x.tier == e.tier && x.moving == e.moving &&
  x.watched == e.watched && x.ember == e.ember && x.xs == e.xs && x.rd == e.rd && x.wr == e.wr && x.rdS == e.rdS &&
  x.wrS == e.wrS

/-- A page's extent added at the end. -/
def addExtent (l : List Extent) (x : Extent) : List Extent :=
  match l.getLast? with
  | some e => if extentContinues e x then l.dropLast ++ [{ e with pages := e.pages + 1 }] else l ++ [x]
  | none => [x]

/-- The extents of one region: every page from its first to its last byte. -/
def State.regionExtents (s : State) (c : Charge) (r : Region) : List Extent :=
  if 2 ≤ r.space ∧ r.space ≤ 4 then
    let lo := c.vaddr r r.base / 65536
    let n := (c.vaddr r r.base % 65536 + r.length + 65535) / 65536
    (List.range n).foldl (init := []) fun l i =>
      addExtent l (s.walkPage (s.aspace c.aspace) (some c.image.cid) r.number ((lo + i) * 65536))
  else []

/-- Every extent of the charge, walked afresh (R306). -/
def State.allExtents (s : State) (c : Charge) : List Extent :=
  ((c.image.regions.map regionOf).map fun r => s.regionExtents c r).flatten

/-- Whether an extent carries a fault, or lacks a permission that an access may need. -/
def Extent.faulty (x : Extent) : Bool := x.fault.isSome || !(x.rd && x.wr && x.rdS && x.wrS)

/-- The pages of an extent, one by one, walked again. -/
def State.walkAgain (s : State) (c : Charge) (x : Extent) : List Extent :=
  (List.range x.pages).map fun i => s.walkPage (s.aspace c.aspace) (some c.image.cid) x.region ((x.vpage + i) * 65536)

/-- The charge's faulty extents walked again and replaced, which the stoker does before parked accesses are retried (R307). -/
def State.rewalk (s : State) (b : Nat) : State :=
  s.modCharge b fun c =>
    { c with extents := (c.extents.map fun x => if x.faulty then s.walkAgain c x else [x]).flatten }

/-! ## Running again (R352) -/

/-- A frozen charge starts firings again, and its parked requests are tried afresh (R352). -/
def State.restart (s : State) (b : Nat) : State :=
  let s := s.modCharge b fun c => { c with phase := .running, faults := [] }
  ((s.rewalk b).modBind b fun r => { r with state := 3 }).unpark b

/-- RESUMING AFTER A FAULT (R352): the hold of a record, or of a bubble record, is released; with no hold left a frozen
charge runs again. A charge that is swapped out, or is about to be, only loses its hold. -/
def State.resumeCharge (s : State) (b : Nat) (bubble : Bool) : State :=
  let s := s.modCharge b fun c =>
    if bubble then { c with bubbleHolds := c.bubbleHolds - 1 } else { c with holds := c.holds - 1 }
  match s.charge? b with
  | some c =>
    if c.holds = 0 ∧ c.bubbleHolds = 0 ∧ c.phase = .frozen ∧ c.preempting = false then s.restart b else s
  | none => s

end Sys2Proof.Machine
end

