-- ==== Sys2Proof/Machine/Ember.lean ====
section
/-!
DEFINITION. Sys2Proof/Machine/Ember.lean: the placement queue (R344), embers (R318, R319), and the accesses that the stoker and other
agents without a request of their own make at a home: their misses count in the slice as every access's do (R318).
-/

namespace Sys2Proof.Machine

/-! ## The placement queue (R344) -/

/-- A record of 8 bytes at partition `p`'s placement queue; it is dropped when the queue is full or absent. -/
def State.placementPost (s : State) (p frame tier : Nat) (ember hot : Bool) : State :=
  let pq := (s.part p).pq.toNat
  if pq = 0 then s
  else
    let wr := s.loadHome pq 8
    let rd := s.loadHome (pq + 8) 8
    if 510 ≤ (wr + 2 ^ 64 - rd) % 2 ^ 64 then s
    else
      (s.storeHome (pq + 16 + 8 * (wr % 510))
        (leBytes 8 (frame % 2 ^ 36 + tier % 4 * 2 ^ 36 + boolNat ember * 2 ^ 38 + boolNat hot * 2 ^ 39))).storeHome pq
        (leBytes 8 ((wr + 1) % 2 ^ 64))

/-! ## Embers (R318, R319) -/

def State.ember (s : State) (frame : Nat) : Nat := (s.byte (emberBase + frame)).toNat

def State.emberOwner (s : State) (frame : Nat) : BitVec 8 := Table.getD s.memSide.emberOwner frame 0xFF

def State.setEmberOwner (s : State) (frame : Nat) (p : BitVec 8) : State :=
  s.setSide { s.memSide with emberOwner := Table.put s.memSide.emberOwner frame p }

/-- The ember of a frame changed from `old` to `new`: a threshold met posts one record to its owner's queue, with source 1 for a threshold
or 0 where PLACE or PFCH has changed it (R344). -/
def State.emberChange (s : State) (frame old new : Nat) (source : Bool := true) : State :=
  let s := s.store (emberBase + frame) [BitVec.ofNat 8 new]
  let o := s.emberOwner frame
  if o = 0xFF then s
  else
    let p := s.part o.toNat
    let tier := (tierOf (frame * 65536)).getD 0
    if old < p.hot.toNat ∧ p.hot.toNat ≤ new then s.placementPost o.toNat frame tier source true
    else if p.cold.toNat < old ∧ new ≤ p.cold.toNat then s.placementPost o.toNat frame tier source false
    else s

/-- Frames whose ember is listed, ascending. -/
def State.listedEmbers (s : State) : List Nat :=
  ((s.mem.filter fun c => emberBase ≤ c.1 && c.1 < emberEnd).map fun c => c.1 - emberBase)

/-- Every ember halved, and the millisecond boundary noted: cold crossings post (R318, R319). -/
def State.halveEmbers (s : State) : State :=
  let t := s.listedEmbers.foldl (fun s f => s.emberChange f (s.ember f) (s.ember f / 2)) s
  t.setMod { t.mod with emberMs := t.mod.emberMs + 1 }

/-- The halvings that are due, at most `n` of them. -/
def State.halveDue : Nat → State → State
  | 0, s => s
  | n + 1, s => if s.cycle / cyclesPerMs ≤ s.mod.emberMs then s else State.halveDue n s.halveEmbers

/-- The halvings that are due, before an increment (R318); the ninth and later ones find zeros. -/
def State.settleEmbers (s : State) : State :=
  let s := State.halveDue 8 s
  s.setMod { s.mod with emberMs := max s.mod.emberMs (s.cycle / cyclesPerMs) }

/-- A miss in the slice of a frame's stove: every sixteenth adds 1 to the frame's ember, after a halving that is due (R318). -/
def State.countMiss (s : State) (ma : Nat) (ember : Bool) (part : Nat) : State :=
  let s := s.settleEmbers
  let n := owningStove ma
  let k := (s.stove n).misses + 1
  let s := s.modStove n fun x => { x with misses := k }
  if k % 16 = 0 ∧ ember then
    let f := ma / 65536
    let old := s.ember f
    (s.setEmberOwner f (BitVec.ofNat 8 part)).emberChange f old (min 255 (old + 1))
  else s

/-! ## Accesses that no event carries (R318) -/

/-- The misses in their slices of `n` bytes at a machine address, line by line, as the world gives them; `ember` is the bit of the page's
stage W leaf, false where the address is a machine address of the hardware's own. -/
def State.missAt (s : State) (ma n : Nat) (ember : Bool) (part : Nat) : State :=
  if s.env.misses = [] ∨ (tierOf ma).isNone then s
  else (List.range ((ma + n + 255) / 256 - ma / 256)).foldl (init := s) fun s i =>
    let (miss, t) := s.nextMiss
    if miss then t.countMiss (if i = 0 then ma else 256 * (ma / 256 + i)) ember part else t

/-- The same for `n` bytes at an address of an address space, page by page; a page that another module shares leaves no ember here (R320). -/
def State.missVia (s : State) (aspace va n : Nat) : State :=
  if s.env.misses = [] then s
  else (List.range ((va % 65536 + n + 65535) / 65536)).foldl (init := s) fun s i =>
    let lo := max va ((va / 65536 + i) * 65536)
    let k := min (va + n) ((va / 65536 + i + 1) * 65536) - lo
    match (s.walkPage (s.aspace aspace) none 0 lo).grant false false with
    | .ok x => if x.xs then s else s.missAt (x.machine lo) k x.ember (s.aspace aspace).partition.toNat
    | .error _ => s

/-- Bytes that the stoker, a controller or a hardware queue stores at a machine address. -/
def State.stokerStore (s : State) (ma : Nat) (bs : List Byte) : State := (s.missAt ma bs.length false 0xFF).storeHome ma bs

/-- The same through an address space, whose translation of `va` is `ma`. -/
def State.stokerStoreVia (s : State) (aspace va ma : Nat) (bs : List Byte) : State :=
  (s.missVia aspace va bs.length).storeHome ma bs

end Sys2Proof.Machine
end

