-- ==== Sys2Proof/Machine/Race.lean ====
section
/-!
DEFINITION. Sys2Proof/Machine/Race.lean: epochs, acquire tables and release vectors (R292), race tags and the race check
(R291, R293 to R297), and timelines with their publication (R228, R282, R283).
-/

namespace Sys2Proof.Machine

/-! ## Vectors (R292) -/

/-- The entry with the smallest epoch, dropped. -/
def dropSmallest (l : List (BitVec 16 × Nat)) : List (BitVec 16 × Nat) :=
  match l with
  | [] => []
  | x :: xs =>
    let m := xs.foldl (fun b y => if y.2 < b.2 then y else b) x
    (x :: xs).erase m

/-- One entry merged: the larger epoch for its agent; beyond `cap` the smallest is dropped and the lossy bit set. -/
def Vec.add (cap : Nat) (v : Vec) (e : BitVec 16 × Nat) : Vec :=
  if v.entries.any (fun x => x.1 == e.1) then
    { v with entries := v.entries.map fun x => if x.1 = e.1 then (x.1, max x.2 e.2) else x }
  else
    let l := v.entries ++ [e]
    if l.length ≤ cap then { v with entries := l } else { entries := dropSmallest l, lossy := true }

/-- `v` with every entry and the lossy bit of `w`. -/
def Vec.merge (cap : Nat) (v w : Vec) : Vec :=
  let r := w.entries.foldl (Vec.add cap) v
  { r with lossy := r.lossy || w.lossy }

/-- Epoch that the vector holds for an agent. -/
def Vec.epoch (v : Vec) (a : BitVec 16) : Option Nat := (v.entries.find? fun x => x.1 == a).map (·.2)

/-- The vector that a release by an agent at new epoch `n` with table `t` carries: at most eight entries. -/
def releaseVec (a : BitVec 16) (n : Nat) (t : Vec) : Vec := (Vec.add 8 { entries := [], lossy := false } (a, n)).merge 8 t

/-- A vector merged into the table of charge `b` (R292). -/
def State.acquire (s : State) (b : Nat) (v : Vec) : State :=
  s.modCharge b fun c => { c with acquired := c.acquired.merge 64 v }

/-- Whether hearth `y` lies in the instance of scope `sc` that holds hearth `x` (R277). -/
def inScope (sc : Scope) (x y : Nat) : Bool :=
  match sc with
  | .e | .h => x == y
  | .s => stoveOf x == stoveOf y
  | .m | .d => true

/-- Whether a release synchronises with an acquire of scope `t` at hearth `y` (R283). -/
def Rel.syncs (r : Rel) (t : Scope) (y : Nat) : Bool := inScope r.scope r.hearth y && inScope t y r.hearth

/-- The releases that synchronise with an acquire of scope `t` at hearth `y`, merged into the table of charge `b`. -/
def State.acquireRels (s : State) (b : Nat) (t : Scope) (y : Nat) (rs : List Rel) : State :=
  rs.foldl (fun s r => if r.syncs t y then s.acquire b r.vec else s) s

/-- Every entry of a counter's vector merged, as a wait on its published word acquires them (R228, R292). -/
def relsVec (cap : Nat) (rs : List Rel) : Vec := rs.foldl (fun v r => v.merge cap r.vec) { entries := [], lossy := false }

/-- A release added to those of its scope and place. -/
def joinRel : List Rel → Rel → List Rel
  | [], r => [r]
  | x :: xs, r =>
    if x.scope = r.scope ∧ x.hearth = r.hearth then { x with vec := x.vec.merge 128 r.vec } :: xs else x :: joinRel xs r

/-- The agent whose epoch in a vector is the smallest. -/
def Vec.smallest (v : Vec) : Option (BitVec 16) :=
  (v.entries.find? fun x => v.entries.all fun y => x.2 ≤ y.2).map (·.1)

/-- The releases of a counter cut to `cap` agents in all: the agents with the smallest epochs go, and the lossy bit is set. -/
def trimRels (cap : Nat) : Nat → List Rel → List Rel
  | 0, rs => rs
  | n + 1, rs =>
    let v := relsVec 128 rs
    match (if v.entries.length ≤ cap then none else v.smallest) with
    | none => rs
    | some a => trimRels cap n (rs.map fun r =>
        { r with vec := { entries := r.vec.entries.filter fun x => x.1 != a, lossy := true } })

/-- A RELEASE MERGED INTO A COUNTER'S VECTOR of `cap` entries and one lossy bit (R292). The vector is kept by the scope and place of the
releases that its entries come from, which R283 asks an acquire about. -/
def mergeRel (cap : Nat) (rs : List Rel) (r : Rel) : List Rel :=
  let l := trimRels cap 128 (joinRel rs r)
  let lossy := l.any fun x => x.vec.lossy
  l.map fun x => { x with vec := { x.vec with lossy := lossy } }

/-! ## Race tags (R293 to R295) -/

/-- Kind of an access as R286 and R304 use it. -/
inductive AccessKind where
  | read | write | atomic
  deriving DecidableEq, Repr

/-- An agent at its access: number, epoch, acquire table and partition. -/
structure Actor where
  agent : BitVec 16
  epoch : Nat
  table : Vec
  part  : Nat
  deriving DecidableEq, Repr

def maskOf (off n : Nat) : BitVec 64 := BitVec.ofNat 64 ((2 ^ n - 1) * 2 ^ off)

/-- Whether a record conflicts with an access (R286, R294): another agent, a common byte, at least one write, and not
both atomics. -/
def recConflicts (writerRec : Bool) (k : AccessKind) (r : RaceRec) (a : BitVec 16) (m : BitVec 64) : Bool :=
  r.agent ≠ a && (r.mask &&& m) ≠ 0 && (writerRec || k ≠ .read) && !(r.atomic && k = .atomic)

/-- Outcome of a race check: an unsynchronised record, or the number of coverage losses. -/
inductive RaceCheck where
  | race (r : RaceRec) (writer : Bool)
  | pass (lost : Nat)
  deriving DecidableEq, Repr

/-- The check of one access to one beat (R294, R295). -/
def raceCheck (t : BeatTags) (x : Actor) (k : AccessKind) (m : BitVec 64) : RaceCheck :=
  let bad (w : Bool) (r : RaceRec) : Bool :=
    recConflicts w k r x.agent m && !(match x.table.epoch r.agent with | some c => r.epoch < c | none => false)
  let hitW := t.writer.filter (bad true)
  let hitR := t.readers.find? (bad false)
  match hitW, hitR with
  | none, none => .pass 0
  | some r, _ => if x.table.lossy then .pass 1 else .race r true
  | none, some r => if x.table.lossy then .pass 1 else .race r false

/-- The tags after a checked access, and the coverage losses of the merge (R293, R295). -/
def raceRecord (t : BeatTags) (x : Actor) (k : AccessKind) (m : BitVec 64) : BeatTags × Nat :=
  let mine : RaceRec := { agent := x.agent, epoch := x.epoch, mask := m, atomic := k = .atomic, part := x.part }
  match k with
  | .read =>
    match t.readers.find? (fun r => r.agent == x.agent) with
    | some old =>
      let new := { old with mask := old.mask ||| m, epoch := min old.epoch x.epoch }
      ({ t with readers := t.readers.map fun r => if r.agent = x.agent then new else r },
        if old.epoch = x.epoch then 0 else 1)
    | none =>
      if t.readers.length < 2 then ({ t with readers := t.readers ++ [mine] }, 0)
      else ({ writer := none, readers := [] }, 1)
  | _ => ({ writer := some mine, readers := [] }, 0)

def BeatTags.empty : BeatTags := { writer := none, readers := [] }

/-- Where the race tags of the byte at `ma` stand. While a page moves they stand under the source's beats, and from the leaf write on
under the destination's (R315). -/
def State.tagAddr (s : State) (ma : Nat) : Nat :=
  match s.moveAt ma with
  | some m => if m.written then m.dst * 65536 + ma % 65536 else ma
  | none => ma

/-- Race check and recording of an access to the bytes `m` of one beat. -/
def State.raceBeat (s : State) (x : Actor) (k : AccessKind) (beat : Nat) (m : BitVec 64) : Except (RaceRec × Bool) State :=
  let t := Table.getD s.memSide.tags beat .empty
  match raceCheck t x k m with
  | .race r w => .error (r, w)
  | .pass lost =>
    let (t', lost') := raceRecord t x k m
    let tags := if t' = .empty then Table.erase s.memSide.tags beat else Table.put s.memSide.tags beat t'
    .ok ((s.setSide { s.memSide with tags := tags }).countCovLost x.part (lost + lost'))

/-- The same for each of `n` beats from `beat` that the bytes `lo` to `hi` − 1 touch, in order. -/
def State.raceBeats (x : Actor) (k : AccessKind) (lo hi : Nat) : Nat → Nat → State → Except (RaceRec × Bool) State
  | 0, _, s => .ok s
  | n + 1, beat, s =>
    let a := max lo (64 * beat)
    match State.raceBeat s x k beat (maskOf (a - 64 * beat) (min hi (64 * beat + 64) - a)) with
    | .error e => .error e
    | .ok s => State.raceBeats x k lo hi n (beat + 1) s

/-- Race check and recording of an access of `n` bytes at `ma` on a watched page, beat by beat (R293, R294). `Except.error` names the
record in conflict; nothing is recorded then (R296). -/
def State.raceAccess (s : State) (x : Actor) (k : AccessKind) (ma n : Nat) : Except (RaceRec × Bool) State :=
  let ma := s.tagAddr ma
  State.raceBeats x k ma (ma + n) ((ma + n + 63) / 64 - ma / 64) (ma / 64) s

/-- Tags of every beat that `n` bytes at `ma` touch, cleared (R291: hart and Ethernet writes). -/
def State.clearTags (s : State) (ma n : Nat) : State :=
  let ma := s.tagAddr ma
  if s.memSide.tags.isEmpty then s
  else
    (List.range ((ma + n + 63) / 64 - ma / 64)).foldl (init := s) fun s i =>
      s.setSide { s.memSide with tags := Table.erase s.memSide.tags (ma / 64 + i) }

/-- The tags of a 256-byte line discarded (R295: eviction, or a change of owning stove): each beat's loss counts for the
partition of its writer record, or of its first reader record. -/
def State.dropLineTags (s : State) (line : Nat) : State :=
  (List.range 4).foldl (init := s) fun s i =>
    let beat := 4 * line + i
    match Table.get? s.memSide.tags beat with
    | none => s
    | some t =>
      let who := t.writer.orElse fun _ => t.readers.head?
      let s := s.setSide { s.memSide with tags := Table.erase s.memSide.tags beat }
      match who with
      | some r => s.countCovLost r.part 1
      | none => s

/-! ## Agents -/

/-- The actor of a charge's own access at epoch `e` (R276, R292). -/
def Charge.actor (c : Charge) (e : Nat) : Actor := { agent := c.agent, epoch := e, table := c.acquired, part := c.part }

/-- The vector with which an engine operation starts (R292). -/
def Charge.engineVec (c : Charge) : Vec := (Vec.add 64 c.acquired (c.agent, c.epoch + 1))

/-! ## Timelines (R228) -/

/-- Kind of timeline `n` in section 11, if it is declared there. -/
def Image.timelineKind (m : Image) (n : Nat) : Option Nat :=
  (m.timelines.find? fun e => (e.extractLsb' 8 8).toNat == n).map fun e => (e.extractLsb' 16 4).toNat

/-- Machine address at which counter `n` is published, if the timeline page can be written (R228). -/
def State.timelineMa (s : State) (c : Charge) (n : Nat) : Option Nat :=
  (s.stokerAddr c.packetAspace (pktField c.packet 0x20 8) false true).map fun ma => ma + 8 * n

/-- Counter `n` of charge `b` advanced by `amount` with release `v` (R228, R282, R292), and published; an advance that
cannot be written is skipped without a fault. -/
def State.advance (s : State) (b n : Nat) (amount : BitVec 64) (v : Rel) : State :=
  match s.charge? b with
  | none => s
  | some c =>
    match c.timelines[n]? with
    | none => s
    | some t =>
      let value := t.value + amount
      let ma := s.timelineMa c n
      let s := s.modCharge b fun c =>
        { c with timelines := modifyAt c.timelines n fun t =>
            { t with value := value, rels := mergeRel 8 t.rels v, skipped := ma.isNone } }
      match ma with
      | some a =>
        (s.setAdm { s.adm with tlVecs := Table.put s.adm.tlVecs a (relsVec 8 (mergeRel 8 t.rels v)) }).stokerStoreVia c.packetAspace
          (pktField c.packet 0x20 8 + 8 * n) a (leBytes 8 value.toNat)
      | none => s

/-- The release of an engine operation that ends: its agent at the timeline's next value, with its table (R292). -/
def State.engineRel (s : State) (b n : Nat) (sc : Scope) (h : Nat) (v : Vec) : Rel :=
  match (s.charge? b).bind fun c => c.timelines[n]? with
  | some t => { scope := sc, hearth := h, vec := releaseVec t.agent (t.value.toNat + 1) v }
  | none => { scope := sc, hearth := h, vec := { entries := [], lossy := false } }

/-- An engine operation's advance of its timeline by one. -/
def State.advanceEngine (s : State) (b n : Nat) (r : Rel) : State := s.advance b n 1 r

/-- A release of the charge itself (R282): its epoch rises, and the vector formed. -/
def State.chargeRelease (s : State) (b : Nat) : Vec × State :=
  match s.charge? b with
  | some c =>
    (releaseVec c.agent (c.epoch + 1) c.acquired, s.modCharge b fun c => { c with epoch := c.epoch + 1 })
  | none => (.empty, s)

end Sys2Proof.Machine
end

