-- ==== Sys2Proof/Machine/Move.lean ====
section
/-!
DEFINITION. Sys2Proof/Machine/Move.lean: frame pools (R312, R368), shootdowns as they are requested (R308, R309), and the abort
of a page move (R316, R317).
-/

namespace Sys2Proof.Machine

/-- The root of a partition's stage W: that of its lowest-numbered descriptor (R300). -/
def State.partRoot (s : State) (p : BitVec 8) : BitVec 39 :=
  match s.adm.aspaces.find? fun (_, a) => a.partition == p with
  | some (_, a) => a.wRoot
  | none => 0

/-! ## Frame pools (R312, R368) -/

def Pool.ring (p : Pool) : Nat := 2 ^ (p.size.toNat + 8)

/-- The frame at a pool's head. -/
def State.poolHead (s : State) (p : Pool) : Option Nat :=
  if p.head = p.tail then none else some (bitsOf (s.loadHome (p.base.toNat * 4096 + 8 * (p.head.toNat % p.ring)) 8) 35 0)

/-- The frame at a pool's head, and the pool with the head advanced; none where the ring is empty. -/
def State.poolTake (s : State) (p : Pool) : Option (Nat × Pool) :=
  (s.poolHead p).map fun f => (f, { p with head := BitVec.ofNat 32 ((p.head.toNat + 1) % p.ring) })

/-- A frame returned at the head: its number into the entry before, and the head stepped back; nothing where the ring is
full (R316). -/
def State.poolGive (s : State) (p : Pool) (frame : Nat) : Option (State × Pool) :=
  let h := (p.head.toNat + p.ring - 1) % p.ring
  if h = p.tail.toNat % p.ring then none
  else some (s.stokerStore (p.base.toNat * 4096 + 8 * h) (leBytes 8 (frame % 2 ^ 36)), { p with head := BitVec.ofNat 32 h })

def State.pool (s : State) (n : Nat) : Pool := Table.getD s.adm.pools n .reset

def State.putPool (s : State) (n : Nat) (p : Pool) : State := s.setAdm { s.adm with pools := Table.put s.adm.pools n p }

/-! ## Shootdowns (R308, R309) -/

/-- A shootdown requested: its identifier, and the state with it queued last. -/
def State.addShootdown (s : State) (stageW : Bool) (aspace part first pages : Nat) (record move : Option Nat) :
    Nat × State :=
  let (id, s) := s.newId
  let d : Shootdown :=
    { id := id, stageW := stageW, aspace := aspace, part := part, first := first, pages := pages, record := record,
      move := move, acked := [] }
  (id, s.setSide { s.memSide with shootdowns := s.memSide.shootdowns ++ [d] })

/-! ## Moves (R313, R316, R317) -/

/-- The ring of the level that requested a move. -/
def Move.ring (m : Move) : Nat := m.p

/-- The completion record of a move (R317). -/
def State.moveRecord (s : State) (m : Move) (status cause dest cursor : Nat) : State :=
  s.stokerStore m.record
    (leBytes 4 status ++ leBytes 4 cause ++ leBytes 8 m.cookie.toNat ++ leBytes 8 dest ++ leBytes 4 cursor ++ leBytes 4 0)

/-- The migration-abort fault (R317), for the level that requested the move: it holds the fields of the completion record. -/
def State.moveFault (s : State) (m : Move) (cause dest cursor : Nat) : State :=
  s.postTo m.ring { s.faultRec 1024 0x24 0 with
    partition := m.p, address := BitVec.ofNat 64 m.page, unit := 9, detail := [8, cause, m.cookie.toNat, dest, cursor] }

def State.dropMove (s : State) (id : Nat) : State :=
  s.setSide { s.memSide with moves := s.memSide.moves.filter fun x => x.id != id }

/-- The leaf back to RESIDENT at the source, where it is still MOVING there. -/
def State.unmoveLeaf (s : State) (m : Move) : State :=
  let e := s.loadHome m.leaf 8
  if leafState e = 1 ∧ bitsOf e 55 16 = m.src then s.stokerStore m.leaf (leBytes 8 (e - 16)) else s

/-- A move aborted with a cause of R316; it is none where the move has written its leaf. Its destination frame returns to
its pool, except under cause 1, which retires and reports it. A copied line comes back to its own stove, and where that is another one the
tags of the accesses made meanwhile are lost with the change (R295). -/
def State.abortMove (s : State) (m : Move) (cause : Nat) : State :=
  if m.written then s
  else
    let s := if owningStove (m.src * 65536) == owningStove (m.dst * 65536) then s
      else (List.range m.cursor).foldl (fun s i => s.dropLineTags (m.src * 256 + i)) s
    let s := (s.dropMove m.id).unmoveLeaf m
    let s := (s.addShootdown true 0 m.part m.partPage 1 none none).2
    let (dest, s) :=
      if cause = 1 then (m.dst, s.postHardware 0x21 9 (m.dst * 65536) [])
      else match s.poolGive (s.pool m.pool) m.dst with
        | some (s, p) => (0, s.putPool m.pool p)
        | none => (m.dst, s)
    (s.moveRecord m 8 cause dest m.cursor).moveFault m cause dest m.cursor

end Sys2Proof.Machine
end

