-- ==== Sys2Proof/Decode.lean ====
section
/-!
DEFINITION. Sys2Proof/Decode.lean: instruction words (R80 to R92) read into Instr and written back. Decoding rejects by
name what no constructor can hold: a reserved opcode (R92), a reserved tag operation or scope, and a nonzero reserved bit
range of a format (R82). What a field's value means for the word's admission is Machine/Admit.lean's.
-/

namespace Sys2Proof

/-- Why bits are no instruction. -/
inductive DecodeError where
  /-- R92 -/
  | reservedOpcode
  /-- R83 -/
  | reservedTagOp
  /-- R88 -/
  | reservedScope
  /-- R82: a reserved bit range, named by its most significant bit -/
  | reservedBits (bit : Nat)
  /-- fewer bytes than a word holds -/
  | truncated
  deriving DecidableEq, Repr

/-- The formats of instruction words (R81). -/
inductive WordFormat where
  | a | b | m | x | s
  deriving DecidableEq, Repr

/-! ## The opcode map (R91) -/

/-- Format A opcodes. -/
def opcodeA (op : Nat) : Option (WordA → Instr) :=
  match op with
  | 0x00 => some .nop | 0x01 => some .const | 0x02 => some .dup | 0x03 => some .steer | 0x04 => some .merge
  | 0x05 => some .gate | 0x06 => some .sync | 0x07 => some .sink | 0x08 => some .eos | 0x09 => some .isbub
  | 0x0A => some .trig | 0x0B => some .hndl | 0x20 => some .add | 0x21 => some .sub | 0x22 => some .adds
  | 0x23 => some .subs | 0x24 => some .mul | 0x25 => some .mulh | 0x26 => some .mad | 0x27 => some .div
  | 0x28 => some .rem | 0x29 => some .neg | 0x2A => some .abs | 0x2B => some .min | 0x2C => some .max
  | 0x2D => some .avg | 0x2E => some .idx | 0x2F => some .idx2 | 0x30 => some .and | 0x31 => some .or
  | 0x32 => some .xor | 0x33 => some .andn | 0x34 => some .not | 0x35 => some .shl | 0x36 => some .shr
  | 0x37 => some .sha | 0x38 => some .rot | 0x39 => some .clz | 0x3A => some .popc | 0x3B => some .brev
  | 0x3C => some .bfx | 0x3D => some .bfi | 0x3E => some .cmp | 0x3F => some .sel | 0x40 => some .fadd
  | 0x41 => some .fsub | 0x42 => some .fmul | 0x43 => some .fma | 0x44 => some .fnma | 0x45 => some .fmin
  | 0x46 => some .fmax | 0x47 => some .fabs | 0x48 => some .fneg | 0x49 => some .fcmp | 0x4A => some .fclass
  | 0x4B => some .frnd | 0x4C => some .fdiv | 0x4D => some .fsqrt | 0x4E => some .fscal | 0x4F => some .fcpys
  | 0x50 => some .frcp | 0x51 => some .frsq | 0x52 => some .fex2 | 0x53 => some .flg2 | 0x54 => some .ftnh
  | 0x55 => some .fsgm | 0x56 => some .fsin | 0x57 => some .fcos | 0x58 => some .fsilu | 0x60 => some .cvt
  | 0x61 => some .cvto | 0x62 => some .cvtl | 0x63 => some .pack | 0x64 => some .unpk | 0x65 => some .scac
  | 0x66 => some .scale | 0x67 => some .cbdec | 0x68 => some .key | 0x70 => some .vsum | 0x71 => some .vmax
  | 0x72 => some .vmin | 0x73 => some .vand | 0x74 => some .vor | 0x75 => some .vscn | 0x76 => some .vspl
  | 0x77 => some .vcat | 0x78 => some .pand | 0x79 => some .por | 0x7A => some .pxor | 0x7B => some .pnot
  | 0x7C => some .pcnt | 0x7D => some .rdfl | 0x7E => some .clfl
  | _ => none

/-- Format B opcodes. -/
def opcodeB (op : Nat) : Option (WordB → Instr) :=
  match op with
  | 0x10 => some .loop | 0x11 => some .loopd | 0x12 => some .lexit | 0x13 => some .tchk | 0x14 => some .tgset
  | 0x15 => some .tgget | 0x16 => some .scan | 0x17 => some .scant | 0x18 => some .pstrm
  | _ => none

/-- Format M opcodes. -/
def opcodeM (op : Nat) : Option (WordM → Instr) :=
  match op with
  | 0x80 => some .ld | 0x81 => some .st | 0x82 => some .lds | 0x83 => some .sts | 0x84 => some .atom
  | 0x85 => some .cas | 0x86 => some .gath | 0x87 => some .scat | 0x88 => some .tld | 0x89 => some .tst
  | 0x8A => some .tqry | 0x8B => some .tclr | 0x8C => some .crd | 0x8D => some .cwr | 0x8E => some .zbmp
  | 0x8F => some .pfch | 0x90 => some .bcpy | 0x91 => some .nmc | 0x92 => some .place | 0x93 => some .fjoin
  | 0x94 => some .tlinc | 0x95 => some .tlwait | 0x96 => some .tlrd | 0x97 => some .ntfy | 0x98 => some .lsend
  | 0x99 => some .lrecv | 0x9A => some .redn
  | _ => none

/-- Format X opcodes. -/
def opcodeX (op : Nat) : Option (WordX → Instr) :=
  match op with
  | 0xA0 => some .mlat | 0xA1 => some .mgath | 0xA2 => some .mma | 0xA3 => some .mmas | 0xA4 => some .mout
  | 0xA5 => some .mzer | 0xA6 => some .mcbt | 0xB0 => some .jinit | 0xB1 => some .jwin | 0xB2 => some .jadd
  | 0xB3 => some .jprd | 0xB4 => some .jmatch | 0xB5 => some .jprobe | 0xB6 => some .jdro | 0xB7 => some .jdrh
  | 0xB8 => some .jmrg | 0xB9 => some .jstat | 0xBA => some .iwalk | 0xBB => some .ibal
  | _ => none

/-- Format S opcodes. -/
def opcodeS (op : Nat) : Option (WordS → Instr) :=
  match op with
  | 0xC0 => some .trap | 0xC1 => some .halt | 0xC2 => some .yield | 0xC3 => some .splice | 0xC4 => some .launch
  | 0xC5 => some .rdctl | 0xC6 => some .cksum
  | _ => none

/-! ## Fields (R80, R83, R87 to R90) -/

/-- Bits [lo + n − 1 : lo] of a word. -/
def field (w : BitVec 64) (lo n : Nat) : BitVec n := w.extractLsb' lo n

def fieldBit (w : BitVec 64) (i : Nat) : Bool := w.getLsbD i

def decodeFmt (b : BitVec 4) : Fmt := Fmt.ofCode b.toNat

def encodeFmt (f : Fmt) : BitVec 4 := BitVec.ofNat 4 f.code

/-- Tag operations (R83). -/
def decodeTagOp (b : BitVec 3) : Option TagOp :=
  match b.toNat with
  | 0 => some .same | 1 => some .inc | 2 => some .zero | 3 => some .fromL | 4 => some .outer | 5 => some .fieldSet
  | _ => none

def encodeTagOp : TagOp → BitVec 3
  | .same => 0 | .inc => 1 | .zero => 2 | .fromL => 3 | .outer => 4 | .fieldSet => 5

/-- Scopes (R88). -/
def decodeScope (b : BitVec 3) : Option Scope :=
  match b.toNat with
  | 0 => some .e | 1 => some .h | 2 => some .s | 3 => some .m | 4 => some .d
  | _ => none

def encodeScope : Scope → BitVec 3
  | .e => 0 | .h => 1 | .s => 2 | .m => 3 | .d => 4

/-- A consumer field: slot above, port below (R80). -/
def decodeCons (b : BitVec 9) : Consumer := { slot := b.extractLsb' 2 7, port := b.extractLsb' 0 2 }

def encodeCons (c : Consumer) : BitVec 9 := c.slot ++ c.port

def wordAOf (w : BitVec 64) (t : TagOp) : WordA where
  fmt := decodeFmt (field w 52 4)
  arity := field w 50 2
  tagop := t
  cons1 := decodeCons (field w 38 9)
  cons2 := decodeCons (field w 29 9)
  nf := fieldBit w 28
  mode := field w 25 3
  sat := fieldBit w 24
  inv := fieldBit w 23
  isel := field w 21 2
  imm := field w 0 21

def wordBOf (w : BitVec 64) : WordB where
  fmt := decodeFmt (field w 52 4)
  arity := field w 50 2
  subop := field w 47 3
  cons1 := decodeCons (field w 38 9)
  cons2 := decodeCons (field w 29 9)
  fsel := field w 27 2
  inv := fieldBit w 23
  isel := field w 21 2
  imm := field w 0 21

def wordMOf (w : BitVec 64) (sc : Scope) : WordM where
  fmt := decodeFmt (field w 52 4)
  arity := field w 50 2
  scope := sc
  cons1 := decodeCons (field w 38 9)
  cons2 := decodeCons (field w 29 9)
  region := field w 23 6
  chan := fieldBit w 22
  cmpl := fieldBit w 21
  op := field w 17 4
  fpol := fieldBit w 16
  aux := field w 0 16

def wordXOf (w : BitVec 64) : WordX where
  fmtA := decodeFmt (field w 52 4)
  fmtB := decodeFmt (field w 48 4)
  acc64 := fieldBit w 47
  cons1 := decodeCons (field w 38 9)
  cons2 := decodeCons (field w 29 9)
  sel := field w 24 5
  scl := field w 22 2
  region := field w 16 6
  pidx := field w 10 6
  arity := field w 8 2
  nf := fieldBit w 7

def wordSOf (w : BitVec 64) (sc : Scope) : WordS where
  fmt := decodeFmt (field w 52 4)
  arity := field w 50 2
  scope := sc
  cons1 := decodeCons (field w 38 9)
  cons2 := decodeCons (field w 29 9)
  code := field w 21 8
  region := field w 15 6
  inv := fieldBit w 14
  queue := field w 6 8

/-! ## Decoding -/

/-- The format of an opcode (R81). -/
def formatOf (op : Nat) : Option WordFormat :=
  if op < 0x10 then some .a else if op < 0x20 then some .b else if op < 0x80 then some .a
  else if op < 0xA0 then some .m else if op < 0xC0 then some .x else if op < 0xD0 then some .s else none

def decodeA (op : Nat) (w : BitVec 64) : Except DecodeError Instr :=
  match opcodeA op with
  | none => .error .reservedOpcode
  | some mk =>
    match decodeTagOp (field w 47 3) with
    | none => .error .reservedTagOp
    | some t => .ok (mk (wordAOf w t))

def decodeB (op : Nat) (w : BitVec 64) : Except DecodeError Instr :=
  match opcodeB op with
  | none => .error .reservedOpcode
  | some mk => if field w 24 3 = 0 then .ok (mk (wordBOf w)) else .error (.reservedBits 26)

def decodeM (op : Nat) (w : BitVec 64) : Except DecodeError Instr :=
  match opcodeM op with
  | none => .error .reservedOpcode
  | some mk =>
    match decodeScope (field w 47 3) with
    | none => .error .reservedScope
    | some sc => .ok (mk (wordMOf w sc))

def decodeX (op : Nat) (w : BitVec 64) : Except DecodeError Instr :=
  match opcodeX op with
  | none => .error .reservedOpcode
  | some mk => if field w 0 7 = 0 then .ok (mk (wordXOf w)) else .error (.reservedBits 6)

def decodeS (op : Nat) (w : BitVec 64) : Except DecodeError Instr :=
  match opcodeS op with
  | none => .error .reservedOpcode
  | some mk =>
    match decodeScope (field w 47 3) with
    | none => .error .reservedScope
    | some sc => if field w 0 6 = 0 then .ok (mk (wordSOf w sc)) else .error (.reservedBits 5)

/-- The opcode of a word (R80). -/
def opcodeOf (w : BitVec 64) : Nat := (field w 56 8).toNat

/-- The instruction of a 64-bit word, or why it is none. -/
def decodeWord (w : BitVec 64) : Except DecodeError Instr :=
  match formatOf (opcodeOf w) with
  | some .a => decodeA (opcodeOf w) w
  | some .b => decodeB (opcodeOf w) w
  | some .m => decodeM (opcodeOf w) w
  | some .x => decodeX (opcodeOf w) w
  | some .s => decodeS (opcodeOf w) w
  | none => .error .reservedOpcode

/-- The instruction that the first eight bytes hold, little-endian (R3, R75), and the rest. -/
def decode (bs : List Byte) : Except DecodeError (Instr × List Byte) :=
  if bs.length < 8 then .error .truncated
  else
    match decodeWord (BitVec.ofNat 64 (Machine.leNat (bs.take 8))) with
    | .ok i => .ok (i, bs.drop 8)
    | .error e => .error e

/-! ## Encoding -/

def encA (op : BitVec 8) (w : WordA) : BitVec 64 :=
  op ++ encodeFmt w.fmt ++ w.arity ++ encodeTagOp w.tagop ++ encodeCons w.cons1 ++ encodeCons w.cons2 ++
    BitVec.ofBool w.nf ++ w.mode ++ BitVec.ofBool w.sat ++ BitVec.ofBool w.inv ++ w.isel ++ w.imm

def encB (op : BitVec 8) (w : WordB) : BitVec 64 :=
  op ++ encodeFmt w.fmt ++ w.arity ++ w.subop ++ encodeCons w.cons1 ++ encodeCons w.cons2 ++ w.fsel ++ (0 : BitVec 3) ++
    BitVec.ofBool w.inv ++ w.isel ++ w.imm

def encM (op : BitVec 8) (w : WordM) : BitVec 64 :=
  op ++ encodeFmt w.fmt ++ w.arity ++ encodeScope w.scope ++ encodeCons w.cons1 ++ encodeCons w.cons2 ++ w.region ++
    BitVec.ofBool w.chan ++ BitVec.ofBool w.cmpl ++ w.op ++ BitVec.ofBool w.fpol ++ w.aux

def encX (op : BitVec 8) (w : WordX) : BitVec 64 :=
  op ++ encodeFmt w.fmtA ++ encodeFmt w.fmtB ++ BitVec.ofBool w.acc64 ++ encodeCons w.cons1 ++ encodeCons w.cons2 ++
    w.sel ++ w.scl ++ w.region ++ w.pidx ++ w.arity ++ BitVec.ofBool w.nf ++ (0 : BitVec 7)

def encS (op : BitVec 8) (w : WordS) : BitVec 64 :=
  op ++ encodeFmt w.fmt ++ w.arity ++ encodeScope w.scope ++ encodeCons w.cons1 ++ encodeCons w.cons2 ++ w.code ++
    w.region ++ BitVec.ofBool w.inv ++ w.queue ++ (0 : BitVec 6)

/-- The word of an instruction; an event has none. -/
def encode : Instr → Option (BitVec 64)
  | .nop w => some (encA 0x00 w)
  | .const w => some (encA 0x01 w)
  | .dup w => some (encA 0x02 w)
  | .steer w => some (encA 0x03 w)
  | .merge w => some (encA 0x04 w)
  | .gate w => some (encA 0x05 w)
  | .sync w => some (encA 0x06 w)
  | .sink w => some (encA 0x07 w)
  | .eos w => some (encA 0x08 w)
  | .isbub w => some (encA 0x09 w)
  | .trig w => some (encA 0x0A w)
  | .hndl w => some (encA 0x0B w)
  | .add w => some (encA 0x20 w)
  | .sub w => some (encA 0x21 w)
  | .adds w => some (encA 0x22 w)
  | .subs w => some (encA 0x23 w)
  | .mul w => some (encA 0x24 w)
  | .mulh w => some (encA 0x25 w)
  | .mad w => some (encA 0x26 w)
  | .div w => some (encA 0x27 w)
  | .rem w => some (encA 0x28 w)
  | .neg w => some (encA 0x29 w)
  | .abs w => some (encA 0x2A w)
  | .min w => some (encA 0x2B w)
  | .max w => some (encA 0x2C w)
  | .avg w => some (encA 0x2D w)
  | .idx w => some (encA 0x2E w)
  | .idx2 w => some (encA 0x2F w)
  | .and w => some (encA 0x30 w)
  | .or w => some (encA 0x31 w)
  | .xor w => some (encA 0x32 w)
  | .andn w => some (encA 0x33 w)
  | .not w => some (encA 0x34 w)
  | .shl w => some (encA 0x35 w)
  | .shr w => some (encA 0x36 w)
  | .sha w => some (encA 0x37 w)
  | .rot w => some (encA 0x38 w)
  | .clz w => some (encA 0x39 w)
  | .popc w => some (encA 0x3A w)
  | .brev w => some (encA 0x3B w)
  | .bfx w => some (encA 0x3C w)
  | .bfi w => some (encA 0x3D w)
  | .cmp w => some (encA 0x3E w)
  | .sel w => some (encA 0x3F w)
  | .fadd w => some (encA 0x40 w)
  | .fsub w => some (encA 0x41 w)
  | .fmul w => some (encA 0x42 w)
  | .fma w => some (encA 0x43 w)
  | .fnma w => some (encA 0x44 w)
  | .fmin w => some (encA 0x45 w)
  | .fmax w => some (encA 0x46 w)
  | .fabs w => some (encA 0x47 w)
  | .fneg w => some (encA 0x48 w)
  | .fcmp w => some (encA 0x49 w)
  | .fclass w => some (encA 0x4A w)
  | .frnd w => some (encA 0x4B w)
  | .fdiv w => some (encA 0x4C w)
  | .fsqrt w => some (encA 0x4D w)
  | .fscal w => some (encA 0x4E w)
  | .fcpys w => some (encA 0x4F w)
  | .frcp w => some (encA 0x50 w)
  | .frsq w => some (encA 0x51 w)
  | .fex2 w => some (encA 0x52 w)
  | .flg2 w => some (encA 0x53 w)
  | .ftnh w => some (encA 0x54 w)
  | .fsgm w => some (encA 0x55 w)
  | .fsin w => some (encA 0x56 w)
  | .fcos w => some (encA 0x57 w)
  | .fsilu w => some (encA 0x58 w)
  | .cvt w => some (encA 0x60 w)
  | .cvto w => some (encA 0x61 w)
  | .cvtl w => some (encA 0x62 w)
  | .pack w => some (encA 0x63 w)
  | .unpk w => some (encA 0x64 w)
  | .scac w => some (encA 0x65 w)
  | .scale w => some (encA 0x66 w)
  | .cbdec w => some (encA 0x67 w)
  | .key w => some (encA 0x68 w)
  | .vsum w => some (encA 0x70 w)
  | .vmax w => some (encA 0x71 w)
  | .vmin w => some (encA 0x72 w)
  | .vand w => some (encA 0x73 w)
  | .vor w => some (encA 0x74 w)
  | .vscn w => some (encA 0x75 w)
  | .vspl w => some (encA 0x76 w)
  | .vcat w => some (encA 0x77 w)
  | .pand w => some (encA 0x78 w)
  | .por w => some (encA 0x79 w)
  | .pxor w => some (encA 0x7A w)
  | .pnot w => some (encA 0x7B w)
  | .pcnt w => some (encA 0x7C w)
  | .rdfl w => some (encA 0x7D w)
  | .clfl w => some (encA 0x7E w)
  | .loop w => some (encB 0x10 w)
  | .loopd w => some (encB 0x11 w)
  | .lexit w => some (encB 0x12 w)
  | .tchk w => some (encB 0x13 w)
  | .tgset w => some (encB 0x14 w)
  | .tgget w => some (encB 0x15 w)
  | .scan w => some (encB 0x16 w)
  | .scant w => some (encB 0x17 w)
  | .pstrm w => some (encB 0x18 w)
  | .ld w => some (encM 0x80 w)
  | .st w => some (encM 0x81 w)
  | .lds w => some (encM 0x82 w)
  | .sts w => some (encM 0x83 w)
  | .atom w => some (encM 0x84 w)
  | .cas w => some (encM 0x85 w)
  | .gath w => some (encM 0x86 w)
  | .scat w => some (encM 0x87 w)
  | .tld w => some (encM 0x88 w)
  | .tst w => some (encM 0x89 w)
  | .tqry w => some (encM 0x8A w)
  | .tclr w => some (encM 0x8B w)
  | .crd w => some (encM 0x8C w)
  | .cwr w => some (encM 0x8D w)
  | .zbmp w => some (encM 0x8E w)
  | .pfch w => some (encM 0x8F w)
  | .bcpy w => some (encM 0x90 w)
  | .nmc w => some (encM 0x91 w)
  | .place w => some (encM 0x92 w)
  | .fjoin w => some (encM 0x93 w)
  | .tlinc w => some (encM 0x94 w)
  | .tlwait w => some (encM 0x95 w)
  | .tlrd w => some (encM 0x96 w)
  | .ntfy w => some (encM 0x97 w)
  | .lsend w => some (encM 0x98 w)
  | .lrecv w => some (encM 0x99 w)
  | .redn w => some (encM 0x9A w)
  | .mlat w => some (encX 0xA0 w)
  | .mgath w => some (encX 0xA1 w)
  | .mma w => some (encX 0xA2 w)
  | .mmas w => some (encX 0xA3 w)
  | .mout w => some (encX 0xA4 w)
  | .mzer w => some (encX 0xA5 w)
  | .mcbt w => some (encX 0xA6 w)
  | .jinit w => some (encX 0xB0 w)
  | .jwin w => some (encX 0xB1 w)
  | .jadd w => some (encX 0xB2 w)
  | .jprd w => some (encX 0xB3 w)
  | .jmatch w => some (encX 0xB4 w)
  | .jprobe w => some (encX 0xB5 w)
  | .jdro w => some (encX 0xB6 w)
  | .jdrh w => some (encX 0xB7 w)
  | .jmrg w => some (encX 0xB8 w)
  | .jstat w => some (encX 0xB9 w)
  | .iwalk w => some (encX 0xBA w)
  | .ibal w => some (encX 0xBB w)
  | .trap w => some (encS 0xC0 w)
  | .halt w => some (encS 0xC1 w)
  | .yield w => some (encS 0xC2 w)
  | .splice w => some (encS 0xC3 w)
  | .launch w => some (encS 0xC4 w)
  | .rdctl w => some (encS 0xC5 w)
  | .cksum w => some (encS 0xC6 w)
  | .moduleReset | .recoveryImageReceive | .bellowsTick | .ratePointChangeDone _ | .coolantThresholdCross
  | .hearthRetire _ | .partRetire _ | .partRetired _ | .portModeWrite _ _ | .portDown _
  | .uetPacketReceive _ _ _ | .chimneyFrameReceive _ _ _ _ | .remoteAccessReceive _ _ | .exitedDropReport _ _
  | .pooledCapacityChange _ _ _ | .rcCounterClear _ _ | .registerWrite _ _ _ | .hearthSlotWrite _ _ _
  | .paramWindowWrite _ _ _ _ _ _ | .jafWindowWrite _ _ _ _ | .injectionWrite _ _ _ _ | .tokenArrival _ _
  | .abortTokenArrival _ | .eosPropagate _ _ _ _ | .loopIssue _ _ _ | .chainStart _ | .chainDone _
  | .streamDone _ | .pstrmDoneEmit _ _ _ _ | .homeAccess _ _ | .portReplyLeave _ _ | .storeCompletion _
  | .gatherServe _ _ | .scatApply _ _ | .tileSealEos _ _ _ | .tileReadDone _ | .tileDrainDone _ _
  | .bcpyBeat _ _ | .bcpyComplete _ | .nmcStripe _ _ | .nmcComplete _ | .tlincAdd _ | .tlwaitRelease _
  | .ntfyPost _ | .uintDeliver _ | .lsendAck _ _ | .lrecvRun _ _ | .rednResult _ _ _ | .scaleEntry _ _
  | .mgathReadReturn _ _ _ _ | .matrixEos _ _ _ _ | .jdroDrainDone _ _ | .ieWalk _ _ | .spliceSuccessorLoad _ _ _
  | .launchComplete _ | .hangDetect _ | .quantumExpire _ | .selfPreempt _ | .xsdRequest _ _ _
  | .shootdownHearthAck _ _ | .shootdownComplete _ | .migrationRequest _ _ _ | .migrationCancel _ _ _
  | .migrationLineCopy _ _ | .migrationComplete _ | .emberHalve | .emberWrite _ _ _ | .partitionReset _ _
  | .vfReset _ _ | .doorbellRing _ _ _ _ | .queueOpen _ _ _ | .queueDestroy _ _ _ | .queueClearFault _ _ _
  | .packetRead _ _ _ | .waitReread _ _ | .launchListAppend _ _ | .bindDispatch _ _ _ | .chargeLoad _ _
  | .bindPreempt _ _ _ | .bindResume _ _ _ _ | .bindTeardown _ _ _ | .shadowSwap _ | .contextFrameWriteDone _
  | .bucketRefill | .deferredActivation _ | .freezeStart _ | .freezeComplete _ | .faultRecordPost _
  | .faultResume _ _ _ | .faultForward _ _ _ | .faultAbort _ _ _ | .repairPass _ | .repairPassEnd _
  | .uncorrectableError _ | .inServiceRepair _ | .portOrCoreRetire _ => none

/-- The bytes of an instruction word in memory: little-endian (R3, R75). -/
def encodeBytes (i : Instr) : Option (List Byte) := (encode i).map fun w => Machine.leBytes 8 w.toNat

/-- The instruction that the decoder reads from a word whose `nbits` low bits are `w`, the rest zero. -/
def decodeTableWord (_nbits w : Nat) : Option Instr :=
  match decode (Machine.leBytes 8 w) with
  | .ok (i, _) => some i
  | .error _ => none

end Sys2Proof
end

