-- ==== Sys2Proof/Machine/Operands.lean ====
section
/-!
DEFINITION. Sys2Proof/Machine/Operands.lean: what a firing reads and emits: ports (R51), immediates (R85), parameters
(R86), predicates (R53), tag operations (R84), consumers and edges (R76, R80), runs (R47, R48, R130) and the arrival of
tokens in transit.
-/

namespace Sys2Proof.Machine

/-! ## Ports of a word -/

/-- Port of a consumer field's code (R80). -/
def portOf (n : Nat) : Port := if n = 0 then .L else if n = 1 then .R else .P

def portIx : Port → Nat
  | .L => 0 | .R => 1 | .P => 2

def wordOp (w : BitVec 64) : Nat := bitsOf w.toNat 63 56

/-- Arity of a word, in the place its format gives (R83, R87 to R90). -/
def wordArity (w : BitVec 64) : Nat :=
  let op := wordOp w
  if 0xA0 ≤ op ∧ op ≤ 0xBF then bitsOf w.toNat 9 8 else bitsOf w.toNat 51 50

def wordFmt (w : BitVec 64) : Fmt := Fmt.ofCode (bitsOf w.toNat 55 52)

/-- isel of a word; only formats A and B have one (R83, R87). -/
def wordIsel (w : BitVec 64) : Nat := if wordOp w < 0x80 then bitsOf w.toNat 22 21 else 0

/-- Whether some consumer of the charge names port `p` of word `slot` in block `blk`, or a track does. -/
def Charge.feeds (c : Charge) (blk slot : Nat) (p : Port) : Bool :=
  let code := portIx p
  let viaConsumer := (c.image.blocks.zipIdx).any fun (b, i) =>
    (b.words.zipIdx).any fun (w, j) =>
      [0, 1].any fun k =>
        let lo := if k = 0 then 38 else 29
        bitsOf w.toNat (lo + 1) lo == code && bitsOf w.toNat (lo + 8) (lo + 2) == slot &&
        (match c.image.edges.find? (fun e =>
            (e.extractLsb' 0 32) == b.id && (e.extractLsb' 64 7).toNat == j && (e.extractLsb' 71 1).toNat == k) with
         | some e => (c.image.blocks.findIdx fun d => d.id == e.extractLsb' 32 32) == blk
         | none => i == blk)
  viaConsumer || c.image.tracks.any fun t =>
    (t.extractLsb' 43 7).toNat == slot && (t.extractLsb' 50 2).toNat == code && (t.extractLsb' 24 8).toNat < 48 &&
    (match c.image.blocks[blk]? with
     | some b => (t.extractLsb' 16 8).toNat == b.shape && b.first ≤ (t.extractLsb' 24 8).toNat &&
        (t.extractLsb' 24 8).toNat < b.first + b.span
     | none => false)

/-- Words that are written with L and P alone at arity 3 (R97, R98, R212, R214): assumption entry 10. -/
def lacksR (op : Nat) : Bool := op = 0x80 || op = 0x82 || op = 0x86 || op = 0xC0 || op = 0xC1

/-- The ports that tokens feed and that a firing needs (R51, R83). -/
def requiredPorts (c : Charge) (blk slot : Nat) (w : BitVec 64) : List Port :=
  let isel := wordIsel w
  let arity := wordArity w
  let l := if isel = 1 ∧ wordOp w ≠ 0x01 then [] else [Port.L]
  let r :=
    if arity < 2 ∨ isel = 2 ∨ isel = 3 then []
    else if arity = 3 ∧ lacksR (wordOp w) ∧ !(c.feeds blk slot .R) then [] else [Port.R]
  l ++ r ++ (if arity = 3 then [Port.P] else [])

/-! ## The firing that a step runs -/

/-- A firing in its place: hearth, CE, context, and the records it reads. -/
structure Fire where
  hearth : Nat
  ce     : Nat
  ctx    : Nat
  f      : Firing
  cc     : CeCtx
  ch     : Charge
  blk    : Block
  deriving DecidableEq, Repr

def Fire.slot (F : Fire) : Nat := F.f.slot
def Fire.policy (F : Fire) : Policy := F.ch.policyOf F.blk
def Fire.tagsel (F : Fire) : Nat := F.ch.image.tagsel

/-- The firing that `step` has selected, taken from the ready list. It acquires the completions whose tokens it consumes
(R283). -/
def startFiring (s : State) : Option (Fire × State) :=
  match s.sel with
  | some (.firing h e c f) =>
    match s.ctx? h e c with
    | some cc =>
      match s.charge? cc.bind with
      | some ch =>
        match ch.block? cc.block with
        | some b =>
          let t := ((s.modCtx h e c fun x => { x with ready := x.ready.erase f }).modCharge cc.bind fun x =>
              { x with lastActive := s.cycle }).acquireRels cc.bind .m h f.acq
          some ({ hearth := h, ce := e, ctx := c, f := f, cc := cc, blk := b
                  ch := { ch with acquired := ((t.charge? cc.bind).map (·.acquired)).getD ch.acquired } }, t)
        | none => none
      | none => none
    | none => none
  | _ => none

/-! ## Operands -/

/-- An immediate read in the word's format (R85). -/
def immVal (f : Fmt) (imm : BitVec 21) : Val :=
  match f with
  | .f32 => BitVec.ofNat 128 (imm.toNat * 2 ^ 11)
  | .f64 => BitVec.ofNat 128 (imm.toNat * 2 ^ 43)
  | _ => if f.isSigned then mkVal f (wrapInt f.bits (signedOf 21 imm.toNat)) else mkVal f imm.toNat

/-- A parameter operand of the firing's context in its CE (R86). -/
def State.paramVal (s : State) (F : Fire) (g bits : Nat) : Val :=
  BitVec.ofNat 128 (s.param F.hearth F.ce F.ctx g bits % 2 ^ bits)

/-- A position's operands with its tag. -/
structure Opnd where
  iter : Iter
  l    : Option Val
  r    : Option Val
  p    : Option Val
  /-- scale pair bound to the L operand (R175) -/
  pair : BitVec 16 × BitVec 16 := (0, 0)
  deriving DecidableEq, Repr

/-- The operands of a format A or B word: isel puts an immediate at L or R, or a parameter at R (R83, R86). -/
def State.operandsA (s : State) (F : Fire) (f : Fmt) (isel : BitVec 2) (imm : BitVec 21) : List Opnd :=
  F.f.pos.map fun q =>
    { iter := q.iter
      l := if isel = 1 then some (immVal f imm) else q.l
      r := if isel = 2 then some (immVal f imm)
           else if isel = 3 then some (s.paramVal F (imm.toNat % 64) f.bits) else q.r
      p := q.p
      pair := q.pair }

/-- The operands of a word without isel. -/
def operandsOf (F : Fire) : List Opnd := F.f.pos.map fun q => { iter := q.iter, l := q.l, r := q.r, p := q.p, pair := q.pair }

/-- Whether some operand that the arity requires is BUBBLE (R54). -/
def Opnd.bubble (o : Opnd) (arity : Nat) : Bool :=
  o.l.isNone || (2 ≤ arity && o.r.isNone) || (arity = 3 && o.p.isNone)

/-- The effective predicate (R53). -/
def Opnd.pred (o : Opnd) (arity : Nat) (inv : Bool) : Bool :=
  arity ≠ 3 || (bitOf ((o.p.getD 0).toNat) 0 != inv)

/-! ## Tag operations (R84) -/

/-- Tag of result position `i` from its operand's tag. A BUBBLE at L has no payload for FROM_L and keeps its tag. -/
def tagOut (t : TagOp) (sel : Nat) (imm : BitVec 21) (i : Nat) (it : Iter) (l : Option Val) : Iter :=
  match t with
  | .same => it
  | .inc =>
    let f := if fieldWidth sel 1 = 0 then 0 else 1
    setField sel it f (getField sel it f + 1)
  | .zero => BitVec.ofNat 24 i
  | .fromL => match l with
    | some v => v.extractLsb' 0 24
    | none => it
  | .outer => setField sel it 0 0
  | .fieldSet => setField sel it (imm.toNat / 2 ^ 19) (imm.toNat % 2 ^ 19)

/-! ## Emission -/

/-- A result position: its tag and its value, `none` being BUBBLE. -/
structure Emit where
  iter : Iter
  val  : Option Val
  deriving DecidableEq, Repr

/-- Result positions gathered into runs: consecutive tags, one kind, at most `cap` positions (R48, R84, R130). -/
def runsGo (cap : Nat) : List Emit → List Emit → List (List Emit)
  | [], cur => if cur.isEmpty then [] else [cur.reverse]
  | x :: xs, [] => runsGo cap xs [x]
  | x :: xs, y :: ys =>
    if x.iter = y.iter + 1 ∧ x.val.isNone = y.val.isNone ∧ (y :: ys).length < cap then runsGo cap xs (x :: y :: ys)
    else (y :: ys).reverse :: runsGo cap xs [x]

def runsOf (cap : Nat) (l : List Emit) : List (List Emit) := runsGo cap l []

/-- Positions cut at the multiples of 32. -/
def cut32 : List Emit → List Emit → List (List Emit)
  | [], cur => if cur.isEmpty then [] else [cur.reverse]
  | x :: xs, cur =>
    if x.iter.toNat % 32 = 0 ∧ !cur.isEmpty then cur.reverse :: cut32 xs [x] else cut32 xs (x :: cur)

/-- Runs that also break at multiples of 32, each counted from there (R219, R266, R201). -/
def alignedRuns (cap : Nat) (l : List Emit) : List (List Emit) := (cut32 l []).flatMap (runsOf cap)

def kindCode : Kind → Nat
  | .data => 0 | .scale => 1 | .bubble => 2 | .eos => 3 | .ovf => 4 | .abort => 5

/-- The token header of R47 with a zero check. -/
def headerOf (k : Kind) (len ctx : Nat) (it : Iter) (slot : Nat) (port : Port) (task nd : Bool) : Nat :=
  kindCode k * 2 ^ 61 + (len - 1) % 32 * 2 ^ 56 + ctx % 16 * 2 ^ 52 + it.toNat * 2 ^ 28 + slot % 128 * 2 ^ 21 +
  portIx port * 2 ^ 19 + boolNat task * 2 ^ 18 + boolNat nd * 2 ^ 17

/-- The carried check of a token: header and payload, `words` payload words for each position (R42, R47, R48). -/
def tokenCheck (header words : Nat) (vals : List Val) : BitVec 16 :=
  BitVec.ofNat 16 (crc16 (leBytes 8 header ++ (vals.map fun v => leBytes (4 * words) v.toNat).flatten))

/-- A run as a chimney carries it, with the check that its producer forms (R42, R235): of its header, which names no slot of the other
module, and of each position's value. -/
def frameOf (k : Kind) (ctx : Nat) (it : Iter) (vals : List Val) (nd : Bool) : Frame :=
  { kind := k, ctx := BitVec.ofNat 4 ctx, iter := it, vals := vals, nd := nd
    check := tokenCheck (headerOf k vals.length ctx it 0 .L false nd) 4 vals }

/-- Whether a frame matches its check. -/
def frameIntact (f : Frame) : Bool := f == frameOf f.kind f.ctx.toNat f.iter f.vals f.nd

/-- Payload words of a position of an element format, and of runs of at most `cap` positions (R48). -/
def fmtWords (f : Fmt) : Nat := if f.bits = 64 then 2 else 1
def runWords (cap : Nat) : Nat := if cap = 16 then 2 else if cap = 8 then 4 else 1

/-- A place that a consumer field leads to (R76, R80). -/
structure Dest where
  blk  : Nat
  slot : Nat
  port : Port
  task : Bool
  deriving DecidableEq, Repr

/-- Whether a block's slot holds HNDL. -/
def Block.isHndl (b : Block) (slot : Nat) : Bool := match b.words[slot]? with
  | some w => wordOp w == 0x0B
  | none => false

/-- The destination of consumer `k` (0 or 1) of a word: an edge redirects it to another block (R76). -/
def Charge.dest (c : Charge) (blk slot k : Nat) (x : Consumer) : Option Dest :=
  if x.port = 3 then none
  else
    match c.block? blk with
    | none => none
    | some b =>
      match c.image.edges.find? (fun e =>
        e.extractLsb' 0 32 == b.id && (e.extractLsb' 64 7).toNat == slot && (e.extractLsb' 71 1).toNat == k) with
      | some e =>
        let d := c.image.blocks.findIdx fun d => d.id == e.extractLsb' 32 32
        some { blk := d, slot := x.slot.toNat, port := portOf x.port.toNat, task := bitOf e.toNat 72 }
      | none =>
        some { blk := blk, slot := x.slot.toNat, port := portOf x.port.toNat, task := b.isHndl x.slot.toNat }

/-- A token put in transit toward a place of charge `b` (R49). -/
def State.sendTo (s : State) (b : Nat) (c : Charge) (src : List Nat) (d : Dest) (k : Kind) (it : Iter) (vals : List Val)
    (nd : Bool) (acq : List Rel := []) (words : Nat := 1) : State :=
  match c.block? d.blk with
  | none => s
  | some blk =>
    let h := c.region.getD blk.shape 0
    let e := blk.first + d.slot / 32
    let t : Token :=
      { src := src, bind := b, hearth := h, ce := e, slot := d.slot, port := d.port, kind := k, iter := it, vals := vals,
        words := words, ctx := c.ctx, task := d.task, nd := nd,
        check := tokenCheck (headerOf k vals.length c.ctx it d.slot d.port d.task nd) words vals
        acq := acq, parked := false }
    s.setFab { s.fab with transit := s.fab.transit ++ [t] }

/-- Consumer `k` of word `slot` in block `blk` of charge `b` receives one token. -/
def State.sendCons (s : State) (b blk slot k : Nat) (x : Consumer) (kd : Kind) (it : Iter) (vals : List Val)
    (acq : List Rel := []) (words : Nat := 1) : State :=
  match s.charge? b with
  | none => s
  | some c =>
    match c.dest blk slot k x with
    | none => s
    | some d => s.sendTo b c [0, b, blk, slot, k] d kd it vals false acq words

/-- The kind and payload of a run: a BUBBLE run holds zeros. -/
def State.sendRun (s : State) (b blk slot k : Nat) (x : Consumer) (kd : Kind) (r : List Emit) (words : Nat := 1)
    (acq : List Rel := []) : State :=
  match r with
  | [] => s
  | e :: _ =>
    s.sendCons b blk slot k x (if e.val.isNone then .bubble else kd) e.iter (r.map fun y => y.val.getD 0) acq words

/-- Endpoint code of AG 0 on a track (R199). A token in transit to an AG names the endpoint in place of its CE. -/
def agEnd : Nat := 64

/-- A run that a track carries to AG `n` of hearth `h` (R199, R201). It names no slot. -/
def State.sendAg (s : State) (b : Nat) (c : Charge) (src : List Nat) (h n words : Nat) (r : List Emit) : State :=
  match r with
  | [] => s
  | y :: _ =>
    let k : Kind := if y.val.isNone then .bubble else .data
    let vals := r.map fun z => z.val.getD 0
    s.setFab { s.fab with transit := s.fab.transit ++
      [{ src := src, bind := b, hearth := h, ce := agEnd + n, slot := 0, port := .L, kind := k, iter := y.iter, vals := vals,
         words := words, ctx := c.ctx, task := false, nd := false,
         check := tokenCheck (headerOf k vals.length c.ctx y.iter 0 .L false false) words vals, acq := [], parked := false }] }

/-- Results of word `slot` carried by the tracks that lead from it to an AG. -/
def State.feedTracks (s : State) (b blk slot : Nat) (l : List Emit) : State :=
  match s.charge? b with
  | none => s
  | some c =>
    match c.block? blk with
    | none => s
    | some k =>
      c.image.tracks.foldl (init := s) fun s t =>
        let dend := (t.extractLsb' 24 8).toNat
        if (t.extractLsb' 0 8).toNat = k.shape ∧ (t.extractLsb' 8 8).toNat = k.first + slot / 32 ∧
            (t.extractLsb' 36 7).toNat = slot ∧ 64 ≤ dend ∧ dend < 80 then
          (runsOf 32 l).foldl (fun s r =>
            s.sendAg b c [0, b, blk, slot, 0] (c.region.getD (t.extractLsb' 16 8).toNat 0) (dend - 64) 1 r) s
        else s

/-- Result positions emitted in runs to consumer `k` of a word of charge `b`. Consumer 1's results also feed the tracks
that lead to AGs. -/
def State.sendAll (s : State) (b blk slot k : Nat) (x : Consumer) (cap : Nat) (l : List Emit) (acq : List Rel := []) : State :=
  let s := if k = 0 then s.feedTracks b blk slot l else s
  if x.port = 3 then s else (runsOf cap l).foldl (fun s r => s.sendRun b blk slot k x .data r (runWords cap) acq) s

/-- The same, with runs that break at multiples of 32. -/
def State.sendAligned (s : State) (b blk slot k : Nat) (x : Consumer) (cap : Nat) (l : List Emit)
    (words : Nat := runWords cap) : State :=
  let s := if k = 0 then s.feedTracks b blk slot l else s
  if x.port = 3 then s else (alignedRuns cap l).foldl (fun s r => s.sendRun b blk slot k x .data r words) s

/-- Results of a firing to its word's consumer `k`. -/
def State.emit (s : State) (F : Fire) (k : Nat) (x : Consumer) (cap : Nat) (l : List Emit) : State :=
  s.sendAll F.cc.bind F.cc.block F.slot k x cap l

/-- The same results to both consumers (R130). -/
def State.emitBoth (s : State) (F : Fire) (c1 c2 : Consumer) (cap : Nat) (l : List Emit) : State :=
  (s.emit F 0 c1 cap l).emit F 1 c2 cap l

/-- Runs of one kind to consumer `k`, where a rule forwards a run unchanged (R99, R137, R139, R232). -/
def State.emitKind (s : State) (F : Fire) (k : Nat) (x : Consumer) (kd : Kind) (cap : Nat) (l : List Emit) : State :=
  let s := if k = 0 then s.feedTracks F.cc.bind F.cc.block F.slot l else s
  if x.port = 3 then s
  else (runsOf cap l).foldl (fun s r => s.sendRun F.cc.bind F.cc.block F.slot k x kd r (runWords cap)) s

/-- An EOS that word `slot` has emitted, noted with its tag (R67). -/
def State.noteEos (s : State) (h e c slot : Nat) (it : Iter) : State :=
  s.modCtx h e c fun x => { x with eosOut := Table.put x.eosOut slot it }

/-- One scalar of a firing to consumer `k`. -/
def State.emitOne (s : State) (F : Fire) (k : Nat) (x : Consumer) (it : Iter) (v : Option Val) : State :=
  s.emit F k x 1 [{ iter := it, val := v }]

/-- The firing's first tag. -/
def Fire.tag0 (F : Fire) : Iter := match F.f.pos with
  | [] => 0
  | q :: _ => q.iter

/-- The operands of port L as they came. -/
def Fire.runL (F : Fire) : List Emit := F.f.pos.map fun q => { iter := q.iter, val := q.l }
def Fire.runR (F : Fire) : List Emit := F.f.pos.map fun q => { iter := q.iter, val := q.r }

/-! ## Consumers in a raw word -/

def rawCons (w : BitVec 64) (k : Nat) : Consumer := decodeCons (field w (if k = 0 then 38 else 29) 9)

/-- The word of a block's slot in a context. -/
def State.wordAt (s : State) (h e c slot : Nat) : Option (BitVec 64) :=
  match s.ctx? h e c with
  | some cc => (Table.get? (s.ce h e).slots (cc.base + slot % 32)).map (·.word)
  | none => none

/-- A fault of the firing itself: unit 0, the word's slot and a tag (R351). -/
def State.fireFault (s : State) (F : Fire) (code : Nat) (it : Iter) (detail : List Nat) : State :=
  s.raiseFault F.cc.bind { s.faultRec F.cc.bind code F.hearth with
    tag := faultTag F.ctx it, block := F.blk.id, slot := F.slot, ce := F.ce, unit := 0, detail := detail }

end Sys2Proof.Machine
end

