-- ==== Sys2Proof/Machine/Frame.lean ====
section
/-!
DEFINITION. Sys2Proof/Machine/Frame.lean: context frames (R368): their layout, their place in CTX_POOL, and writes to them: the header,
the extent list (R306), the bubble list (R358), the trip logs (R359) and the inbox tokens (R69).
-/

namespace Sys2Proof.Machine

/-- Slot of a block's loop header (R79). -/
def Block.loopSlot (b : Block) : Nat := b.words.findIdx fun w => wordOp w == 0x10 || wordOp w == 0x11

/-- The CE that holds the block's loop header. -/
def Block.loopCe (b : Block) : Nat := b.first + b.loopSlot / 32

/-- Words of an image. -/
def Image.wordCount (m : Image) : Nat := (m.blocks.map fun b => b.words.length).sum

/-- LAYOUT OF A CONTEXT FRAME (R368; assumption entry 60): header and directory in the first 4 KiB, the occupancy map (R347), the
bubble list of at most 4,096 records (R358), a trip log of 4,096 records for each block with a loop header (R359), and the hearths' records
in shape order. The extent list and the inbox tokens stand in frames of their own. -/
def Image.mapAt (_ : Image) : Nat := 4096

/-- Bytes of the longest occupancy map: a header and one record for each word. -/
def Image.mapRoom (m : Image) : Nat := 64 + 16 * m.wordCount

def Image.bubbleAt (m : Image) : Nat := m.mapAt + m.mapRoom

/-- Bytes of the record of shape hearth `k` whose form the spec gives: instruction slots, parameter registers, tiles and scratchpad
allocation (R369). -/
def Image.recordLength (m : Image) (k : Nat) : Nat :=
  let bs := m.blocks.filter fun b => b.shape == k
  8 * (bs.map fun b => b.words.length).sum + 256 * (bs.map Block.span).sum +
  4096 * (m.tiles.filter fun t => bitsOf t.toNat 7 0 == k).length +
  4096 * m.allocFrames

/-- Offset of the trip log of the block at position `k` (R359). -/
def Image.tripAt (m : Image) (k : Nat) : Nat :=
  m.bubbleAt + 65536 + 65536 * ((m.blocks.take k).filter fun b => b.loopSlot < b.words.length).length

/-- Offset of the record of shape hearth `k`. -/
def Image.recordAt (m : Image) (k : Nat) : Nat :=
  m.tripAt m.blocks.length + ((List.range k).map m.recordLength).sum

/-- 64 KiB frames that a charge's context frame needs. -/
def framesNeeded (m : Image) : Nat := (m.recordAt m.shape.length + 65535) / 65536

/-- Machine address of byte `x` of a charge's context frame. -/
def Charge.frameAt (c : Charge) (x : Nat) : Nat := c.ctxFrames.getD (x / 65536) 0 + x % 65536

/-- Bytes written at offset `x` of a list of 64 KiB frames, frame by frame; beyond its last frame nothing is. -/
def State.putFrames (s : State) (l : List Nat) (x : Nat) (bs : List Byte) : State :=
  (List.range ((x + bs.length + 65535) / 65536 - x / 65536)).foldl (init := s) fun s i =>
    let lo := max x ((x / 65536 + i) * 65536)
    let hi := min (x + bs.length) ((x / 65536 + i + 1) * 65536)
    match l[x / 65536 + i]? with
    | some ma => s.stokerStore (ma + lo % 65536) ((bs.drop (lo - x)).take (hi - lo))
    | none => s

/-- Bytes written at offset `x` of a charge's context frame. -/
def State.putFrame (s : State) (c : Charge) (x : Nat) (bs : List Byte) : State := s.putFrames c.ctxFrames x bs

/-- Context frames given back to CTX_POOL, the last taken first (R368). -/
def State.freeContextFrames (s : State) (l : List Nat) : State :=
  l.foldr (init := s) fun ma s =>
    match s.poolGive s.adm.ctxPool (ma / 65536) with
    | some (s, p) => s.setAdm { s.adm with ctxPool := p }
    | none => s

/-- `n` context frames taken from CTX_POOL: their addresses in order (R368). -/
def State.takeContextFrames (s : State) : Nat → Option (List Nat × State)
  | 0 => some ([], s)
  | n + 1 =>
    match s.poolTake s.adm.ctxPool with
    | none => none
    | some (f, p) =>
      match (s.setAdm { s.adm with ctxPool := p }).takeContextFrames n with
      | some (l, s) => some (f * 65536 :: l, s)
      | none => none

/-- A growing part of a context frame with frames for `n` bytes: what it lacks is taken from CTX_POOL, nothing where the pool does not hold
that many. -/
def State.growFrames (s : State) (l : List Nat) (n : Nat) : List Nat × State :=
  match s.takeContextFrames ((n + 65535) / 65536 - l.length) with
  | some (m, s) => (l ++ m, s)
  | none => (l, s)

/-! ## The header (R368) -/

/-- The 64 bytes of the header of a charge's context frame. -/
def Charge.headerBytes (c : Charge) : List Byte :=
  leBytes 4 0x4A4B4346 ++ leBytes 2 1 ++ leBytes 1 c.ctx ++ leBytes 1 c.image.cid.toNat ++ leBytes 2 c.region.length ++
    leBytes 2 c.bubbles.length ++ leBytes 4 c.inbox.length ++ leBytes 8 c.imageMa ++ leBytes 8 c.listEntry.toNat ++
    leBytes 4 (c.holds + c.bubbleHolds) ++ leBytes 4 c.pass ++ List.replicate 24 0

/-- Directory of a context frame: offset and length of each hearth's record, in shape order. -/
def frameDirectory (m : Image) : List Byte :=
  ((List.range m.shape.length).map fun k => leBytes 8 (m.recordAt k) ++ leBytes 8 (m.recordLength k)).flatten

/-- Header and directory written. -/
def State.writeFrame (s : State) (c : Charge) : State := s.putFrame c 0 (c.headerBytes ++ frameDirectory c.image)

/-- The header of charge `b` brought up to date: its bubbles, inbox tokens, holds and repair passes. -/
def State.putHeader (s : State) (b : Nat) : State :=
  match s.charge? b with
  | some c => s.putFrame c 0 c.headerBytes
  | none => s

/-! ## The extent list (R306) -/

/-- The 32 bytes of an extent in the list (assumption entry 60). -/
def Extent.bytes (x : Extent) : List Byte :=
  leBytes 8 x.vpage ++ leBytes 4 x.pages ++ leBytes 1 x.region ++
  leBytes 2 (x.tier.toNat + 4 * boolNat x.moving + 8 * boolNat x.watched + 16 * boolNat x.ember + 32 * boolNat x.xs +
    64 * boolNat x.rd + 128 * boolNat x.wr + 256 * boolNat x.rdS + 512 * boolNat x.wrS) ++
  leBytes 1 (match x.fault with | some (f, w) => walkCode f + 128 * boolNat w | none => 0) ++
  leBytes 8 x.frame ++ leBytes 8 x.ppage

/-- The extents of charge `b` beyond its table written to the list. -/
def State.putExtents (s : State) (b : Nat) : State :=
  match s.charge? b with
  | none => s
  | some c =>
    if c.ctxFrames = [] ∨ c.extentList = [] then s
    else
      let (l, s) := s.growFrames c.extFrames (32 * c.extentList.length)
      (s.modCharge b fun c => { c with extFrames := l }).putFrames l 0 (c.extentList.flatMap Extent.bytes)

/-! ## Inbox tokens (R69) -/

/-- The 256 bytes of a token in the inbox of a context frame, laid out as a record of the injection window is (R188): header, payload words,
zeros. -/
def Token.bytes (t : Token) : List Byte :=
  let l := leBytes 8 (headerOf t.kind t.vals.length t.ctx t.iter t.slot t.port t.task t.nd + t.check.toNat) ++
    t.vals.flatMap fun v => leBytes (4 * t.words) v.toNat
  l ++ List.replicate (256 - l.length) 0

/-- Tokens added to the context frame of charge `b`, which is swapped out (R69). -/
def State.addInbox (s : State) (b : Nat) (l : List Token) : State :=
  match s.charge? b with
  | none => s
  | some c =>
    let n := c.inbox.length
    let (fs, s) := if c.ctxFrames = [] then (c.inboxFrames, s) else s.growFrames c.inboxFrames (256 * (n + l.length))
    let s := s.modCharge b fun c => { c with inbox := c.inbox ++ l, inboxFrames := fs }
    (s.putFrames fs (256 * n) (l.flatMap Token.bytes)).putHeader b

/-! ## The trip logs (R359) -/

/-- The 16 bytes of a record of a trip log. -/
def TripLog.bytes (x : TripLog) : List Byte :=
  leBytes 4 x.first.toNat ++ leBytes 4 x.n ++ leBytes 4 x.issued ++ leBytes 4 0

/-- The record of the trip that a header has started last, the `trips`-th of the block at position `k`, written to the log, which holds the
4,096 most recent ones. -/
def State.putTrip (s : State) (c : Charge) (k trips : Nat) (log : List TripLog) : State :=
  match log.getLast? with
  | some x => s.putFrame c (c.image.tripAt k + 16 * ((trips - 1) % 4096)) x.bytes
  | none => s

/-! ## The bubble list (R358) -/

/-- The 16 bytes of a record of the bubble list (R358). -/
def Bubble.bytes (x : Bubble) : List Byte :=
  leBytes 4 x.block.toNat ++ leBytes 1 x.slot ++ leBytes 1 x.code ++ leBytes 2 0 ++ leBytes 4 x.iter.toNat ++ leBytes 4 x.elem.toNat

/-- The next record of charge `c`'s bubble list written to its context frame (R358). -/
def State.putBubble (s : State) (c : Charge) (x : Bubble) : State :=
  s.putFrame c (c.image.bubbleAt + 16 * c.bubbles.length) x.bytes

end Sys2Proof.Machine
end

