-- ==== Sys2Proof/Machine/Flags.lean ====
section
/-!
DEFINITION. Sys2Proof/Machine/Flags.lean: the flag file of a context in a CE (R122, R123) and the common shapes of
element firings (R128 to R130, R179).
-/

namespace Sys2Proof.Machine

/-- One result position: tag, value, and the flags it raises. -/
structure Res where
  iter  : Iter
  val   : Option Val
  flags : Flags
  deriving DecidableEq, Repr

def Res.emit (r : Res) : Emit := { iter := r.iter, val := r.val }

/-- A flag file with `f` ORed into the entry of `it` (R122). -/
def orFlag (file : List Flags) (it : Iter) (f : Flags) : List Flags := modifyAt file (it.toNat % 32) fun x => x ||| f

/-- The flags of a firing's positions, ORed into their entries as it completes (R123). -/
def State.addFlags (s : State) (h e c : Nat) (nf : Bool) (rs : List Res) : State :=
  if nf then s
  else s.modCtx h e c fun x => { x with flags := rs.foldl (fun file r => orFlag file r.iter r.flags) x.flags }

/-- The flags that the entry which a matrix context has finished raises, ORed into the entries of its charge's context (R255). -/
def State.finishFlags (s : State) (h e c : Nat) (second : Bool) : State :=
  let m := (s.ce h e).mx second
  if m.pend.isEmpty ∨ s.cycle < m.until_ then s
  else (s.modCtx h e c fun x => { x with flags := m.pend.foldl (fun file (n, f) => orFlag file (BitVec.ofNat 24 n) f) x.flags }).modCe h e
    fun x => x.setMx second { x.mx second with pend := [] }

/-- The same for the matrix contexts that serve charge `b`. -/
def State.settleFlags (s : State) (h e c b : Nat) : State :=
  [false, true].foldl (fun s m => if ((s.ce h e).mx m).owner = some b then s.finishFlags h e c m else s) s

/-- The positions of an elementwise firing (R130): BUBBLE first, then the predicate, then the operation. -/
def elemResults (w : WordA) (sel : Nat) (out : Fmt) (op : Opnd → Nat × Flags) (os : List Opnd) : List Res :=
  os.zipIdx.map fun (o, i) =>
    let it := tagOut w.tagop sel w.imm i o.iter o.l
    if o.bubble w.arity.toNat then { iter := it, val := none, flags := 0 }
    else if !(o.pred w.arity.toNat w.inv) then { iter := it, val := o.l, flags := 0 }
    else
      let r := op o
      { iter := it, val := some (mkVal out r.1), flags := r.2 }

/-- An elementwise firing with given operands (R130): the same results to both consumers. -/
def elementwiseWith (w : WordA) (out : Fmt) (os : State → Fire → List Opnd) (op : State → Fire → Opnd → Nat × Flags)
    (s : State) : Option State :=
  match startFiring s with
  | none => none
  | some (F, s) =>
    let rs := elemResults w F.tagsel out (op s F) (os s F)
    some ((s.addFlags F.hearth F.ce F.ctx w.nf rs).emitBoth F w.cons1 w.cons2 out.maxRun (rs.map Res.emit))

/-- An elementwise firing whose operands follow isel (R83). -/
def elementwise (w : WordA) (out : Fmt) (op : State → Fire → Opnd → Nat × Flags) (s : State) : Option State :=
  elementwiseWith w out (fun s F => s.operandsA F w.fmt w.isel w.imm) op s

/-- An elementwise integer operation on exact integers, wrapped or clamped (R148, R120). -/
def intElem (w : WordA) (e : Int → Int → Int) (s : State) : Option State :=
  elementwise w w.fmt (fun _ _ o =>
    (deliverInt w.fmt.isSigned w.sat w.fmt.bits (e (fmtInt w.fmt (o.l.getD 0)) (fmtInt w.fmt (o.r.getD 0))), 0)) s

/-- The same with the sub-element split of R153: each part of `g` bits on its own. -/
def subParts (mode : Nat) : Nat := if mode = 1 then 8 else 16

def splitOp (g : Nat) (op : Nat → Nat → Nat) (a b : Nat) : Nat :=
  (List.range (32 / g)).foldl (fun acc k =>
    acc + op (a / 2 ^ (g * k) % 2 ^ g) (b / 2 ^ (g * k) % 2 ^ g) % 2 ^ g * 2 ^ (g * k)) 0

/-- An operation on bits of width `g` applied whole, or to each sub-element (R153). -/
def subElem (w : WordA) (op : (g : Nat) → Nat → Nat → Nat) (s : State) : Option State :=
  elementwise w w.fmt (fun _ _ o =>
    let a := elemBits w.fmt (o.l.getD 0)
    let b := elemBits w.fmt (o.r.getD 0)
    (if w.mode = 0 then op w.fmt.bits a b else splitOp (subParts w.mode.toNat) (op (subParts w.mode.toNat)) a b, 0)) s

/-- An exact integer operation of R148 under R153. -/
def subInt (w : WordA) (e : Int → Int → Int) (s : State) : Option State :=
  subElem w (fun g a b =>
    deliverInt w.fmt.isSigned w.sat g (e (intOf w.fmt.isSigned g a) (intOf w.fmt.isSigned g b))) s

/-- A floating operation on two operands (R162), under the block's policy. -/
def fltElem (w : WordA) (op : Policy → FVal → FVal → Nat × Flags) (s : State) : Option State :=
  elementwise w w.fmt (fun _ F o =>
    op F.policy (readFlt F.policy w.fmt (o.l.getD 0)) (readFlt F.policy w.fmt (o.r.getD 0))) s

/-- A floating operation on one operand. -/
def fltUnary (w : WordA) (op : Policy → FVal → Nat × Flags) (s : State) : Option State :=
  fltElem w (fun p a _ => op p a) s

/-- A sum in the fixed binary tree of R125: each node combines two neighbours, an odd last one passes unchanged. -/
def treeLevel {α : Type} (f : α → α → α) : List α → List α
  | a :: b :: rest => f a b :: treeLevel f rest
  | l => l

def treeFold {α : Type} (f : α → α → α) : Nat → List α → Option α
  | _, [] => none
  | _, [a] => some a
  | 0, a :: _ => some a
  | n + 1, l => treeFold f n (treeLevel f l)

/-- A reduction of a firing to one scalar with position 0's tag (R179): any BUBBLE makes it BUBBLE. -/
def reduceFiring (w : WordA) (out : Fmt) (op : Fire → List Val → Nat × Flags) (s : State) : Option State :=
  match startFiring s with
  | none => none
  | some (F, s) =>
    let l0 := match F.f.pos with | [] => none | q :: _ => q.l
    let it := tagOut w.tagop F.tagsel w.imm 0 F.tag0 l0
    let r : Res :=
      if F.f.pos.any (fun q => q.l.isNone) then { iter := it, val := none, flags := 0 }
      else
        let x := op F (F.f.pos.map fun q => q.l.getD 0)
        { iter := it, val := some (mkVal out x.1), flags := x.2 }
    some ((s.addFlags F.hearth F.ce F.ctx w.nf [r]).emitBoth F w.cons1 w.cons2 out.maxRun [r.emit])

end Sys2Proof.Machine
end

