-- ==== Sys2Proof/Machine/Arbiter.lean ====
section
/-!
DEFINITION. Sys2Proof/Machine/Arbiter.lean: the order of a context's ready firings (R70, R246), the turns of the contexts of a CE (R71)
and the bellows' limit on its starts (R34), handler bodies (R139), matrix contexts (R241), and the streams of a hearth (R204).
-/

namespace Sys2Proof.Machine

/-! ## Starts of a CE (R34, R70, R71) -/

/-- Whether a stove's rate of `n` sixteenths allows a start in this cycle (R34). -/
def State.rateAllows (s : State) (n : Nat) : Bool := s.cycle % 16 < n

/-- A CE that can start a firing in this cycle: none has started yet, and no handler run holds it (R70). -/
def State.ceFree (s : State) (h e : Nat) : Bool :=
  (s.ce h e).lastStart != some s.cycle && (s.ce h e).busyUntil ≤ s.cycle

/-- The same, where the stove's limit on firing starts allows one (R34). -/
def State.mayStart (s : State) (h e : Nat) : Bool := s.ceFree h e && s.rateAllows (s.stove (stoveOf h)).startRate

/-- Share of the charge that holds context `c` of a CE (R71). -/
def State.shareOf (s : State) (h e c : Nat) : Nat := ((s.ctx? h e c).map fun cc => (s.bindRec cc.bind).share.toNat).getD 1

/-- What is left of the turn after a start of context `c` (R71): its turn goes on, or begins. -/
def State.turnAfter (s : State) (h e c : Nat) : Nat :=
  if (s.ce h e).turnLeft ≠ 0 ∧ (s.ce h e).turnCtx = c then (s.ce h e).turnLeft - 1 else s.shareOf h e c - 1

/-- A start of context `c` noted at its CE: the cycle, how long it holds the CE, and the turn (R70, R71). -/
def State.takeTurn (s : State) (h e c len : Nat) : State :=
  s.modCe h e fun x =>
    { x with lastStart := some s.cycle, busyUntil := s.cycle + len, turnCtx := c, turnLeft := s.turnAfter h e c }

/-- The same, noted at its charge too (R347). -/
def State.noteStart (s : State) (h e c b len : Nat) : State :=
  (s.takeTurn h e c len).modCharge b fun x => { x with lastActive := s.cycle }

/-! ## Firings of a context (R70, R246) -/

/-- Whether the slot of a firing holds HNDL. -/
def State.isHandler (s : State) (h e c : Nat) (f : Firing) : Bool :=
  match s.wordAt h e c f.slot with
  | some w => wordOp w == 0x0B
  | none => false

def Firing.tag (f : Firing) : Iter := match f.pos with | [] => 0 | q :: _ => q.iter

/-- Whether firing `f` goes before `g`: older tag, then lower slot (R70). -/
def Firing.before (f g : Firing) : Bool := older f.tag g.tag || (f.tag == g.tag && f.slot < g.slot)

/-- The firing that goes first of a list. -/
def firstFiring : List Firing → Option Firing
  | [] => none
  | f :: rest => match firstFiring rest with
    | none => some f
    | some g => if g.before f then some g else some f

/-- Whether a handler slot's firing must wait for an earlier waking run of its slot (R246). -/
def heldByOrder (handler : Bool) (ready : List Firing) (f : Firing) : Bool :=
  handler && ready.any fun g => g.slot == f.slot && g.stamp < f.stamp

/-- Matrix words in the body of the handler at `slot` (R139, R245). -/
def Block.bodyWords (b : Block) (slot : Nat) : List (Nat × BitVec 64) :=
  match b.words[slot]? with
  | some w => (List.range (bitsOf w.toNat 2 0)).filterMap fun k =>
      (b.words[slot + 1 + k]?).bind fun x => if wordOp x = 0 then none else some (slot + 1 + k, x)
  | none => []

/-- Slots that a handler run takes, HNDL's own among them (R139). -/
def handlerLength (w : BitVec 64) : Nat := bitsOf w.toNat 2 0 + 1

/-- The matrix context that serves charge `b` in a CE: 0, 1, or none (R241). -/
def Ce.mxOf (x : Ce) (b : Nat) : Option Bool :=
  if x.mx0.owner = some b then some false else if x.mx1.owner = some b then some true else none

def matrixQueueSize : Nat := 16

/-- Entry of a pilot route in an image (R203). -/
def Image.route? (m : Image) (n : Nat) : Option (BitVec 128) := m.pilots.find? fun e => (e.extractLsb' 8 8).toNat == n

/-- Hearth to which a route's pilots go, where its unit is an AG or an MT: the streams that R204 counts. -/
def Charge.streamHearth (c : Charge) (n : Nat) : Option Nat :=
  (c.image.route? n).bind fun e =>
    if (e.extractLsb' 38 2).toNat ≤ 1 then some (c.region.getD (e.extractLsb' 30 8).toNat 0) else none

/-- Streams of programs: one running until its done pilot, and one for each pending start. -/
def streamsOf (l : Table ChainSt) : Nat := (l.map fun (_, g) => boolNat (g.running && !g.ended) + g.pending).sum

/-- Streams and copies outstanding on a hearth (R204): a stream is so from its start, whose pilot may still be on its way. -/
def State.streams (s : State) (h : Nat) : Nat :=
  streamsOf (s.hearth h).ags + streamsOf (s.hearth h).mts + (s.fab.copies.filter fun c => c.hearth == h).length +
  (s.fab.pilots.filter fun p => ((s.charge? p.bind).bind fun c => c.streamHearth p.route) == some h).length

end Sys2Proof.Machine
end

