-- ==== Sys2Proof/Machine/Token.lean ====
section
/-!
DEFINITION. Sys2Proof/Machine/Token.lean: the token and control instructions (R132 to R139) as firings. HNDL's body goes to
the matrix queue (R245).
-/

namespace Sys2Proof.Machine

/-- The tag that a position of the firing receives under the word's tag operation (R84). -/
def Fire.tagA (F : Fire) (w : WordA) (i : Nat) (q : FPos) : Iter := tagOut w.tagop F.tagsel w.imm i q.iter q.l

/-- Whether a position has a BUBBLE operand at L or R (R54). -/
def FPos.bubble2 (q : FPos) : Bool := q.l.isNone || q.r.isNone

/-- A firing whose positions become two lists of results, one for each consumer. -/
def twoLists (w : WordA) (out1 out2 : Fmt) (res : Fire → State → List Emit × List Emit) (s : State) : Option State :=
  match startFiring s with
  | none => none
  | some (F, s) =>
    let r := res F s
    some ((s.emit F 0 w.cons1 out1.maxRun r.1).emit F 1 w.cons2 out2.maxRun r.2)

/-- A firing that consumes its operands and emits nothing (R133). -/
def consume (s : State) : Option State := (startFiring s).map fun x => x.2

/-- CONST's value: imm read under R85, or a parameter group (R134). -/
def constVal (w : WordA) (F : Fire) (s : State) : Val :=
  if w.isel = 3 then s.paramVal F (w.imm.toNat % 64) w.fmt.bits else immVal w.fmt w.imm

/-- CONST (R134): the value at every trigger position; a BUBBLE position stays BUBBLE (R54). -/
def constFiring (w : WordA) (s : State) : Option State :=
  twoLists w w.fmt w.fmt (fun F s =>
    let v := constVal w F s
    let l := F.f.pos.zipIdx.map fun (q, i) => { iter := F.tagA w i q, val := q.l.map fun _ => v : Emit }
    (l, l)) s

/-- DUP (R135): the whole value goes on, the bits above the word's format with it, as at every word that forwards one (DESIGN CHOICE,
assumption entry 107). -/
def dupFiring (w : WordA) (s : State) : Option State :=
  twoLists w w.fmt w.fmt (fun F _ =>
    let l := F.f.pos.zipIdx.map fun (q, i) => { iter := F.tagA w i q, val := q.l : Emit }
    (l, l)) s

/-- SYNC (R135): L's positions to consumer 1 and R's to consumer 2; where either operand is BUBBLE both results are
(R54). -/
def syncFiring (w : WordA) (s : State) : Option State :=
  twoLists w w.fmt w.fmt (fun F _ =>
    let pos := F.f.pos.zipIdx
    (pos.map fun (q, i) => { iter := F.tagA w i q, val := if q.bubble2 then none else q.l : Emit },
     pos.map fun (q, i) => { iter := F.tagA w i q, val := if q.bubble2 then none else q.r : Emit })) s

/-- What a control position does with its L operand (R136): `none` discards it, otherwise the side and the value. -/
def control (steer : Bool) (q : FPos) : Option (Bool × Option Val) :=
  match q.r with
  | none => some (true, none)
  | some v => if bitOf v.toNat 0 then some (true, q.l) else if steer then some (false, q.l) else none

/-- The positions that go to one side. -/
def controlSide (w : WordA) (F : Fire) (steer side : Bool) : List Emit :=
  F.f.pos.zipIdx.filterMap fun (q, i) =>
    match control steer q with
    | some (t, v) => if t = side then some { iter := F.tagA w i q, val := v } else none
    | none => none

/-- STEER (R136). -/
def steerFiring (w : WordA) (s : State) : Option State :=
  twoLists w w.fmt w.fmt (fun F _ => (controlSide w F true true, controlSide w F true false)) s

/-- GATE (R136). -/
def gateFiring (w : WordA) (s : State) : Option State :=
  twoLists w w.fmt w.fmt (fun F _ => (controlSide w F false true, controlSide w F false true)) s

/-- MERGE (R137): the run that arrived, its tag operation apart, to both consumers. -/
def mergeFiring (w : WordA) (s : State) : Option State :=
  match startFiring s with
  | none => none
  | some (F, s) =>
    let l := F.f.pos.zipIdx.map fun (q, i) => { iter := F.tagA w i q, val := q.l : Emit }
    some ((s.emitKind F 0 w.cons1 F.f.kind w.fmt.maxRun l).emitKind F 1 w.cons2 F.f.kind w.fmt.maxRun l)

/-- EOS (R138): one EOS token with the tag of position 0. -/
def eosFiring (w : WordA) (s : State) : Option State :=
  match startFiring s with
  | none => none
  | some (F, s) =>
    let it := match F.f.pos with
      | [] => 0
      | q :: _ => F.tagA w 0 q
    some (((s.sendCons F.cc.bind F.cc.block F.slot 0 w.cons1 .eos it [0]).sendCons F.cc.bind F.cc.block F.slot 1 w.cons2
      .eos it [0]).noteEos F.hearth F.ce F.ctx F.slot it)

/-- ISBUB (R138): 1 where L is BUBBLE; L unchanged at consumer 2. -/
def isbubFiring (w : WordA) (s : State) : Option State :=
  twoLists w .b1 w.fmt (fun F _ =>
    let pos := F.f.pos.zipIdx
    (pos.map fun (q, i) => { iter := F.tagA w i q, val := some (if q.l.isNone then 1 else 0) : Emit },
     pos.map fun (q, i) => { iter := F.tagA w i q, val := q.l : Emit })) s

/-- TRIG (R138): the number of positions that are not BUBBLE. -/
def trigFiring (w : WordA) (s : State) : Option State :=
  twoLists w .n32 .n32 (fun F _ =>
    let n := (F.f.pos.filter fun q => q.l.isSome).length
    let it := match F.f.pos with
      | [] => 0
      | q :: _ => F.tagA w 0 q
    let l : List Emit := [{ iter := it, val := some (BitVec.ofNat 128 n) }]
    (l, l)) s

/-- The two parameters of MGATH that a handler run captures (R251). -/
def capturePair (s : State) (F : Fire) (x : BitVec 64) : BitVec 32 × BitVec 32 :=
  let g := bitsOf x.toNat 15 10
  (BitVec.ofNat 32 (s.param F.hearth F.ce F.ctx g 32), BitVec.ofNat 32 (s.param F.hearth F.ce F.ctx (g + 1) 32))

/-- The word of a handler's body that captures scales, if one does (R256). -/
def Block.capture? (b : Block) (slot : Nat) : Option (BitVec 64) :=
  ((b.bodyWords slot).find? fun (_, x) => bitsOf x.toNat 23 22 ≠ 0).map (·.2)

/-- The entry of a captured scale (R256): e8 from bits [7:0] of the payload, bf16 from bits [15:0]. -/
def Fire.scaleEntry (F : Fire) : QEntry :=
  let v := match F.f.pos with
    | [] => 0
    | q :: _ => (q.l.getD 0).toNat
  match F.blk.capture? F.slot with
  | some x =>
    .scale F.slot (wordOp x == 0xA3) F.tag0 (BitVec.ofNat 16 (if bitsOf x.toNat 23 22 = 1 then v % 256 else v))
  | none => .scale F.slot false F.tag0 (BitVec.ofNat 16 v)

/-- HNDL (R139, R245): every matrix word of the body appends one entry to the charge's matrix queue; then the waking run
goes to HNDL's consumers with task bit 0. It waits while the queue has too few free entries. A captured SCALE token in the slot's arrival order appends a scale entry and is
forwarded to nobody (R256). A tag operation is refused at load (DESIGN CHOICE, assumption entry 101), so none is applied here. -/
def hndlFiring (w : WordA) (s : State) : Option State :=
  match startFiring s with
  | none => none
  | some (F, s) =>
    let second := ((s.ce F.hearth F.ce).mxOf F.cc.bind).getD false
    let entries : List QEntry :=
      if F.f.kind = .scale then [F.scaleEntry]
      else (F.blk.bodyWords F.slot).map fun (slot, x) =>
        let p := capturePair s F x
        .word slot F.slot F.f.pos p.1 p.2 F.ch.epoch s.cycle
    if matrixQueueSize < ((s.ce F.hearth F.ce).mx second).queue.length + entries.length then none else
    let s := s.modCe F.hearth F.ce fun ce =>
      ce.setMx second { ce.mx second with queue := (ce.mx second).queue ++ entries }
    if F.f.kind = .scale then some s
    else some ((s.emitKind F 0 w.cons1 F.f.kind w.fmt.maxRun F.runL).emitKind F 1 w.cons2 F.f.kind w.fmt.maxRun F.runL)

/-! ## Meanings -/

/-- NOP (R133). -/
def execNop (_w : WordA) (s : State) : Host.Outcome State Fault Refusal := finish s (consume s)

/-- CONST (R134). -/
def execConst (w : WordA) (s : State) : Host.Outcome State Fault Refusal := finish s (constFiring w s)

/-- DUP (R135). -/
def execDup (w : WordA) (s : State) : Host.Outcome State Fault Refusal := finish s (dupFiring w s)

/-- STEER (R136). -/
def execSteer (w : WordA) (s : State) : Host.Outcome State Fault Refusal := finish s (steerFiring w s)

/-- MERGE (R137). -/
def execMerge (w : WordA) (s : State) : Host.Outcome State Fault Refusal := finish s (mergeFiring w s)

/-- GATE (R136). -/
def execGate (w : WordA) (s : State) : Host.Outcome State Fault Refusal := finish s (gateFiring w s)

/-- SYNC (R135). -/
def execSync (w : WordA) (s : State) : Host.Outcome State Fault Refusal := finish s (syncFiring w s)

/-- SINK (R133). -/
def execSink (_w : WordA) (s : State) : Host.Outcome State Fault Refusal := finish s (consume s)

/-- EOS (R138). -/
def execEos (w : WordA) (s : State) : Host.Outcome State Fault Refusal := finish s (eosFiring w s)

/-- ISBUB (R138). -/
def execIsbub (w : WordA) (s : State) : Host.Outcome State Fault Refusal := finish s (isbubFiring w s)

/-- TRIG (R138). -/
def execTrig (w : WordA) (s : State) : Host.Outcome State Fault Refusal := finish s (trigFiring w s)

/-- HNDL (R139). -/
def execHndl (w : WordA) (s : State) : Host.Outcome State Fault Refusal := finish s (hndlFiring w s)

end Sys2Proof.Machine
end

