-- ==== Sys2Proof/Machine/Loop.lean ====
section
/-!
DEFINITION. Sys2Proof/Machine/Loop.lean: loops, tags and scans (R140 to R146) and the issue of a loop's iterations (R63, R64,
R141, R359).
-/

namespace Sys2Proof.Machine

/-- The value operand of a format B word at a position (R131): of an R token the element's bits, read unsigned in every format (DESIGN
CHOICE, assumption entry 107). -/
def valueB (w : WordB) (F : Fire) (s : State) (q : FPos) : Option Val :=
  if w.isel = 2 then some (BitVec.ofNat 128 w.imm.toNat)
  else if w.isel = 3 then some (s.paramVal F (w.imm.toNat % 64) 32)
  else q.r.map fun v => BitVec.ofNat 128 (elemBits w.fmt v)

/-- The state of the loop header of the firing's block. -/
def State.loopOf (s : State) (F : Fire) : LoopSt :=
  match s.ctx? F.hearth F.blk.loopCe F.ctx with
  | some cc => cc.loop
  | none => .reset

def State.setLoop (s : State) (F : Fire) (l : LoopSt) : State :=
  s.modCtx F.hearth F.blk.loopCe F.ctx fun cc => { cc with loop := l }

/-- Trips queued by a firing, one for each position that is not BUBBLE (R141). -/
def queueTrips (n : Fire → State → FPos → Option Nat) (s : State) : Option State :=
  match startFiring s with
  | none => none
  | some (F, s) =>
    let trips := F.f.pos.filterMap fun q => (n F s q).map fun k => { n := k, j := 0 : Trip }
    let l := s.loopOf F
    some (s.setLoop F { l with queue := l.queue ++ trips })

/-- LOOP (R141): the trip length is the value operand. A position whose count is BUBBLE queues no trip, as one whose trigger is (DESIGN
CHOICE, assumption entry 109). -/
def loopFiring (w : WordB) (s : State) : Option State :=
  queueTrips (fun F s q => if q.l.isNone then none else (valueB w F s q).map fun v => v.toNat % 2 ^ 32) s

/-- LOOPD (R64, R141): the trip length is max_iter. -/
def loopdFiring (_w : WordB) (s : State) : Option State :=
  queueTrips (fun F _ q => if q.l.isNone then none else some F.blk.maxIter) s

/-- Iterations retired by `n` positions (R142). -/
def retire (l : LoopSt) (n : Nat) : LoopSt := { l with out := l.out - n }

/-- The first position that finds out already zero (R142). -/
def Fire.overRetired (F : Fire) (out : Nat) : Option Iter := (F.f.pos[out]?).map (·.iter)

/-- LEXIT (R142). -/
def lexitFiring (w : WordB) (s : State) : Option State :=
  match startFiring s with
  | none => none
  | some (F, s) =>
    let l := s.loopOf F
    let lost := F.overRetired l.out
    let res : List Emit := F.f.pos.filterMap fun q =>
      if q.l.isNone || (w.arity = 2 && q.r.isNone) then some { iter := q.iter, val := none }
      else if w.arity = 2 && !(bitOf (q.r.getD 0).toNat 0) then none
      else some { iter := q.iter, val := q.l }
    let s := (s.setLoop F (retire l F.f.pos.length)).emitBoth F w.cons1 w.cons2 w.fmt.maxRun res
    match lost with
    | some it => some (s.fireFault F 0x12 it [])
    | none => some s

/-- How TCHK sorts a position (R143): `none` matches or is BUBBLE, otherwise the field value that differs. -/
def tchkDiffers (w : WordB) (F : Fire) (s : State) (q : FPos) : Option Nat :=
  match q.l, valueB w F s q with
  | some _, some v =>
    let fv := getField F.tagsel q.iter w.fsel.toNat
    if fv = v.toNat then none else some fv
  | _, _ => none

/-- TCHK (R143). A firing with both a mismatch and a lost credit records 0x13, then 0x12 (DESIGN CHOICE, assumption entry 110). -/
def tchkFiring (w : WordB) (s : State) : Option State :=
  match startFiring s with
  | none => none
  | some (F, s) =>
    let l := s.loopOf F
    let lost := F.overRetired l.out
    let val (q : FPos) : Option Val := if (valueB w F s q).isNone then none else q.l
    let same : List Emit := F.f.pos.filterMap fun q =>
      if (tchkDiffers w F s q).isNone then some { iter := q.iter, val := val q } else none
    let diff : List Emit := F.f.pos.filterMap fun q =>
      if (tchkDiffers w F s q).isSome then some { iter := q.iter, val := val q } else none
    let bad := F.f.pos.find? fun q => (tchkDiffers w F s q).isSome
    let fv := (bad.bind fun q => tchkDiffers w F s q).getD 0
    let s := ((s.setLoop F (retire l F.f.pos.length)).emit F 0 w.cons1 w.fmt.maxRun same).emit F 1 w.cons2 w.fmt.maxRun
      diff
    let s := match bad with
      | some q => if w.cons2.port = 3 then s.fireFault F 0x13 q.iter [fv] else s
      | none => s
    match lost with
    | some it => some (s.fireFault F 0x12 it [])
    | none => some s

/-- TGSET (R144): the field set to the value operand. A BUBBLE L is BUBBLE at the tag that is set; a BUBBLE value operand leaves nothing to
set, and the tag stays (DESIGN CHOICE, assumption entry 111). -/
def tgsetFiring (w : WordB) (s : State) : Option State :=
  match startFiring s with
  | none => none
  | some (F, s) =>
    let res : List Emit := F.f.pos.map fun q =>
      match q.l, valueB w F s q with
      | some v, some x => { iter := setField F.tagsel q.iter w.fsel.toNat x.toNat, val := some v }
      | none, some x => { iter := setField F.tagsel q.iter w.fsel.toNat x.toNat, val := none }
      | _, none => { iter := q.iter, val := none }
    some (s.emitBoth F w.cons1 w.cons2 w.fmt.maxRun res)

/-- TGGET (R144). -/
def tggetFiring (w : WordB) (s : State) : Option State :=
  match startFiring s with
  | none => none
  | some (F, s) =>
    let res : List Emit := F.f.pos.map fun q =>
      { iter := q.iter, val := q.l.map fun _ => BitVec.ofNat 128 (getField F.tagsel q.iter w.fsel.toNat) }
    some (s.emitBoth F w.cons1 w.cons2 32 res)

/-! ## Scans (R145) -/

/-- The combined mask word of a position, `none` where a required operand is BUBBLE. -/
def scanMask (w : WordB) (q : FPos) : Option Nat :=
  match q.l with
  | none => none
  | some a =>
    let l := a.toNat % 2 ^ 32
    if w.subop = 3 then some l
    else q.r.map fun b =>
      let r := b.toNat % 2 ^ 32
      if w.subop = 0 then l &&& r else if w.subop = 1 then l ||| r else l &&& (r ^^^ 0xFFFFFFFF)

/-- The coordinates of a mask word at tag `t`, ascending. -/
def scanCoords (t : Iter) (m : Nat) : List Nat :=
  (List.range 32).filterMap fun j => if bitOf m j then some (32 * t.toNat + j) else none

/-- All coordinates of the firing. -/
def scanAll (w : WordB) (F : Fire) : List Nat :=
  (F.f.pos.map fun q => match scanMask w q with
    | some m => scanCoords q.iter m
    | none => []).flatten

/-- Population counts for consumer 2. -/
def scanCounts (w : WordB) (F : Fire) : List Emit :=
  F.f.pos.map fun q =>
    { iter := q.iter, val := (scanMask w q).map fun m => BitVec.ofNat 128 (scanCoords 0 m).length }

/-- SCAN (R145): coordinates numbered densely by the slot's scan counter. -/
def scanFiring (w : WordB) (s : State) : Option State :=
  match startFiring s with
  | none => none
  | some (F, s) =>
    let cs := scanAll w F
    let sc := Table.getD F.cc.scans F.slot 0
    let out : List Emit := cs.zipIdx.map fun (c, i) => { iter := sc + BitVec.ofNat 24 i, val := some (BitVec.ofNat 128 c) }
    let s := s.modCtx F.hearth F.ce F.ctx fun x =>
      { x with scans := Table.put x.scans F.slot (sc + BitVec.ofNat 24 cs.length) }
    some ((s.emit F 0 w.cons1 32 out).emit F 1 w.cons2 32 (scanCounts w F))

/-- SCANT (R145): each coordinate is its own tag. -/
def scantFiring (w : WordB) (s : State) : Option State :=
  match startFiring s with
  | none => none
  | some (F, s) =>
    let out : List Emit := (scanAll w F).map fun c => { iter := BitVec.ofNat 24 c, val := some (BitVec.ofNat 128 c) }
    some ((s.emit F 0 w.cons1 32 out).emit F 1 w.cons2 32 (scanCounts w F))

/-! ## Pilots (R146) -/

/-- PSTRM (R146): one start pilot for each position. A BUBBLE position starts like another, and what comes back for it is
BUBBLE (R54). A firing that would pass the limit of streams of the hearth where they run waits (R204). -/
def pstrmFiring (w : WordB) (s : State) : Option State :=
  match startFiring s with
  | none => none
  | some (F, s) =>
    if (F.ch.streamHearth (w.imm.toNat % 256)).any fun h => 2048 < s.streams h + F.f.pos.length then none else
    let starts : List Pilot := F.f.pos.map fun _ =>
      { bind := F.cc.bind, route := w.imm.toNat % 256, hearth := F.hearth, ce := F.ce, slot := F.slot }
    let s := s.modCtx F.hearth F.ce F.ctx fun x =>
      { x with pstrm := Table.update x.pstrm F.slot [] fun l => l ++ F.f.pos.map fun q => (q.iter, q.bubble2) }
    some (s.setFab { s.fab with pilots := s.fab.pilots ++ starts })

/-! ## Issue of iterations -/

/-- Length of the next run of a trip (R141). -/
def issueLength (k : Nat) (l : LoopSt) (t : Trip) : Nat :=
  min (2 ^ k - l.out) (min (t.n - t.j) (32 - l.cnt.toNat % 32))

/-- The trip log with `len` more iterations issued at `cnt`: iteration 0 opens a record; later runs of the same trip
extend it (R359). -/
def logIssue (log : List TripLog) (cnt : Iter) (t : Trip) (len : Nat) : List TripLog :=
  if t.j = 0 then log ++ [{ first := cnt, n := t.n, issued := len }]
  else match log.getLast? with
    | some r => log.dropLast ++ [{ r with issued := r.issued + len }]
    | none => [{ first := cnt, n := t.n, issued := len }]

/-! ## Meanings -/

/-- LOOP (R141). -/
def execLoop (w : WordB) (s : State) : Host.Outcome State Fault Refusal := finish s (loopFiring w s)

/-- LOOPD (R141). -/
def execLoopd (w : WordB) (s : State) : Host.Outcome State Fault Refusal := finish s (loopdFiring w s)

/-- LEXIT (R142). -/
def execLexit (w : WordB) (s : State) : Host.Outcome State Fault Refusal := finish s (lexitFiring w s)

/-- TCHK (R143). -/
def execTchk (w : WordB) (s : State) : Host.Outcome State Fault Refusal := finish s (tchkFiring w s)

/-- TGSET (R144). -/
def execTgset (w : WordB) (s : State) : Host.Outcome State Fault Refusal := finish s (tgsetFiring w s)

/-- TGGET (R144). -/
def execTgget (w : WordB) (s : State) : Host.Outcome State Fault Refusal := finish s (tggetFiring w s)

/-- SCAN (R145). -/
def execScan (w : WordB) (s : State) : Host.Outcome State Fault Refusal := finish s (scanFiring w s)

/-- SCANT (R145). -/
def execScant (w : WordB) (s : State) : Host.Outcome State Fault Refusal := finish s (scantFiring w s)

/-- PSTRM (R146). -/
def execPstrm (w : WordB) (s : State) : Host.Outcome State Fault Refusal := finish s (pstrmFiring w s)

/-- LOOP_ISSUE (R141, R359): the header issues the next run of its head trip; in a repair pass it issues the listed iters
one run at a time. A trip that has issued all its iterations leaves the queue; one of length zero does so without an issue. The trip's record in the
context frame follows. An issue is a firing start of its CE (R70, R71, R34). -/
def loopIssue (hearth ce ctx : Nat) (s : State) : Option State :=
  match s.ctx? hearth ce ctx with
  | none => none
  | some cc =>
    match s.charge? cc.bind with
    | none => none
    | some ch =>
      match ch.block? cc.block with
      | none => none
      | some b =>
        if !ch.runs ∨ !cc.loaded ∨ b.loopCe ≠ ce ∨ b.words.length ≤ b.loopSlot ∨ !(s.mayStart hearth ce) then none
        else
          let slot := b.loopSlot
          let w := b.words.getD slot 0
          let send (s : State) (l : List Emit) : State :=
            (s.sendAll cc.bind cc.block slot 0 (rawCons w 0) 32 l).sendAll cc.bind cc.block slot 1 (rawCons w 1) 32 l
          let started (s : State) : State := s.noteStart hearth ce ctx cc.bind 1
          let l := cc.loop
          match l.reissue with
          | (it, j) :: rest =>
            if l.out < 2 ^ b.credit then
              let s := s.modCtx hearth ce ctx fun x => { x with loop := { l with out := l.out + 1, reissue := rest } }
              some (started (send s [{ iter := it, val := some (j.setWidth 128) }]))
            else none
          | [] =>
            match l.queue with
            | [] => none
            | t :: rest =>
              let len := issueLength b.credit l t
              if len = 0 ∧ t.j < t.n then none
              else
                let out : List Emit := (List.range len).map fun i =>
                  { iter := l.cnt + BitVec.ofNat 24 i, val := some (BitVec.ofNat 128 ((t.j + i) % 2 ^ 32)) }
                let t' : Trip := { t with j := t.j + len }
                let log := if len = 0 then l.log else logIssue l.log l.cnt t len
                let log := log.drop (log.length - 4096)
                let trips := if len ≠ 0 ∧ t.j = 0 then l.trips + 1 else l.trips
                let s := s.modCtx hearth ce ctx fun x =>
                  { x with loop :=
                      { l with cnt := l.cnt + BitVec.ofNat 24 len, out := l.out + len,
                               queue := if t'.j = t'.n then rest else t' :: rest, log := log, trips := trips } }
                some (if len = 0 then s else (started (send s out)).putTrip ch cc.block trips log)

/-- LOOP_ISSUE (R141). -/
def execLoopIssue (hearth ce ctx : Nat) (s : State) : Host.Outcome State Fault Refusal :=
  finish s (loopIssue hearth ce ctx s)

/-- PSTRM_DONE_EMIT (R146): the oldest start whose done pilot has returned emits its scalar, whose consumer acquires what the stream's
end has released (R283). -/
def pstrmDoneEmit (hearth ce ctx slot : Nat) (s : State) : Option State :=
  match s.ctx? hearth ce ctx with
  | none => none
  | some cc =>
    match s.charge? cc.bind with
    | none => none
    | some ch =>
      match ch.block? cc.block, Table.getD cc.pstrm slot [] with
      | some b, (it, bub) :: rest =>
        if !ch.runs ∨ Table.getD cc.pdone slot [] = [] ∨ !(s.mayStart hearth ce) then none
        else
          let w := b.words.getD slot 0
          let l : List Emit := [{ iter := it, val := if bub then none else some 0 }]
          let s := s.modCtx hearth ce ctx fun x =>
            { x with pstrm := Table.put x.pstrm slot rest, pdone := Table.update x.pdone slot [] (List.drop 1) }
          let s := s.noteStart hearth ce ctx cc.bind 1
          let acq := ((Table.getD cc.pdone slot []).head?).getD []
          some ((s.sendAll cc.bind cc.block slot 0 (rawCons w 0) 1 l acq).sendAll cc.bind cc.block slot 1 (rawCons w 1) 1 l acq)
      | _, _ => none

/-- PSTRM_DONE_EMIT (R146). -/
def execPstrmDoneEmit (hearth ce ctx slot : Nat) (s : State) : Host.Outcome State Fault Refusal :=
  finish s (pstrmDoneEmit hearth ce ctx slot s)

end Sys2Proof.Machine
end

