-- ==== Sys2Proof/Machine/Uint.lean ====
section
/-!
DEFINITION. Sys2Proof/Machine/Uint.lean: user interrupts of conductor threads (R345, R346) and the notification of a dropped
token (R69).
-/

namespace Sys2Proof.Machine

def State.modThread (s : State) (v : Nat) (f : Thread → Thread) : State :=
  s.setAdm { s.adm with threads := Table.modify s.adm.threads v f }

/-- The registered thread of device `v`. -/
def State.thread? (s : State) (v : Nat) : Option Thread :=
  match Table.get? s.adm.threads v with
  | some t => if t.registered then some t else none
  | none => none

/-- A post dropped and counted in UINT_LOST_v (R346). -/
def State.loseUint (s : State) (v : Nat) : State :=
  s.setAdm { s.adm with uintLost := Table.update s.adm.uintLost v 0 fun c => satAdd c 1 }

/-- The user interrupt of a post: raised at once where the thread runs, otherwise when it is next scheduled (R346). -/
def Thread.notify (t : Thread) : Thread :=
  if t.running then { t with raised := t.raised + 1 } else { t with pending := true }

/-- A post to the thread of device `v` (R346). The record's indices count posts; slot n mod 63 holds post n. -/
def State.postUint (s : State) (v vector : Nat) (tag : BitVec 32) (payload launch : Nat) : State :=
  match s.thread? v with
  | none => s.loseUint v
  | some t =>
    match s.stokerAddr t.aspace t.juirec.toNat true true with
    | none => s.loseUint v
    | some ma =>
      let m := ma + vector % 256 / 8
      let put (s : State) (a : Nat) (bs : List Byte) : State := s.stokerStoreVia t.aspace t.juirec.toNat a bs
      let s := put s m [s.byte (s.readAt m) ||| BitVec.ofNat 8 (2 ^ (vector % 8))]
      let wr := s.loadHome (ma + 36) 4
      let rd := s.loadHome (ma + 40) 4
      let s :=
        if (wr + 2 ^ 32 - rd) % 2 ^ 32 < 63 then
          let slot := ma + 64 + 64 * (wr % 63)
          put (put (put (put (put s slot [BitVec.ofNat 8 vector]) (slot + 4) (leBytes 4 tag.toNat)) (slot + 8) (leBytes 8 payload))
            (slot + 16) (leBytes 8 launch)) (ma + 36) (leBytes 4 ((wr + 1) % 2 ^ 32))
        else put s (ma + 32) (leBytes 4 ((s.loadHome (ma + 32) 4 + 1) % 2 ^ 32))
      s.modThread v Thread.notify

/-- The notification of a dropped token to the sender's device (R69). -/
def State.postDrop (s : State) (v : Nat) (header : Nat) : State := s.postUint v 0xFE 0x80000000 header 0

/-- UINT_DELIVER (R346): the thread is scheduled again, and a pending interrupt is delivered. -/
def uintDeliver (vdev : Nat) (s : State) : Option State :=
  match s.thread? vdev with
  | none => none
  | some t =>
    if t.pending then
      some (s.modThread vdev fun t => { t with running := true, pending := false, raised := t.raised + 1 })
    else none

/-- UINT_DELIVER (R346). -/
def execUintDeliver (vdev : Nat) (s : State) : Host.Outcome State Fault Refusal := finish s (uintDeliver vdev s)

end Sys2Proof.Machine
end

