-- ==== Sys2Proof/Machine/Stop.lean ====
section
/-!
DEFINITION. Sys2Proof/Machine/Stop.lean: how a charge is brought to its end: HALT's first steps (R98), ABORT (R372), and the
end of a splice (R67).
-/

namespace Sys2Proof.Machine

/-- The splice of predecessor `b` ends: its successor is then bound as an ordinary launch (R67). -/
def State.endSplice (s : State) (b : Nat) : State :=
  match (s.charge? b).bind fun c => c.successor with
  | some j =>
    (s.modCharge b fun c => { c with successor := none }).modCharge j fun c => { c with predecessor := none }
  | none => s

/-- The ready firings of HALT in a context of charge `b`. -/
def State.haltsReady (s : State) (b : Nat) (x : CeCtx) : List Firing :=
  match (s.charge? b).bind fun c => c.block? x.block with
  | some k => x.ready.filter fun f => wordOp (k.words.getD f.slot 0) == 0xC1
  | none => []

/-- A matrix queue without its entries. -/
def MCtx.emptied (m : MCtx) (b : Nat) : MCtx := if m.owner = some b then { m with queue := [], mgath := 0 } else m

/-- Every token, matching entry and overflow entry of charge `b` discarded, and the entries that wait at its index engines and matrix
blocks (R98). Firings of HALT that are ready stay, so that one which starts in the same cycle can still give the recorded code, and so
do the firings of a join unit that have started, which complete. -/
def State.discardTokens (s : State) (b : Nat) : State :=
  s.setFab { s.fab with
    transit := s.fab.transit.filter fun t => t.bind ≠ b
    waits := s.fab.waits.filter fun t => t.bind ≠ b
    hearths := s.fab.hearths.map fun (h, x) =>
      (h, { x with
        ie := x.ie.filter fun w => w.bind != b
        ces := x.ces.map fun (e, y) => (e, { y with mx0 := y.mx0.emptied b, mx1 := y.mx1.emptied b }) })
    ctxs := s.fab.ctxs.map fun (k, x) =>
      (k, if x.bind = b then { x with entries := [], ready := s.haltsReady b x ++ x.ready.filter fun f => f.epoch.isSome } else x) }

/-- What a charge that is swapped out, or is being so, has under way outside its frame: it ends with the charge (R372). -/
def State.dropUnits (s : State) (b : Nat) : State :=
  (s.setFab { s.fab with
    reqs := s.fab.reqs.filter fun x => x.bind != b
    flights := s.fab.flights.filter fun x => x.bind != b
    pending := s.fab.pending.filter fun x => x.bind != b
    waits := s.fab.waits.filter fun x => x.bind != b
    copies := s.fab.copies.filter fun x => x.bind != b
    nmcs := s.fab.nmcs.filter fun x => x.bind != b
    fetches := s.fab.fetches.filter fun x => x.bind != b
    tileReads := s.fab.tileReads.filter fun x => x.bind != b
    tclrs := s.fab.tclrs.filter fun x => x.bind != b
    pilots := s.fab.pilots.filter fun x => x.bind != b
    chimneys := s.fab.chimneys.map fun (k, x) => (k, if k / 256 = b then { x with ackNo := x.sentNo } else x) }).modCharge b fun c =>
    { c with acks := 0 }

/-- An ABORT frame of charge context `ctx` (R372). -/
def abortFrame (ctx : Nat) : Frame := frameOf .abort ctx 0 [0] false

/-- ABORT sent on each chimney stream of the charge that has not carried EOS (R372). -/
def State.abortStreams (s : State) (b : Nat) : State :=
  match s.charge? b with
  | none => s
  | some c =>
    c.image.streams.foldl (init := s) fun s e =>
      let k := (e.extractLsb' 8 8).toNat
      let ch := Table.getD s.fab.chimneys (256 * b + k) .reset
      if ch.carriedEos then s
      else (s.setFab { s.fab with
        chimneys := Table.put s.fab.chimneys (256 * b + k)
          { ch with sent := ch.sent ++ [abortFrame c.ctx], carriedEos := true } }).retain c k

/-- Records that hold charge `b`, and those that still wait for their ring, lose their hold: a later action on them is discarded
(R352, R372). -/
def State.dropHolds (s : State) (b : Nat) : State :=
  s.setAdm { s.adm with rings := s.adm.rings.map fun (n, g) =>
    (n, { g with
      holding := g.holding.filter fun (_, r) => r.bind ≠ b
      waiting := g.waiting.map fun r => if r.bind = b then { r with ended := true } else r }) }

/-- Whether a charge is swapped out, or is being so. -/
def State.swappedOut (s : State) (b : Nat) : Bool := (s.charge? b).any fun c => c.phase == .swapping || c.phase == .swapped

/-- HALT's steps 1 and 2 (R98): firings stop, and tokens and entries are discarded. The charge ends with phase `ph` once
step 3 is met: its requests that were parked go on, and one that is swapped out has none left (R372). -/
def State.beginStop (s : State) (b : Nat) (ph : Phase) : State :=
  let s := ((s.endSplice b).discardTokens b).abortStreams b
  let s := if s.swappedOut b then s.dropUnits b else s.unpark b
  (s.dropHolds b).modCharge b fun c => { c with phase := ph, faults := [], holds := 0, bubbleHolds := 0, inbox := [], retry := [] }

/-- Whether a firing of HALT stopped the charge in this very cycle: others of it that start in the same cycle still say which code is
recorded (R98). -/
def State.haltsNow (s : State) (c : Charge) : Bool :=
  match c.phase, c.haltFrom with
  | .halting _, some (cy, _, _) => cy == s.cycle
  | _, _ => false

/-- ABORT arriving for charge `b` (R372). A charge that already ends keeps its ending. -/
def State.abortCharge (s : State) (b : Nat) : State :=
  match s.charge? b with
  | some c =>
    match c.phase with
    | .running | .freezing | .frozen | .swapping | .swapped => s.beginStop b .aborting
    | .halting _ | .aborting => s
  | none => s.countExited 1

/-- An ABORT token for a charge not yet placed. -/
def abortToken (b : Nat) : Token :=
  { src := [1, b], bind := b, hearth := 0, ce := 0, slot := 0, port := .L, kind := .abort, iter := 0, vals := [0], words := 1,
    ctx := 0, task := false, nd := false, check := 0, acq := [], parked := false }

/-- A token parked in the inbox of a charge not yet placed (R69). -/
def State.toInbox (s : State) (t : Token) : State :=
  s.setAdm { s.adm with inbox := Table.update s.adm.inbox t.bind [] fun l => l ++ [t] }

/-- ABORT arriving for slot-table index `b` (R372): not yet placed, placed or exited. -/
def abortArrives (b : Nat) (s : State) : State :=
  if (s.charge? b).isNone && ((s.bindRec b).state == 1 || (s.bindRec b).state == 2) then s.toInbox (abortToken b)
  else s.abortCharge b

/-- ABORT_TOKEN_ARRIVAL (R372). -/
def execAbortTokenArrival (bind : Nat) (s : State) : Host.Outcome State Fault Refusal :=
  finish s (some (abortArrives bind s))

end Sys2Proof.Machine
end

