-- ==== Sys2Proof/Machine/Arrival.lean ====
section
/-!
DEFINITION. Sys2Proof/Machine/Arrival.lean: tokens that arrive at a CE (R49, R54 to R60, R69, R363) and the propagation of
EOS (R54).
-/

namespace Sys2Proof.Machine

/-! ## The matching store (R58, R59) -/

/-- Set of an entry (R58). -/
def setOf (ctx slot : Nat) (it : Iter) : Nat :=
  let g (lo w : Nat) := bitsOf it.toNat (lo + w - 1) lo
  Nat.xor (Nat.xor (Nat.xor (ctx % 16) (slot % 16)) (Nat.xor (slot / 16 % 8) (g 5 4)))
    (Nat.xor (Nat.xor (g 9 4) (g 13 4)) (Nat.xor (g 17 4) (g 21 3)))

/-- Ways of each set of a CE's store that remain (R58, R60). -/
def State.wayCount (s : State) (h e : Nat) : Nat := Table.getD (s.hearth h).ways e 4

/-- Ways that the entries of one context take of a set. -/
def waysOf (ctx set : Nat) (l : List Entry) : Nat :=
  (l.filter fun x => !x.inTable && setOf ctx x.slot x.iter == set).length

/-- Ways of a set taken by the contexts of a CE other than `c`. -/
def State.waysElsewhere (s : State) (h e c set : Nat) : Nat :=
  (List.range 16).foldl (fun n i => if i = c then n else
    match s.ctx? h e i with
    | some x => n + waysOf i set x.entries
    | none => n) 0

/-- Overflow entries that context `c` uses on hearth `h` in CEs other than `e` (R59). -/
def State.tableElsewhere (s : State) (h e c : Nat) : Nat :=
  (List.range ceCount).foldl (fun n i => if i = e then n else
    match s.ctx? h i c with
    | some x => n + (x.entries.filter (·.inTable)).length
    | none => n) 0

/-- One piece placed: a free way of its set, else the overflow table, else nothing (R59 step 3). -/
def State.placeEntry (s : State) (h e c cap : Nat) (l : List Entry) (x : Entry) : Option (List Entry) :=
  let set := setOf c x.slot x.iter
  if s.waysElsewhere h e c set + waysOf c set l < s.wayCount h e then some (l ++ [{ x with inTable := false }])
  else if s.tableElsewhere h e c + (l.filter (·.inTable)).length < cap then some (l ++ [{ x with inTable := true }])
  else none

/-- Pieces placed in order; `none` when one finds no room. -/
def State.placeAll (s : State) (h e c cap : Nat) : List Entry → List Entry → Option (List Entry)
  | l, [] => some l
  | l, x :: xs => match s.placeEntry h e c cap l x with
    | some l => State.placeAll s h e c cap l xs
    | none => none

/-- Order of step 3: ascending tag, then L, R, P. -/
def pieceBefore (a b : Entry) : Bool := a.iter.toNat < b.iter.toNat || (a.iter == b.iter && portIx a.port ≤ portIx b.port)

def insertPiece (x : Entry) : List Entry → List Entry
  | [] => [x]
  | y :: ys => if pieceBefore x y then x :: y :: ys else y :: insertPiece x ys

def sortPieces (l : List Entry) : List Entry := l.foldr insertPiece []

/-! ## Matching (R55 to R57) -/

/-- Tags and values of an entry's positions. -/
def Entry.cells (x : Entry) : List Emit :=
  x.vals.zipIdx.map fun (v, i) =>
    { iter := x.iter + BitVec.ofNat 24 i, val := if x.kind = .bubble then none else some v }

/-- Value that an entry of `port` in `slot` holds for a tag. -/
def Entry.holds (x : Entry) (slot : Nat) (port : Port) (it : Iter) : Option Emit :=
  if x.slot = slot ∧ x.port = port ∧ x.kind ≠ .eos then x.cells.find? fun y => y.iter == it else none

/-- The waiting entry of a port that holds a tag. -/
def findHolder (l : List Entry) (slot : Nat) (port : Port) (it : Iter) : Option Entry :=
  l.find? fun x => (x.holds slot port it).isSome

/-- A run divided at multiples of 32 (R56). -/
def split32 (l : List Emit) : List (List Emit) :=
  l.foldl (fun acc x =>
    match acc.getLast? with
    | some g => if x.iter.toNat % 32 = 0 then acc ++ [[x]] else acc.dropLast ++ [g ++ [x]]
    | none => [[x]]) []

/-- Maximal spans of consecutive positions for which `p` holds. -/
def spansOf (p : Emit → Bool) (l : List Emit) : List (List Emit) :=
  (l.foldl (fun (acc : List (List Emit) × Bool) x =>
    if p x then
      (match acc.1.getLast?, acc.2 with
       | some g, true => (acc.1.dropLast ++ [g ++ [x]], true)
       | _, _ => (acc.1 ++ [[x]], true))
    else (acc.1, false)) ([], false)).1

/-- What stays of an entry when the tags of `gone` are consumed: its maximal remaining spans (R57). -/
def Entry.pieces (x : Entry) (gone : Iter → Bool) : List Entry :=
  (spansOf (fun y => !gone y.iter) x.cells).map fun g =>
    { x with iter := (g.head?.map (·.iter)).getD 0, vals := g.map fun y => y.val.getD 0 }

/-- One position of a firing, gathered from the arriving entry `a` and the waiting entries. -/
def gatherPos (req : List Port) (l : List Entry) (a : Entry) (y : Emit) : FPos :=
  let at_ (p : Port) : Option Val :=
    if p = a.port then y.val
    else if req.contains p then
      (match findHolder l a.slot p y.iter with
       | some x => ((x.holds a.slot p y.iter).map (·.val)).getD none
       | none => some 0)
    else some 0
  let pair := if a.port = .L then a.pair else match findHolder l a.slot .L y.iter with
    | some x => x.pair
    | none => (0, 0)
  { iter := y.iter, l := at_ .L, r := at_ .R, p := at_ .P, pair := pair }

/-- Kind of a run that a word with one operand may forward unchanged: OVF stays OVF, and a BUBBLE position says so itself. -/
def Entry.runKind (x : Entry) : Kind := if x.kind = .ovf then .ovf else .data

/-- Outcome of matching one 32-aligned part: the firings made ready, the entries untouched, and the pieces to place. The kind that a firing
takes from its run, OVF or DATA, shows in the results of the words that emit their operand's run unchanged (HNDL, YIELD, MERGE, an FJOIN's R
run); every other result is DATA or BUBBLE (DESIGN CHOICE, assumption entry 108). -/
def matchPart (req : List Port) (l : List Entry) (a : Entry) : List Firing × List Entry × List Entry :=
  let others := req.filter (· ≠ a.port)
  let present (y : Emit) : Bool := req.contains a.port && others.all fun p => (findHolder l a.slot p y.iter).isSome
  let spans := spansOf present a.cells
  let gone (it : Iter) : Bool := spans.any fun g => g.any fun y => y.iter == it
  let touched (x : Entry) : Bool :=
    x.slot == a.slot && x.kind != .eos && others.contains x.port && x.cells.any fun y => gone y.iter
  let acqOf (g : List Emit) : List Rel :=
    (l.filter fun x => touched x && x.cells.any fun y => g.any fun z => z.iter == y.iter).foldl (fun r x => r ++ x.acq) a.acq
  let firings : List Firing := spans.map fun g =>
    { slot := a.slot, pos := g.map (gatherPos req l a), kind := if others.isEmpty then a.runKind else .data, stamp := a.stamp,
      acq := acqOf g }
  (firings, l.filter (fun x => !touched x),
    sortPieces (((l.filter touched).map fun x => x.pieces gone).flatten ++ a.pieces gone))

/-! ## Landing -/

/-- A landed run as an entry, before placement. -/
def landed (t : Token) (stamp : Nat) (pair : BitVec 16 × BitVec 16) (g : List Emit) : Entry :=
  { slot := t.slot, port := t.port, iter := (g.head?.map (·.iter)).getD 0,
    kind := t.kind, vals := g.map fun y => y.val.getD 0, check := t.check,
    stamp := stamp, pair := pair, inTable := false, count := 0, acq := t.acq, task := t.task }

def Token.cells (t : Token) : List Emit :=
  t.vals.zipIdx.map fun (v, i) =>
    { iter := t.iter + BitVec.ofNat 24 i, val := if t.kind = .bubble then none else some v }

/-- Why a token cannot land: the code of its fault (R55, R59). -/
inductive LandFault where
  | collision (it : Iter)
  | overflow
  deriving DecidableEq, Repr

/-- The word of a slot, and the ports it requires. -/
def Charge.required (c : Charge) (blk slot : Nat) : List Port :=
  match c.block? blk with
  | some b => requiredPorts c blk slot (b.words.getD slot 0)
  | none => []

/-- One part matched and its pieces placed. -/
def State.landPart (s : State) (h e c cap : Nat) (cc : CeCtx) (req : List Port) (a : Entry) : Option CeCtx :=
  if !cc.loaded then
    (s.placeAll h e c cap cc.entries [a]).map fun l => { cc with entries := l }
  else
    let (fs, keep, pieces) := matchPart req cc.entries a
    (s.placeAll h e c cap keep pieces).map fun l => { cc with entries := l, ready := cc.ready ++ fs }

/-- The parts of a run, in ascending tag order, each with its own stamp. -/
def State.landParts (s : State) (h e c cap : Nat) (req : List Port) : CeCtx → List Entry → Option CeCtx
  | cc, [] => some cc
  | cc, a :: rest => match s.landPart h e c cap cc req a with
    | some cc => State.landParts s h e c cap req cc rest
    | none => none

/-- Whether a tag of the run is already held by an entry of its port (R55). -/
def collides (l : List Entry) (t : Token) : Option Iter :=
  (t.cells.find? fun y => (findHolder l t.slot t.port y.iter).isSome).map (·.iter)

/-! ### FJOIN (R232) -/

/-- The count held for tag `it` at port L of an FJOIN slot. -/
def fjoinCount (l : List Entry) (slot : Nat) (it : Iter) : Option Entry :=
  l.find? fun x => x.slot == slot && x.port == .L && x.kind != .eos && x.iter == it

/-- The run at port R whose position 0 has tag `it`. -/
def fjoinRun (l : List Entry) (slot : Nat) (it : Iter) : Option Entry :=
  l.find? fun x => x.slot == slot && x.port == .R && x.kind != .eos && x.iter == it

/-- `n` tokens of a count taken from the entries. -/
def takeCount (n : Nat) (c : Entry) (l : List Entry) : List Entry :=
  if c.count ≤ n then l.erase c else l.map fun x => if x = c then { c with count := c.count - n } else x

/-- The firing of an FJOIN: one scalar at arity 1, the run `r` at arity 2. -/
def fjoinFiring (c : Entry) (r : Option Entry) (stamp : Nat) : Firing :=
  match r with
  | none =>
    { slot := c.slot, pos := [{ iter := c.iter, l := if c.kind = .bubble then none else some 0, r := some 0, p := some 0 }],
      kind := .data, stamp := stamp, acq := c.acq }
  | some r =>
    { slot := c.slot, pos := r.cells.map fun y => { iter := y.iter, l := some 0, r := y.val, p := some 0 },
      kind := r.runKind, stamp := stamp, acq := c.acq ++ r.acq }

/-- A token at port L counted, and the join fired if that completes it. -/
def State.fjoinL (s : State) (h e c cap n : Nat) (binary : Bool) (a : Entry) (cc : CeCtx) : Option CeCtx :=
  let counted : Option (List Entry) :=
    match fjoinCount cc.entries a.slot a.iter with
    | some x => some (cc.entries.map fun y => if y = x then
        { x with count := x.count + 1, kind := if a.kind = .bubble then .bubble else x.kind, acq := x.acq ++ a.acq } else y)
    | none =>
      if n = 1 ∧ cc.loaded ∧ (!binary ∨ (fjoinRun cc.entries a.slot a.iter).isSome) then
        some (cc.entries ++ [{ a with count := 1 }])
      else s.placeAll h e c cap cc.entries [{ a with count := 1 }]
  match counted with
  | none => none
  | some l =>
    match fjoinCount l a.slot a.iter with
    | none => some { cc with entries := l }
    | some x =>
      if x.count < n ∨ !cc.loaded then some { cc with entries := l }
      else if binary then
        match fjoinRun l a.slot a.iter with
        | none => some { cc with entries := l }
        | some r => some { cc with entries := takeCount n x (l.erase r), ready := cc.ready ++ [fjoinFiring x (some r) a.stamp] }
      else some { cc with entries := takeCount n x l, ready := cc.ready ++ [fjoinFiring x none a.stamp] }

/-- A run at port R: it fires at once when its count is complete, and is stored otherwise. -/
def State.fjoinR (s : State) (h e c cap n : Nat) (a : Entry) (cc : CeCtx) : Option CeCtx :=
  match fjoinCount cc.entries a.slot a.iter with
  | some x =>
    if n ≤ x.count ∧ cc.loaded then
      some { cc with entries := takeCount n x cc.entries, ready := cc.ready ++ [fjoinFiring x (some a) a.stamp] }
    else (s.placeAll h e c cap cc.entries [a]).map fun l => { cc with entries := l }
  | none => (s.placeAll h e c cap cc.entries [a]).map fun l => { cc with entries := l }

def fjoinParts (f : Entry → CeCtx → Option CeCtx) : CeCtx → List Entry → Option CeCtx
  | cc, [] => some cc
  | cc, a :: rest => match f a cc with
    | some cc => fjoinParts f cc rest
    | none => none

/-! ### A run of DATA, OVF or BUBBLE -/

/-- The arriving entries of a token: its 32-aligned parts, each with its own stamp (R56, R246). -/
def arriving (t : Token) (stamp : Nat) (pair : BitVec 16 × BitVec 16) : List Entry :=
  (split32 t.cells).zipIdx.map fun (g, i) => landed t (stamp + i) pair g

/-- A ready firing of a whole run at port L. -/
def wholeFiring (slot : Nat) (k : Kind) (stamp : Nat) (acq : List Rel) (l : List Emit) : Firing :=
  { slot := slot, kind := k, stamp := stamp, acq := acq,
    pos := l.map fun y => { iter := y.iter, l := y.val, r := some 0, p := some 0 } }

/-- The context after a run of operands has landed, or why it cannot. A run without task bit 1 at an HNDL slot fires nothing (R139): it
stays as entries. -/
def State.landRun (s : State) (t : Token) (c cap : Nat) (cc : CeCtx) (ch : Charge) (w : BitVec 64) :
    Except LandFault CeCtx :=
  let op := wordOp w
  let stamp := s.fab.stamp
  let done (r : Option CeCtx) : Except LandFault CeCtx := match r with
    | some x => .ok x
    | none => .error .overflow
  let lat := Table.getD cc.latch t.slot .reset
  let pair : BitVec 16 × BitVec 16 :=
    if op = 0x65 ∧ t.port = .L then
      (let one : BitVec 16 := if bitsOf w.toNat 1 0 = 1 then 0x7F else 0x3F80
       (lat.sa.getD one, lat.sb.getD one))
    else (0, 0)
  let parts := arriving t stamp pair
  if op = 0x04 ∧ cc.loaded then
    .ok { cc with ready := cc.ready ++ [wholeFiring t.slot t.kind stamp t.acq t.cells] }
  else if op = 0x0B ∧ !t.task then
    match (collides cc.entries t), s.placeAll t.hearth t.ce c cap cc.entries parts with
    | some it, _ => .error (.collision it)
    | none, some l => .ok { cc with entries := l }
    | none, none => .error .overflow
  else if op = 0x93 ∧ t.port = .L then
    let n := bitsOf w.toNat 6 0
    let ones := t.cells.map fun y => landed t stamp (0, 0) [y]
    done (fjoinParts (s.fjoinL t.hearth t.ce c cap n (wordArity w = 2)) cc
      (ones.map fun x => { x with kind := if t.kind = .bubble then .bubble else .data }))
  else match collides cc.entries t with
    | some it => .error (.collision it)
    | none =>
      if op = 0x93 then done (fjoinParts (s.fjoinR t.hearth t.ce c cap (bitsOf w.toNat 6 0)) cc parts)
      else done (s.landParts t.hearth t.ce c cap (ch.required cc.block t.slot) cc parts)

/-! ### Other kinds (R54) -/

/-- A SCALE token at a loaded context: latched by SCAC at L, queued by a capturing HNDL slot, otherwise forwarded to the
first consumer (R54, R175, R256). -/
def State.landScale (s : State) (t : Token) (c : Nat) (cc : CeCtx) (ch : Charge) (w : BitVec 64) : State :=
  let captured := match ch.block? cc.block with
    | some b => wordOp w == 0x0B && (b.capture? t.slot).isSome
    | none => false
  if wordOp w = 0x65 ∧ t.port = .L then
    let l := Table.getD cc.latch t.slot .reset
    let v : BitVec 16 := ((t.vals.headD 0).extractLsb' 0 16)
    let v := if bitsOf w.toNat 1 0 = 1 then v &&& 0xFF else v
    let l' : ScaleLatch := if l.second then { l with sb := some v, second := false } else { l with sa := some v, second := true }
    s.modCtx t.hearth t.ce c fun x => { x with latch := Table.put x.latch t.slot l' }
  else if captured then
    (s.modCtx t.hearth t.ce c fun x => { x with ready :=
      x.ready ++ [wholeFiring t.slot .scale s.fab.stamp t.acq t.cells] })
  else s.sendCons t.bind cc.block t.slot 0 (rawCons w 0) .scale t.iter t.vals t.acq t.words

/-- Words that discard an EOS as it arrives (R97, R98, R138). -/
def discardsEos (op : Nat) : Bool := op = 0x08 || op = 0xC0 || op = 0xC1

/-- Whether a port of a slot holds EOS. -/
def heldEos (cc : CeCtx) (slot : Nat) (p : Port) : Option Entry :=
  cc.entries.find? fun x => x.slot == slot && x.port == p && x.kind == .eos

/-- An EOS token: held as an entry of its port, once for each port. -/
def State.landEos (s : State) (t : Token) (c cap : Nat) (cc : CeCtx) (w : BitVec 64) : Except LandFault CeCtx :=
  if discardsEos (wordOp w) ∨ (heldEos cc t.slot t.port).isSome then .ok cc
  else
    let x : Entry := { landed t s.fab.stamp (0, 0) (t.cells.take 1) with kind := .eos }
    match s.placeAll t.hearth t.ce c cap cc.entries [x] with
    | some l => .ok { cc with entries := l }
    | none => .error .overflow

/-- Whether a token comes from outside its charge's region: an injection record (R188). -/
def Token.outside (t : Token) : Bool := match t.src with
  | 2 :: _ => true
  | _ => false

/-- The token refused: it stays parked, and its charge freezes (R55, R59). One from outside that finds no room while the charge freezes
waits at the border without a fault (R355). -/
def State.parkToken (s : State) (t : Token) (c : Nat) (blk : Block) (f : LandFault) : State :=
  let (code, it, detail) := match f with
    | .collision it => (0x10, it, [portIx t.port, it.toNat])
    | .overflow => (0x11, t.iter, [])
  let u := s.setFab { s.fab with transit := { t with parked := true } :: s.fab.transit }
  if code = 0x11 ∧ t.outside ∧ ((s.charge? t.bind).any fun c => c.phase == .freezing) then u
  else u.raiseFault t.bind
    { s.faultRec t.bind code t.hearth with
      tag := faultTag c it, block := blk.id, slot := t.slot, ce := t.ce, unit := 0, detail := detail }

/-- A token taken in by its CE: `s` no longer holds it in transit. -/
def State.landToken (s : State) (t : Token) (ch : Charge) : State :=
  match s.ctx? t.hearth t.ce ch.ctx with
  | none => s.countExited 1
  | some cc =>
    match ch.block? cc.block with
    | none => s.countExited 1
    | some blk =>
      let c := ch.ctx
      let w := blk.words.getD t.slot 0
      let cap := ch.image.overflow
      let next (s : State) : State :=
        s.setFab { s.fab with stamp := s.fab.stamp + (split32 t.cells).length }
      let settle (r : Except LandFault CeCtx) : State := match r with
        | .ok x => next (s.modCtx t.hearth t.ce c fun _ => x)
        | .error f => s.parkToken t c blk f
      match t.kind with
      | .data | .ovf | .bubble => settle (s.landRun t c cap cc ch w)
      | .eos => settle (s.landEos t c cap cc w)
      | .scale => next (s.landScale t c cc ch w)
      | .abort =>
        abortArrives t.bind ((s.sendCons t.bind cc.block t.slot 0 (rawCons w 0) .abort t.iter t.vals).sendCons t.bind
          cc.block t.slot 1 (rawCons w 1) .abort t.iter t.vals)

/-! ## Checks (R363 to R365) -/

/-- A transient fault counted in INTEG of a stove (R364). -/
def State.countTransient (s : State) (n : Nat) : State := s.modStove n fun x => { x with transient := satAdd x.transient 1 }

/-- Physical hearth that holds a module hearth, or 0xFF. -/
def State.physical (s : State) (h : Nat) : Nat := (physicalOf (s.stove (stoveOf h)).hearthMap (logicalOf h)).getD 0xFF

/-- A lasting fault counted, with its unit and physical hearth (R364). -/
def State.countLasting (s : State) (n unit hearth : Nat) : State :=
  s.modStove n fun x => { x with lasting := satAdd x.lasting 1, lastUnit := BitVec.ofNat 8 unit, lastHearth := BitVec.ofNat 8 hearth }

/-- A CE marked by a lasting fault (R365). -/
def State.markCe (s : State) (h e : Nat) : State := s.modHearth h fun x => { x with marked := insertAsc e x.marked }

/-- The CE that produced a token: an instruction's, by its block and slot; otherwise the arriving one, whose path is at
fault. -/
def State.producerCe (s : State) (t : Token) : Nat × Nat :=
  match t.src with
  | [0, b, blk, slot, _] =>
    match (s.charge? b).bind fun c => (c.block? blk).map fun x => (c.region.getD x.shape 0, x.first + slot / 32) with
    | some p => p
    | none => (t.hearth, t.ce)
  | _ => (t.hearth, t.ce)

/-- The record of a lasting fault that marks a CE (R365). -/
def State.postCe (s : State) (h e : Nat) : State :=
  s.postTo 255 { s.faultRec 1024 0x21 h with ce := e, unit := 0, detail := [s.physical h, e] }

/-- A lasting fault of a CE: counted, recorded, and the CE marked (R364, R365). -/
def State.ceLasting (s : State) (h e : Nat) : State := ((s.countLasting (stoveOf h) 0 (s.physical h)).markCe h e).postCe h e

/-- Switch-box directions of the path of a charge's track. -/
def Charge.trackPath (c : Charge) (track : Nat) : List Nat :=
  match c.image.tracks.findIdx? fun e => (e.extractLsb' 56 8).toNat == track with
  | some k => ((c.paths[k]?).map Prod.snd).getD []
  | none => []

/-- A path marked: the stoker routes no new charge through its directions (R365). -/
def State.markPath (s : State) (dirs : List Nat) : State :=
  (s.setMod { s.mod with markedDirs := dirs.foldl (fun l d => insertAsc d l) s.mod.markedDirs }).postTo 255
    { s.faultRec 1024 0x21 0 with unit := 0, detail := 0xFF :: dirs }

/-- What a lasting fault of a token marks (R363): the CE of the instruction that produced it, or the path by which it came from a unit, a
track's where it has one; counted on the stove where it arrives. -/
def State.producerLasting (s : State) (t : Token) : State :=
  match t.src with
  | 0 :: _ => let (h, e) := s.producerCe t; s.ceLasting h e
  | _ =>
    let dirs := match t.src with
      | [1, b, track] => ((s.charge? b).map fun c => c.trackPath track).getD []
      | _ => []
    (s.countLasting (stoveOf t.hearth) 0 (s.physical t.hearth)).markPath dirs

/-- A lasting check fault of a token (R363, R365): counted, recorded, its producer marked, the charge frozen, the run parked. -/
def State.tokenLasting (s : State) (t : Token) (ch : Charge) : State :=
  let s := s.producerLasting t
  let s := s.setFab { s.fab with transit := { t with parked := true } :: s.fab.transit }
  let r := { s.faultRec t.bind 0x20 t.hearth with tag := faultTag ch.ctx t.iter }
  if agEnd ≤ t.ce then s.raiseFault t.bind { r with unit := 2 }
  else
    let id := match s.ctx? t.hearth t.ce ch.ctx with
      | some cc => ((ch.block? cc.block).map Block.id).getD 0xFFFFFFFF
      | none => 0xFFFFFFFF
    s.raiseFault t.bind { r with block := id, slot := t.slot, ce := t.ce, unit := 0 }

/-! ## Fate of a token (R15, R69) -/

/-- The hearth a token comes from: that of its instruction, or of its track's source unit. -/
def State.producerHearth (s : State) (t : Token) : Nat :=
  match t.src with
  | [1, b, track] =>
    ((s.charge? b).bind fun c => (c.image.tracks.find? fun e => (e.extractLsb' 56 8).toNat == track).map fun e =>
      c.region.getD (e.extractLsb' 0 8).toNat t.hearth).getD t.hearth
  | _ => (s.producerCe t).1

/-- A token for an exited charge (R69): dropped and counted, and notified when nd is set. An injected token's source names
the writer's device. -/
def State.dropExited (s : State) (t : Token) : State :=
  let s := s.countExited 1
  match t.nd, t.src with
  | true, 2 :: v :: _ =>
    s.postDrop v (headerOf t.kind t.vals.length t.ctx t.iter t.slot t.port t.task true + t.check.toNat)
  | _, _ => s

/-- Whether an earlier token of the same producing instruction, through either consumer field, and to the same port holds `t` back
(R49). -/
def heldBack (before : List Token) (t : Token) : Bool :=
  before.any fun u => u.src.take 4 == t.src.take 4 && u.bind == t.bind && u.hearth == t.hearth && u.ce == t.ce && u.slot == t.slot &&
    u.port == t.port

/-- Positions that reach an AG wait in its input FIFO (R201). -/
def State.feedAg (s : State) (b h n : Nat) (vals : List (Option Val)) : State :=
  s.modHearth h fun x => { x with ags := Table.modify x.ags (1024 * n + b) fun g => { g with fifo := g.fifo ++ vals } }

/-- A token taken in by the CE or the AG at which it arrives. -/
def State.takeIn (s : State) (t : Token) (ch : Charge) : State :=
  if agEnd ≤ t.ce then s.feedAg t.bind t.hearth (t.ce - agEnd) (t.cells.map Emit.val) else s.landToken t ch

/-- Beats of a token that a closed damper discards (R15): one for a token of the mesh, one for each position that a track brings to an
AG. -/
def Token.beats (t : Token) : Nat := if agEnd ≤ t.ce then t.vals.length else 1

/-- TOKEN_ARRIVAL (R59). -/
def tokenArrival (index : Nat) (check : Check) (s : State) : Option State :=
  match s.fab.transit[index]? with
  | none => none
  | some t =>
    if t.parked ∨ heldBack (s.fab.transit.take index) t then none
    else
      let s' := s.setFab { s.fab with transit := s.fab.transit.take index ++ s.fab.transit.drop (index + 1) }
      if !(s.passes (s.producerHearth t) t.hearth) then some (s'.countDamper t.beats)
      else match s.charge? t.bind with
        | none =>
          if (s.bindRec t.bind).state == 1 || (s.bindRec t.bind).state == 2 then some (s'.toInbox t)
          else some (s'.dropExited t)
        | some ch =>
          match ch.phase with
          | .swapping | .swapped => some (s'.addInbox t.bind [t])
          | .halting _ | .aborting => some (s'.dropExited t)
          | .running | .freezing | .frozen =>
            let waiting : Bool := t.ce < agEnd && (match s.ctx? t.hearth t.ce ch.ctx with
              | some cc => !cc.loaded && t.kind == .scale
              | none => false)
            if waiting then none
            else match check with
              | .good => some (s'.takeIn t ch)
              | .transient => some ((s'.countTransient (stoveOf t.hearth)).takeIn t ch)
              | .lasting => some (s'.tokenLasting t ch)

/-- TOKEN_ARRIVAL (R59). -/
def execTokenArrival (index : Nat) (check : Check) (s : State) : Host.Outcome State Fault Refusal :=
  finish s (tokenArrival index check s)

/-! ## Matching again (R67, R357) -/

/-- The operands of a context matched afresh, in stamp order: each entry leaves the store and arrives again. -/
def insertStamp (x : Entry) : List Entry → List Entry
  | [] => [x]
  | y :: ys => if x.stamp ≤ y.stamp then x :: y :: ys else y :: insertStamp x ys

/-- The firings of an FJOIN slot that a count has ready without a further arrival: tokens that waited for the load (R67, R232). -/
def fjoinAgain (n : Nat) (binary : Bool) (slot : Nat) (it : Iter) : Nat → CeCtx → CeCtx
  | 0, cc => cc
  | k + 1, cc =>
    match fjoinCount cc.entries slot it with
    | none => cc
    | some x =>
      if x.count < n then cc
      else if binary then
        match fjoinRun cc.entries slot it with
        | none => cc
        | some r => { cc with
            entries := takeCount n x (cc.entries.erase r), ready := cc.ready ++ [fjoinFiring x (some r) x.stamp] }
      else
        fjoinAgain n binary slot it k { cc with
          entries := takeCount n x cc.entries, ready := cc.ready ++ [fjoinFiring x none x.stamp] }

def State.rematch (s : State) (h e c : Nat) (ch : Charge) : State :=
  match s.ctx? h e c with
  | none => s
  | some cc =>
    let cap := ch.image.overflow
    let one (acc : CeCtx) (x : Entry) : CeCtx :=
      if x.kind = .eos then { acc with entries := acc.entries ++ [x] }
      else if 0 < x.count then
        let w := ((ch.block? cc.block).map fun b => b.words.getD x.slot 0).getD 0
        let all := { acc with entries := acc.entries ++ [x] }
        if cc.loaded then fjoinAgain (bitsOf w.toNat 6 0) (wordArity w = 2) x.slot x.iter x.count all else all
      else
        match ch.block? cc.block with
        | none => acc
        | some b =>
          let w := b.words.getD x.slot 0
          let r : Option CeCtx :=
            if wordOp w = 0x04 then
              some { acc with ready := acc.ready ++ [wholeFiring x.slot x.kind x.stamp x.acq x.cells] }
            else if wordOp w = 0x0B ∧ !x.task then none
            else if wordOp w = 0x93 then s.fjoinR h e c cap (bitsOf w.toNat 6 0) x acc
            else s.landPart h e c cap acc (ch.required cc.block x.slot) x
          r.getD { acc with entries := acc.entries ++ [x] }
    let out := (cc.entries.foldr insertStamp []).foldl one { cc with entries := [] }
    s.modCtx h e c fun _ => out

/-! ## EOS (R54) -/

/-- Whether a firing of word `slot` is in progress: ready, or with an operation or a result outstanding. -/
def State.wordBusy (s : State) (h e c : Nat) (cc : CeCtx) (blk : Block) (slot : Nat) : Bool :=
  let here (b h' e' sl : Nat) : Bool := b == cc.bind && h' == h && e' == e && sl == slot
  (cc.ready.any fun f => f.slot == slot) ||
  !(Table.getD cc.pstrm slot []).isEmpty ||
  (s.fab.flights.any fun f => here f.bind f.hearth f.ce f.slot) ||
  (s.fab.reqs.any fun f => here f.bind f.hearth f.ce f.slot) ||
  (s.fab.pending.any fun f => here f.bind f.hearth f.ce f.slot) ||
  (s.fab.waits.any fun f => here f.bind f.hearth f.ce f.slot) ||
  (s.fab.copies.any fun f => here f.bind f.hearth f.ce f.slot) ||
  (s.fab.nmcs.any fun f => here f.bind f.hearth f.ce f.slot) ||
  (s.fab.tclrs.any fun f => here f.bind f.hearth f.ce f.slot) ||
  ((s.hearth h).ie.any fun w => here w.bind h w.ce w.slot) ||
  ((s.hearth h).joins.any fun (_, j) => j.draining.any fun d => here j.bind h d.ce d.slot) ||
  (s.fab.chimneys.any fun (k, x) => k / 256 == cc.bind &&
    ((match x.opened with | some (h', e', sl) => here (k / 256) h' e' sl | none => false) ||
     (match x.place with | some (h', e', sl) => here (k / 256) h' e' sl && !x.contrib.isEmpty | none => false))) ||
  (slot == blk.loopSlot && e == blk.loopCe && (!cc.loop.queue.isEmpty || !cc.loop.reissue.isEmpty)) ||
  c ≥ 16

/-- Whether word `slot` may emit EOS: EOS on every required port, no other entry of the slot, nothing in progress. -/
def State.eosReady (s : State) (h e c : Nat) (cc : CeCtx) (ch : Charge) (blk : Block) (slot : Nat) : Bool :=
  let req := ch.required cc.block slot
  !req.isEmpty && (req.all fun p => (heldEos cc slot p).isSome) &&
  !(cc.entries.any fun x => x.slot == slot && x.kind != .eos) && !(s.wordBusy h e c cc blk slot)

/-- Words that keep the EOS they hold: SINK, and the tile writes, whose EOS seals their tile (R133, R195). -/
def keepsEos (op : Nat) : Bool := op = 0x07 || op = 0x89 || op = 0x8D

/-- The held EOS tokens of a slot discarded, and what EOS resets at its word (R54, R145, R175, R257). -/
def CeCtx.eosTaken (cc : CeCtx) (blk : Block) (slot : Nat) (it : Iter) : CeCtx :=
  let body := (blk.bodyWords slot).map (·.1)
  { cc with
    entries := cc.entries.filter fun x => !(x.slot == slot && x.kind == .eos)
    scans := Table.erase cc.scans slot
    latch := Table.erase cc.latch slot
    eosOut := Table.put (body.foldl (fun t k => Table.erase t k) cc.eosOut) slot it }

/-- The EOS of an LSEND or a REDN on its chimney stream (R235, R372). -/
def State.linkEos (s : State) (b : Nat) (c : Charge) (w : BitVec 64) (it : Iter) : State :=
  if wordOp w = 0x98 ∨ wordOp w = 0x9A then
    let k := 256 * b + bitsOf w.toNat 7 0
    let f := frameOf .eos c.ctx it [0] false
    (s.setFab { s.fab with chimneys := Table.update s.fab.chimneys k .reset fun x =>
      { x with sent := x.sent ++ [f], carriedEos := true } }).retain c (bitsOf w.toNat 7 0)
  else s

/-- EOS_PROPAGATE (R54). A matrix word of a handler's body has MATRIX_EOS instead. -/
def eosPropagate (hearth ce ctx slot : Nat) (s : State) : Option State :=
  match s.ctx? hearth ce ctx with
  | none => none
  | some cc =>
    match s.charge? cc.bind with
    | none => none
    | some ch =>
      match ch.block? cc.block with
      | none => none
      | some blk =>
        let w := blk.words.getD slot 0
        if !ch.runs ∨ !cc.loaded ∨ keepsEos (wordOp w) ∨ !(s.eosReady hearth ce ctx cc ch blk slot) then none
        else
          let port := ((ch.required cc.block slot).head?).getD .L
          let it := ((heldEos cc slot port).map (·.iter)).getD 0
          let s := (s.modCtx hearth ce ctx fun x => x.eosTaken blk slot it).linkEos cc.bind ch w it
          some ((s.sendCons cc.bind cc.block slot 0 (rawCons w 0) .eos it [0]).sendCons cc.bind cc.block slot 1 (rawCons w 1)
            .eos it [0])

/-- EOS_PROPAGATE (R54). -/
def execEosPropagate (hearth ce ctx slot : Nat) (s : State) : Host.Outcome State Fault Refusal :=
  finish s (eosPropagate hearth ce ctx slot s)

end Sys2Proof.Machine
end

