-- ==== Sys2Proof/Machine/Admit.lean ====
section
/-!
DEFINITION. Sys2Proof/Machine/Admit.lean: the load-time checks of one instruction word (R80 to R92, R128 to R184, R190,
R211, R222, R249, R97 to R103). Each check names the code of R95 and the most significant bit of the failing field
(R94); the first failing field from bit 63 down is reported (R93).
-/

namespace Sys2Proof.Machine

/-- What a region declaration offers a word (R189). -/
structure RegionInfo where
  space  : Nat
  window : Nat
  rd     : Bool
  wr     : Bool
  atom   : Bool
  deriving DecidableEq, Repr

/-- What a word's check needs of its block and image. -/
structure WordEnv where
  tagsel   : Nat
  params   : Nat
  ovfList  : Bool
  /-- consumer 1 or 2: words of the target block, and the arity of its word in a slot (R80) -/
  target   : Nat → Nat × (Nat → Nat)
  region   : Nat → Option RegionInfo
  timeline : Nat → Bool
  stream   : Nat → Bool
  pilot    : Nat → Bool
  tile     : Nat → Option Fmt

/-- One failing check: the bit it names, and its code. -/
structure Failure where
  bit  : Nat
  code : Nat
  deriving DecidableEq, Repr

/-- `code` at `bit` when `bad` holds. -/
def fails (bad : Bool) (code bit : Nat) : List Failure := if bad then [⟨bit, code⟩] else []

/-- The first failing field from bit 63 down; at one bit, the check listed first. -/
def firstFailure (l : List Failure) : Option Failure :=
  l.foldl (fun best x =>
    match best with
    | none => some x
    | some b => if b.bit < x.bit then some x else best) none

/-! ## Format classes (R128) and roles (R129) -/

def isX (_ : Fmt) : Bool := true
def isP (f : Fmt) : Bool := f == .b1
def isI (f : Fmt) : Bool := f.isInt
def isF (f : Fmt) : Bool := f.classF
def isFS (f : Fmt) : Bool := f == .f16 || f == .bf16 || f == .f32
def notP (f : Fmt) : Bool := f != .b1

/-- The role of bits [27:25] (R129). -/
inductive Role where
  | unused | rnd | cond | sub
  deriving DecidableEq, Repr

/-- What a word asks of its consumers. -/
inductive ConsNeed where
  | optional | required | none
  deriving DecidableEq, Repr

/-- How a word uses imm when isel is 00 (R132, R139, R151, R158, R162, R170, R184). -/
inductive ImmUse where
  | zero | hndl | param | bfi | target | scale | mask
  deriving DecidableEq, Repr

/-- A row of a format A admission table (R128). -/
structure RowA where
  fmt   : Fmt → Bool
  arity : List Nat
  role  : Role := .unused
  sat   : Bool := false
  nf    : Bool := false
  isel  : List Nat := [0, 1, 2, 3]
  own   : Bool := false
  c1    : ConsNeed := .optional
  c2    : ConsNeed := .optional
  imm   : ImmUse := .zero

/-- The admission tables of R132, R147, R154, R161, R168, R170 and R178, by opcode. -/
def rowA (op : Nat) (f : Fmt) : RowA :=
  match op with
  | 0x00 => { fmt := isX, arity := [0, 1, 2, 3], isel := [0], c1 := .none, c2 := .none }
  | 0x01 => { fmt := isX, arity := [0], isel := [1, 3] }
  | 0x02 => { fmt := isX, arity := [1], isel := [0], c2 := .required }
  | 0x03 | 0x04 | 0x05 | 0x06 => { fmt := isX, arity := [2], isel := [0] }
  | 0x07 => { fmt := isX, arity := [1], isel := [0], c1 := .none, c2 := .none }
  | 0x08 => { fmt := isX, arity := [0], isel := [0] }
  | 0x09 | 0x0A => { fmt := isX, arity := [1], isel := [0] }
  | 0x0B => { fmt := isX, arity := [1], isel := [0], imm := .hndl }
  | 0x20 | 0x21 | 0x24 => { fmt := isI, arity := [2, 3], role := .sub, sat := true }
  | 0x22 | 0x23 => { fmt := isI, arity := [2] }
  | 0x25 | 0x28 => { fmt := isI, arity := [2, 3] }
  | 0x26 => { fmt := isI, arity := [2, 3], sat := true, isel := [0], imm := .param }
  | 0x27 => { fmt := isI, arity := [2, 3], sat := true }
  | 0x29 | 0x2A => { fmt := isI, arity := [1], role := .sub, sat := true, isel := [0] }
  | 0x2B | 0x2C | 0x2D => { fmt := isI, arity := [2, 3], role := .sub }
  | 0x2E | 0x2F => { fmt := fun g => g == .n32 || g == .n64, arity := [2, 3], sat := true }
  | 0x30 | 0x31 | 0x32 | 0x33 => { fmt := fun g => isI g || isP g, arity := [2, 3] }
  | 0x34 => { fmt := fun g => isI g || isP g, arity := [1], isel := [0] }
  | 0x35 | 0x36 | 0x37 | 0x38 => { fmt := isI, arity := [2, 3], role := .sub }
  | 0x39 | 0x3A | 0x3B => { fmt := isI, arity := [1], isel := [0] }
  | 0x3C => { fmt := isI, arity := [2, 3] }
  | 0x3D => { fmt := isI, arity := [2, 3], isel := [0], imm := .bfi }
  | 0x3E => { fmt := isI, arity := [2], role := .cond }
  | 0x3F => { fmt := isX, arity := [3], isel := [0] }
  | 0x40 | 0x41 | 0x42 | 0x4C | 0x4E => { fmt := isF, arity := [2, 3], role := .rnd, sat := true, nf := true }
  | 0x43 | 0x44 => { fmt := isF, arity := [2, 3], role := .rnd, sat := true, nf := true, isel := [0], imm := .param }
  | 0x45 | 0x46 => { fmt := isF, arity := [2, 3], nf := true }
  | 0x47 | 0x48 | 0x4A => { fmt := isF, arity := [1], isel := [0] }
  | 0x49 => { fmt := isF, arity := [2], role := .cond, nf := true }
  | 0x4B | 0x4D => { fmt := isF, arity := [1], role := .rnd, nf := true, isel := [0] }
  | 0x4F => { fmt := isF, arity := [2, 3] }
  | 0x50 | 0x51 | 0x52 | 0x53 | 0x54 | 0x55 | 0x56 | 0x57 | 0x58 =>
    { fmt := isFS, arity := [1], role := .rnd, sat := true, nf := true, isel := [0] }
  | 0x60 =>
    { fmt := fun g => g != .cb2 && g != .b1, arity := [1], role := .rnd, sat := true, nf := true, isel := [0],
      imm := .target }
  | 0x61 | 0x62 =>
    { fmt := fun g => isF g || g == .e5m2, arity := [1], role := .rnd, nf := true, isel := [0], imm := .target }
  | 0x63 | 0x64 =>
    { fmt := fun g => g.bits ≤ 16 && g != .cb2 && g != .b1, arity := [1], isel := [0], own := true }
  | 0x65 =>
    { fmt := fun g => g == .f32 || g == .f64, arity := [2, 3], role := .rnd, sat := true, nf := true, isel := [0],
      imm := .scale }
  | 0x66 => { fmt := isF, arity := [2, 3], role := .rnd, sat := true, nf := true, isel := [0], imm := .scale }
  | 0x67 => { fmt := fun g => g == .cb2, arity := [1], isel := [0], own := true, imm := .target }
  | 0x68 => { fmt := fun g => g == .n8 || g == .n16 || g == .n32, arity := [2] }
  | 0x70 | 0x75 =>
    { fmt := fun g => isI g || isF g, arity := [1], role := if isF f then .rnd else .unused, sat := true, nf := isF f,
      isel := [0] }
  | 0x71 | 0x72 => { fmt := fun g => isI g || isF g, arity := [1], nf := isF f, isel := [0] }
  | 0x73 | 0x74 => { fmt := fun g => isI g || isP g, arity := [1], isel := [0] }
  | 0x76 => { fmt := fun g => g.bits ≠ 64, arity := [1], isel := [0], own := true }
  | 0x77 => { fmt := fun g => g.bits ≠ 64, arity := [2], isel := [0], own := true }
  | 0x78 | 0x79 | 0x7A => { fmt := isP, arity := [2], isel := [0] }
  | 0x7B | 0x7C => { fmt := isP, arity := [1], isel := [0] }
  | 0x7D => { fmt := fun g => g == .n32, arity := [0], isel := [0] }
  | _ => { fmt := fun g => g == .n32, arity := [0], isel := [0], imm := .mask }

/-! ## Consumers (R80, R51) -/

/-- The checks of consumer field `k` (1 or 2). -/
def checkCons (env : Option WordEnv) (w k : Nat) (need : ConsNeed) : List Failure :=
  let bit := if k = 1 then 46 else 37
  let slot := bitsOf w bit (bit - 6)
  let port := bitsOf w (bit - 7) (bit - 8)
  let none1 := bitsOf w 39 38 == 3
  if port = 3 then fails (slot ≠ 0 || need == .required) 0x26 bit
  else
    fails (need == .none || (k = 2 && none1)) 0x26 bit ++
    (match env with
     | some e =>
       let (n, ar) := e.target k
       fails (n ≤ slot || max 1 (ar slot) ≤ port) 0x26 bit
     | none => [])

/-- A parameter group of `bits` bits at register `x` (R86). -/
def checkParam (env : Option WordEnv) (x bits bit : Nat) : List Failure :=
  let n := if bits = 128 then 4 else if bits = 64 then 2 else 1
  if x % n ≠ 0 then [⟨bit, 0x29⟩]
  else match env with
    | some e => fails (e.params < x + n - 1) 0x2A bit
    | none => []

/-- Whether an immediate is representable (R85). -/
def immFits (f : Fmt) (imm : Nat) : Bool :=
  match f with
  | .f32 | .f64 => true
  | .f16 | .bf16 | .cb2 => imm < 2 ^ 16
  | .e4m3 | .e5m2 => imm < 2 ^ 8
  | .b1 => imm < 2
  | _ => if f.isSigned then fits f (signedOf 21 imm) else imm < 2 ^ f.bits

/-- Formats ordered by largest finite value (R172). -/
def fltRank : Fmt → Nat
  | .e4m3 => 1 | .e5m2 => 2 | .f16 => 3 | .bf16 => 4 | .f32 => 5 | .f64 => 6 | _ => 0

/-- Whether a conversion admits a target (R171, R172, R176). -/
def targetOk (op : Nat) (src dst : Fmt) : Bool :=
  if op = 0x67 then dst == .s8 || dst == .s16 || dst == .f16 || dst == .bf16 || dst == .f32
  else dst != .cb2 && dst != .b1 && dst != src && (op = 0x60 || dst.isInt || fltRank dst < fltRank src)

/-- Whether a word's own description gives imm a meaning (R84). -/
def immOwn (op : Nat) : Bool :=
  [0x0B, 0x26, 0x43, 0x44, 0x3D, 0x60, 0x61, 0x62, 0x67, 0x65, 0x66, 0x7E].contains op

/-- The checks of imm in a format A word with isel 00 and no FIELD_SET. -/
def checkImm (env : Option WordEnv) (op : Nat) (f : Fmt) (use : ImmUse) (imm : Nat) : List Failure :=
  match use with
  | .zero => fails (imm ≠ 0) 0x24 20
  | .hndl => fails (8 ≤ imm) 0x24 20
  | .param => if 64 ≤ imm then [⟨20, 0x24⟩] else checkParam env imm f.bits 20
  | .bfi =>
    let lo := imm % 256
    let len := imm / 256 % 256
    fails (2 ^ 16 ≤ imm) 0x24 20 ++ fails (len = 0 || f.bits ≤ lo || f.bits < lo + len) 0x28 20
  | .target => fails (16 ≤ imm) 0x24 20 ++ fails (!(targetOk op f (Fmt.ofCode imm))) 0x22 20
  | .scale => fails (4 ≤ imm) 0x24 20 ++ fails (imm = 0 || imm = 3) 0x28 20
  | .mask => fails (32 ≤ imm) 0x24 20 ++ fails (imm = 0) 0x28 20

/-- Format A words whose results, if they have any, take no tag operation: NOP and SINK emit nothing (R133), and HNDL emits its waking run
unchanged (R139). DESIGN CHOICE (assumption entry 101): R84 gives every result position its tag operation, so that HNDL could also be
read as using it; the model reads R139's words, and a nonzero tagop there is a field not used (R82). -/
def tagUnused (op : Nat) : Bool := op = 0x00 || op = 0x07 || op = 0x0B

/-- Format A (R83, R84, R128, R129). An own-tags word with any tagop but SAME gives 0x25 (R131); R162 replaces R85's reading for
an immediate R of FSCAL alone. -/
def checkA (env : Option WordEnv) (w : Nat) : List Failure :=
  let op := bitsOf w 63 56
  let f := Fmt.ofCode (bitsOf w 55 52)
  let arity := bitsOf w 51 50
  let tag := bitsOf w 49 47
  let mode := bitsOf w 27 25
  let isel := bitsOf w 22 21
  let imm := bitsOf w 20 0
  let r := rowA op f
  fails (!(r.fmt f)) 0x22 55 ++
  fails (!(r.arity.contains arity)) 0x23 51 ++
  fails ((r.own && tag ≠ 0) || (tag = 3 && arity = 0) || (tag = 5 && immOwn op)) 0x25 49 ++
  fails (5 < tag) 0x21 49 ++
  fails (tag ≠ 0 && tag ≤ 5 && tagUnused op && !(tag = 3 && arity = 0) && !(tag = 5 && immOwn op)) 0x24 49 ++
  checkCons env w 1 r.c1 ++ checkCons env w 2 r.c2 ++
  fails (bitOf w 28 && !r.nf) 0x24 28 ++
  (match r.role with
   | .unused => fails (mode ≠ 0) 0x24 27
   | .rnd => fails (4 < mode) 0x21 27
   | .cond => fails (mode = 7 || (mode = 6 && op = 0x3E)) 0x21 27
   | .sub => fails (2 < mode) 0x21 27 ++ fails (mode ≠ 0 && f != .s32 && f != .n32) 0x22 27) ++
  fails (bitOf w 24 && !r.sat) 0x24 24 ++
  fails (bitOf w 23 && arity ≠ 3) 0x23 23 ++
  fails (!(r.isel.contains isel) || (op ≠ 0x01 && isel ≠ 0 && arity < 2)) 0x23 22 ++
  fails (tag = 5 && isel ≠ 0) 0x25 22 ++
  (if tag = 5 then
    (match env with
     | some e =>
       fails (imm / 2 ^ 19 = 3 || fieldWidth e.tagsel (imm / 2 ^ 19) = 0 ||
         2 ^ fieldWidth e.tagsel (imm / 2 ^ 19) ≤ imm % 2 ^ 19) 0x25 20
     | none => fails (imm / 2 ^ 19 = 3) 0x25 20)
   else if isel = 1 ∨ isel = 2 then fails (!(op = 0x4E && isel = 2) && !(immFits f imm)) 0x28 20
   else if isel = 3 then
     (if 64 ≤ imm then [⟨20, 0x24⟩] else checkParam env imm (if op = 0x4E then 32 else f.bits) 20)
   else checkImm env op f r.imm imm)

/-- Format B (R87, R140). -/
def checkB (env : Option WordEnv) (w : Nat) : List Failure :=
  let op := bitsOf w 63 56
  let f := Fmt.ofCode (bitsOf w 55 52)
  let arity := bitsOf w 51 50
  let sub := bitsOf w 49 47
  let fsel := bitsOf w 28 27
  let isel := bitsOf w 22 21
  let imm := bitsOf w 20 0
  let scan := op = 0x16 ∨ op = 0x17
  let usesField := op = 0x13 ∨ op = 0x14 ∨ op = 0x15
  let arities : List Nat :=
    match op with
    | 0x10 | 0x13 | 0x14 | 0x18 => [2]
    | 0x11 => [0]
    | 0x12 => [1, 2]
    | 0x15 => [1]
    | _ => if sub = 3 then [1] else if sub < 3 then [2] else [1, 2]
  let isels : List Nat :=
    match op with
    | 0x10 | 0x13 | 0x14 => [0, 2, 3]
    | 0x18 => [2]
    | _ => [0]
  fails ((op = 0x10 || op = 0x11 || op = 0x15 || op = 0x16 || op = 0x17) && f != .n32) 0x22 55 ++
  fails (!(arities.contains arity)) 0x23 51 ++
  fails (if scan then 3 < sub else sub ≠ 0) 0x2D 49 ++
  checkCons env w 1 .optional ++ checkCons env w 2 .optional ++
  (if usesField then
    (match env with
     | some e => fails (fieldWidth e.tagsel fsel = 0) 0x25 28
     | none => [])
   else fails (fsel ≠ 0) 0x24 28) ++
  fails (bitsOf w 26 24 ≠ 0) 0x21 26 ++
  fails (bitOf w 23) 0x23 23 ++
  fails (!(isels.contains isel)) 0x23 22 ++
  (if isel = 3 then (if 64 ≤ imm then [⟨20, 0x24⟩] else checkParam env imm 32 20)
   else if isel = 2 then
     (if op = 0x18 then
       fails (256 ≤ imm) 0x24 20 ++ (match env with | some e => fails (!(e.pilot imm)) 0x2C 20 | none => [])
      else if op = 0x10 then fails (imm = 0) 0x28 20
      else (match env with | some e => fails (2 ^ fieldWidth e.tagsel fsel ≤ imm) 0x28 20 | none => []))
   else fails (imm ≠ 0) 0x24 20)

/-! ## Format M (R88, R190, R211, R222) -/

/-- Spaces that an instruction reaches, by opcode (R211, R222): codes of R189. -/
def spacesM (op : Nat) : List Nat :=
  match op with
  | 0x80 | 0x81 => [2, 3, 4, 5]
  | 0x82 | 0x83 | 0x86 | 0x87 => [0, 1]
  | 0x84 | 0x85 => [0, 1, 2, 3, 4, 5]
  | 0x8F | 0x92 => [2, 3, 4]
  | 0x90 => [0, 1, 2, 3, 4, 5, 6]
  | 0x91 => [2]
  | _ => []

/-- Whether an instruction reaches a peer window other than 0 (R211, R222). -/
def windowOk (op win : Nat) : Bool :=
  match op with
  | 0x82 => true
  | 0x83 | 0x90 => win ≠ 2
  | _ => win = 0

/-- Attributes that an instruction needs of its region (R190). -/
def attrsOk (op : Nat) (r : RegionInfo) : Bool :=
  match op with
  | 0x80 | 0x82 | 0x86 => r.rd
  | 0x81 | 0x83 | 0x90 => r.wr
  | 0x84 | 0x85 | 0x87 => r.atom
  | 0x91 => r.rd && r.wr
  | _ => true

/-- Minimum scope of a space (R190). -/
def minScope (space : Nat) : Nat :=
  match space with
  | 2 | 3 | 4 => 2
  | 5 => 4
  | _ => 1

/-- Words whose admission table gives them a default scope (R190). -/
def scopedM (op : Nat) : Bool :=
  (0x80 ≤ op && op ≤ 0x87) || op = 0x90 || op = 0x91 || op = 0x94 || op = 0x95 || op = 0x97

def isTileWord (op : Nat) : Bool := 0x88 ≤ op && op ≤ 0x8E

/-- Formats, by opcode and op field (R211, R222). -/
def fmtM (op o : Nat) (f : Fmt) : Bool :=
  match op with
  | 0x84 => isI f || ((f == .f32 || f == .f64) && o ≤ 3)
  | 0x85 => f == .n32 || f == .n64
  | 0x87 =>
    match o with
    | 0 | 1 | 2 => isI f || isF f
    | 4 => isI f
    | _ => notP f
  | 0x8A | 0x8B | 0x8E | 0x94 => f == .n32
  | 0x90 | 0x95 | 0x96 => f == .n64
  | 0x91 => f == .f32 || f == .f64 || ((f == .n32 || f == .n64) && (o = 3 || o = 4))
  | 0x93 => true
  | 0x97 => f == .n32 || f == .n64
  | 0x9A => isI f || isF f
  | _ => notP f

def arityM (op o : Nat) : List Nat :=
  match op with
  | 0x80 | 0x82 | 0x86 => [1, 3]
  | 0x81 | 0x83 | 0x84 | 0x87 => [2, 3]
  | 0x85 => [3]
  | 0x89 | 0x8D | 0x93 => [1, 2]
  | 0x90 => [2]
  | 0x91 => if o = 2 ∨ o = 3 then [1] else if o < 5 then [2] else [1, 2]
  | 0x99 => [0]
  | _ => [1]

/-- Largest op value (R88). -/
def opMax (op : Nat) : Nat :=
  match op with
  | 0x84 => 6
  | 0x87 | 0x91 => 4
  | 0x9A => 2
  | _ => 0

def consM (op : Nat) : ConsNeed :=
  if op = 0x89 ∨ op = 0x8D ∨ op = 0x8F ∨ op = 0x92 ∨ op = 0x98 then .none else .optional

/-- The last register that NMC's coefficient group at `c` reads (R224): p(c) and p(c + 1), or the pairs at c and c + 2 for the
64-bit formats other than FILL's. -/
def lastCoefficient (o : Nat) (f : Fmt) (c : Nat) : Nat := if f.bits = 64 ∧ o ≠ 3 then c + 3 else c + 1

/-- The checks of aux (R88, R219 to R235). R94 asks for the most significant bit of the failing field and R88 lays out no fields
within aux by width but NMC's: every other instruction's failing aux names bit 15, NMC's unused bits [7:6] bit 7 and its
coefficient index bit 5 (assumption entry 81). -/
def checkAux (env : Option WordEnv) (op o : Nat) (f : Fmt) (aux : Nat) : List Failure :=
  if isTileWord op then
    fails ((if op = 0x89 ∨ op = 0x8D then aux % 256 else aux % 512) ≠ 0) 0x24 15 ++
    (match env with | some e => fails ((e.tile (aux / 512)).isNone) 0x2B 15 | none => [])
  else
    match op with
    | 0x8F | 0x92 => fails (4 ≤ aux) 0x24 15 ++ fails (aux % 4 = 3) 0x21 15
    | 0x84 => fails (2 ≤ aux) 0x24 15
    | 0x85 => fails (2 ≤ aux) 0x24 15 ++ fails (aux = 1 && f != .n64) 0x22 15
    | 0x90 | 0x94 | 0x95 | 0x96 =>
      fails (256 ≤ aux) 0x24 15 ++ (match env with | some e => fails (!(e.timeline aux)) 0x2C 15 | none => [])
    | 0x97 => fails (256 ≤ aux) 0x24 15
    | 0x98 | 0x99 | 0x9A =>
      fails (256 ≤ aux) 0x24 15 ++ (match env with | some e => fails (!(e.stream aux)) 0x2C 15 | none => [])
    | 0x91 =>
      let c := aux % 64
      (match env with | some e => fails (!(e.timeline (aux / 256))) 0x2C 15 | none => []) ++
      fails (aux / 64 % 4 ≠ 0) 0x24 7 ++
      fails (f.bits = 64 && c % 2 ≠ 0) 0x29 5 ++
      (match env with | some e => fails (e.params < lastCoefficient o f c) 0x2A 5 | none => [])
    | 0x93 => fails (128 ≤ aux) 0x24 15 ++ fails (aux = 0) 0x28 15
    | _ => fails (aux ≠ 0) 0x24 15

/-- Format M. -/
def checkM (env : Option WordEnv) (w : Nat) : List Failure :=
  let op := bitsOf w 63 56
  let f := Fmt.ofCode (bitsOf w 55 52)
  let sc := bitsOf w 49 47
  let rn := bitsOf w 28 23
  let o := bitsOf w 20 17
  let aux := bitsOf w 15 0
  let usesRegion := !(spacesM op).isEmpty
  let isPort := op ≤ 0x87
  fails (!(fmtM op o f)) 0x22 55 ++
  (match env with
   | some e =>
     if op = 0x88 ∨ op = 0x89 ∨ op = 0x8C ∨ op = 0x8D then
       (match e.tile (aux / 512) with | some g => fails (g != f) 0x22 55 | none => [])
     else []
   | none => []) ++
  fails (!((arityM op o).contains (bitsOf w 51 50))) 0x23 51 ++
  (if scopedM op then fails (4 < sc) 0x21 49 ++ fails (sc = 0) 0x2D 49 else fails (sc ≠ 0) 0x24 49) ++
  (match env with
   | some e =>
     if usesRegion ∧ scopedM op then
       (match e.region rn with
        | some r => fails ((spacesM op).contains r.space && sc < minScope r.space) 0x2B 49
        | none => [])
     else []
   | none => []) ++
  checkCons env w 1 (consM op) ++ checkCons env w 2 (consM op) ++
  (if usesRegion then
    (match env with
     | some e =>
       (match e.region rn with
        | some r =>
          fails (!((spacesM op).contains r.space) || (r.space = 1 && !(windowOk op r.window)) || !(attrsOk op r)) 0x2B 28
        | none => [⟨28, 0x2B⟩])
     | none => [])
   else fails (rn ≠ 0) 0x24 28) ++
  fails (bitOf w 22 && isPort && op ≠ 0x80 && op ≠ 0x82 && op ≠ 0x86) 0x21 22 ++
  fails (bitOf w 22 && !isPort) 0x24 22 ++
  fails (bitOf w 21 && !isPort && op ≠ 0x90 && op ≠ 0x91) 0x24 21 ++
  fails (opMax op < o) 0x2D 20 ++
  fails (bitOf w 16 && !isPort && op ≠ 0x90) 0x24 16 ++
  checkAux env op o f aux

/-! ## Format X (R89, R243, R249) -/

/-- Class of a matrix operand format (R243): 0 none, 1 the 8-bit class, 2 the 16-bit class, 3 f32, 4 f64. -/
def matClass : Fmt → Nat
  | .e4m3 | .e5m2 | .s8 | .cb2 => 1
  | .f16 | .bf16 => 2
  | .f32 => 3
  | .f64 => 4
  | _ => 0

def fmtAX (op : Nat) (c : Nat) : Bool :=
  match op with
  | 0xA2 | 0xA3 | 0xA4 | 0xA5 => matClass (Fmt.ofCode c) ≠ 0
  | 0xB2 | 0xB3 | 0xB4 | 0xB5 | 0xB6 | 0xB7 => c = 3 || c = 5 || c = 7
  | 0xB9 => c = 7
  | 0xBA | 0xBB => c = 5
  | _ => true

def fmtBX (op : Nat) (c : Nat) : Bool :=
  let f := Fmt.ofCode c
  match op with
  | 0xA0 | 0xA1 => matClass f ≠ 0 && f != .cb2
  | 0xA2 | 0xA3 | 0xA4 | 0xA5 => matClass f ≠ 0
  | 0xA6 => f == .cb2
  | 0xB2 => isF f
  | 0xB3 => isFS f
  | 0xB4 => notP f
  | _ => true

/-- Words whose fmt_a, and whose fmt_b, R249 holds zero. -/
def zeroAX (op : Nat) : Bool := op = 0xA0 || op = 0xA1 || op = 0xA6 || op = 0xB0 || op = 0xB1 || op = 0xB8
def zeroBX (op : Nat) : Bool := op = 0xB0 || op = 0xB1 || 0xB8 ≤ op

def arityX (op : Nat) : List Nat :=
  match op with
  | 0xB2 | 0xB3 => [2, 3]
  | 0xB4 => [2]
  | _ => [1]

def consX (op k : Nat) : ConsNeed :=
  match op with
  | 0xA0 | 0xA1 | 0xA2 | 0xA5 | 0xA6 => .none
  | 0xA3 | 0xA4 | 0xB6 | 0xB7 => if k = 1 then .required else .optional
  | _ => .optional

/-- Format X. -/
def checkX (env : Option WordEnv) (w : Nat) : List Failure :=
  let op := bitsOf w 63 56
  let sel := bitsOf w 28 24
  let scl := bitsOf w 23 22
  let rn := bitsOf w 21 16
  let p := bitsOf w 15 10
  let isMat := op ≤ 0xA6
  let selMask := if op = 0xA4 then 15 else if op = 0xA5 then 31 else 7
  let reads := op = 0xA1 ∨ op = 0xBA ∨ op = 0xBB
  fails (zeroAX op && bitsOf w 55 52 ≠ 0) 0x24 55 ++ fails (!(fmtAX op (bitsOf w 55 52))) 0x22 55 ++
  fails (zeroBX op && bitsOf w 51 48 ≠ 0) 0x24 51 ++ fails (!(fmtBX op (bitsOf w 51 48))) 0x22 51 ++
  fails (bitOf w 47 && !(0xA2 ≤ op && op ≤ 0xA5)) 0x24 47 ++
  checkCons env w 1 (consX op 1) ++ checkCons env w 2 (consX op 2) ++
  (if isMat then fails (selMask < sel || 4 < sel % 8) 0x2D 28
   else if op = 0xB9 then fails (7 < sel) 0x2D 28 else fails (sel ≠ 0) 0x24 28) ++
  fails (scl = 3) 0x21 23 ++
  fails (scl ≠ 0 && !(op = 0xA0 || op = 0xA1 || op = 0xA3 || op = 0xA6)) 0x24 23 ++
  (if reads then
    (match env with
     | some e =>
       (match e.region rn with
        | some r => fails (4 < r.space || (r.space = 1 && r.window ≠ 0) || !r.rd) 0x2B 21
        | none => [⟨21, 0x2B⟩])
     | none => [])
   else fails (rn ≠ 0) 0x24 21) ++
  (if op = 0xA1 then (match env with | some e => fails (e.params < p + 1) 0x2A 15 | none => [])
   else if op = 0xB1 ∨ op = 0xBA ∨ op = 0xBB then checkParam env p 128 15
   else fails (p ≠ 0) 0x24 15) ++
  fails (!((arityX op).contains (bitsOf w 9 8))) 0x23 9 ++
  fails (bitOf w 7 && !(op = 0xA2 || op = 0xA3 || op = 0xB2 || op = 0xB3)) 0x24 7 ++
  fails (bitsOf w 6 0 ≠ 0) 0x21 6

/-- The operand-pair conditions of a matrix word (R243, R89), found in step 6 (R274). For acc64 = 1 with formats other than f32 and
f64 R89 names neither a step nor a code nor a bit: it is refused here, with R243's 0x87 and acc64's bit 47 (assumption entry
82). -/
def checkPair (w : Nat) : List Failure :=
  let op := bitsOf w 63 56
  if 0xA2 ≤ op ∧ op ≤ 0xA5 then
    let a := matClass (Fmt.ofCode (bitsOf w 55 52))
    let b := matClass (Fmt.ofCode (bitsOf w 51 48))
    fails (a ≠ b) 0x87 51 ++ fails ((a = 4 && !(bitOf w 47)) || (a < 3 && bitOf w 47)) 0x87 47
  else []

/-! ## Format S (R90, R97 to R103) -/

/-- Width of an RDCTL selector: its format, if it is in the table (R102). -/
def rdctlFmt (sel : Nat) : Option Fmt :=
  if sel = 3 ∨ sel = 10 then some .n64 else if sel < 10 then some .n32 else none

/-- Formats of format S. HALT's description uses no fmt (R98, R82): `checkS` asks for zero there. -/
def fmtS (op code : Nat) (f : Fmt) : Bool :=
  match op with
  | 0xC0 | 0xC6 => notP f
  | 0xC3 | 0xC4 => f == .n64
  | 0xC5 => (match rdctlFmt code with | some g => f == g | none => f == .n32 || f == .n64)
  | _ => true

/-- Format S. R102 says of a fmt that differs from the selector's width only that it is refused: it is given R95's 0x22 at bit 55
(assumption entry 83). A second consumer is admitted on YIELD, SPLICE, LAUNCH, RDCTL and CKSUM, of which R99 to R103 name the first
alone (DESIGN CHOICE, assumption entry 104). -/
def checkS (env : Option WordEnv) (w : Nat) : List Failure :=
  let op := bitsOf w 63 56
  let f := Fmt.ofCode (bitsOf w 55 52)
  let arity := bitsOf w 51 50
  let sc := bitsOf w 49 47
  let code := bitsOf w 28 21
  let rn := bitsOf w 20 15
  let stop := op = 0xC0 ∨ op = 0xC1
  let need : ConsNeed := if stop then .none else .optional
  fails (op = 0xC1 && bitsOf w 55 52 ≠ 0) 0x24 55 ++ fails (!(fmtS op code f)) 0x22 55 ++
  fails (!(if stop then arity = 1 || arity = 3 else arity = 1)) 0x23 51 ++
  (if op = 0xC4 then fails (4 < sc) 0x21 49 ++ fails (sc ≠ 3) 0x2D 49 else fails (sc ≠ 0) 0x24 49) ++
  checkCons env w 1 need ++ checkCons env w 2 need ++
  (if op = 0xC5 then fails ((rdctlFmt code).isNone) 0x2D 28 else fails (!stop && code ≠ 0) 0x24 28) ++
  (if op = 0xC3 ∨ op = 0xC4 then
    (match env with
     | some e =>
       (match e.region rn with
        | some r => fails (4 < r.space || (r.space = 1 && r.window ≠ 0) || !r.rd) 0x2B 20
        | none => [⟨20, 0x2B⟩])
     | none => [])
   else fails (rn ≠ 0) 0x24 20) ++
  fails (bitOf w 14 && arity ≠ 3) 0x23 14 ++
  fails (op ≠ 0xC4 && bitsOf w 13 6 ≠ 0) 0x24 13 ++
  fails (bitsOf w 5 0 ≠ 0) 0x21 5

/-! ## A whole word -/

/-- Whether an opcode is assigned (R91, R92). -/
def opcodeAssigned (op : Nat) : Bool :=
  op ≤ 0x0B || (0x10 ≤ op && op ≤ 0x18) || (0x20 ≤ op && op ≤ 0x58) || (0x60 ≤ op && op ≤ 0x68) ||
  (0x70 ≤ op && op ≤ 0x7E) || (0x80 ≤ op && op ≤ 0x9A) || (0xA0 ≤ op && op ≤ 0xA6) || (0xB0 ≤ op && op ≤ 0xBB) ||
  (0xC0 ≤ op && op ≤ 0xC6)

/-- The first failing check of a word (R93, step 3): without `env`, the checks that the word alone decides. -/
def checkWord (env : Option WordEnv) (word : BitVec 64) : Option Failure :=
  let w := word.toNat
  let op := bitsOf w 63 56
  if !(opcodeAssigned op) then some ⟨63, 0x20⟩
  else
    let ovf := match env with
      | some e => fails ((op = 0x61 && e.ovfList) || (op = 0x62 && !e.ovfList)) 0x19 63
      | none => []
    firstFailure (ovf ++
      (match formatOf op with
       | some .a => checkA env w
       | some .b => checkB env w
       | some .m => checkM env w
       | some .x => checkX env w
       | _ => checkS env w))

end Sys2Proof.Machine
end

