-- ==== Sys2Proof/Machine/Convert.lean ====
section
/-!
DEFINITION. Sys2Proof/Machine/Convert.lean: conversion and scale (R170 to R177, R121).
-/

namespace Sys2Proof.Machine

/-- The target format of a conversion (R170). -/
def targetFmt (w : WordA) : Fmt := Fmt.ofCode (w.imm.toNat % 16)

/-- CVT (R171). -/
def cvtFiring (w : WordA) (s : State) : Option State :=
  elementwise w (targetFmt w) (fun _ F o =>
    convert F.policy w.fmt (targetFmt w) w.mode.toNat w.sat (o.l.getD 0)) s

/-- The sign of a value, for the clamped outlier. -/
def FVal.sign : FVal → Bool
  | .nan s _ _ => s
  | .inf s => s
  | .fin s _ _ => s

/-- ±largest finite of the target, or the integer bound; 0 for a NaN source (R121). -/
def outlierValue (dst : Fmt) (a : FVal) : Nat :=
  if isNaN a then 0
  else if dst.isInt then wrapInt dst.bits (if a.sign then loBound dst.isSigned dst.bits else hiBound dst.isSigned dst.bits)
  else fltMax dst a.sign

/-- The flags of a CVTO outlier (R121). -/
def outlierFlags : FVal → Flags
  | .fin .. => flOF ||| flNX
  | _ => flOF ||| flNX ||| flNV

/-- The consumer-1 result of a position of CVTO (`lost` false) or CVTL (`lost` true). -/
def narrowRes (lost : Bool) (w : WordA) (F : Fire) (o : Opnd) (i : Nat) : Res :=
  let it := tagOut w.tagop F.tagsel w.imm i o.iter o.l
  match o.l with
  | none => { iter := it, val := none, flags := 0 }
  | some v =>
    let a := readFlt F.policy w.fmt v
    if isOutlier (targetFmt w) w.mode.toNat a then
      if lost then { iter := it, val := some 0, flags := 0 }
      else { iter := it, val := some (mkVal (targetFmt w) (outlierValue (targetFmt w) a)), flags := outlierFlags a }
    else
      let r := convert F.policy w.fmt (targetFmt w) w.mode.toNat false v
      { iter := it, val := some (mkVal (targetFmt w) r.1), flags := r.2 }

/-- The outlier token of a position, with the tag that consumer 1 gives it and the source element (R121). -/
def outlierOf (w : WordA) (F : Fire) (o : Opnd) (i : Nat) : Option (Iter × Val) :=
  match o.l with
  | none => none
  | some v =>
    if isOutlier (targetFmt w) w.mode.toNat (readFlt F.policy w.fmt v) then
      some (tagOut w.tagop F.tagsel w.imm i o.iter o.l, mkVal w.fmt (elemBits w.fmt v))
    else none

/-- CVTO and CVTL (R121, R172): the run to consumer 1, then one scalar for each outlier to consumer 2. -/
def narrowFiring (lost : Bool) (w : WordA) (s : State) : Option State :=
  match startFiring s with
  | none => none
  | some (F, s) =>
    let os := (operandsOf F).zipIdx
    let rs := os.map fun (o, i) => narrowRes lost w F o i
    let outs := os.filterMap fun (o, i) => outlierOf w F o i
    let s := (s.addFlags F.hearth F.ce F.ctx w.nf rs).emit F 0 w.cons1 (targetFmt w).maxRun (rs.map Res.emit)
    some (outs.foldl (fun s x =>
      s.sendCons F.cc.bind F.cc.block F.slot 1 w.cons2 (if lost then .data else .ovf) x.1 [x.2] [] (fmtWords w.fmt)) s)

/-! ## Packing (R173) -/

/-- Elements of a 32-bit word. -/
def packCount (f : Fmt) : Nat := 32 / f.bits

/-- The words of a firing: one for each group of tags, in order; a BUBBLE member makes its word BUBBLE. -/
def packWords (f : Fmt) : List FPos → List Emit → List Emit
  | [], acc => acc.reverse
  | q :: rest, acc =>
    let g := packCount f
    let t : Iter := BitVec.ofNat 24 (q.iter.toNat / g)
    let part := (q.l.map fun v => elemBits f v * 2 ^ (f.bits * (q.iter.toNat % g)))
    let join (x : Option Val) : Option Val :=
      match x, part with
      | some a, some b => some (BitVec.ofNat 128 (a.toNat + b))
      | _, _ => none
    match acc with
    | x :: xs =>
      if x.iter = t then packWords f rest ({ x with val := join x.val } :: xs)
      else packWords f rest ({ iter := t, val := part.map (BitVec.ofNat 128) } :: x :: xs)
    | [] => packWords f rest [{ iter := t, val := part.map (BitVec.ofNat 128) }]

/-- The positions of one word: integers extended into the payload word, floating patterns as they are. -/
def unpackWord (f : Fmt) (q : FPos) : List Emit :=
  (List.range (packCount f)).map fun k =>
    { iter := BitVec.ofNat 24 (packCount f * q.iter.toNat + k)
      val := q.l.map fun v =>
        let e := v.toNat % 2 ^ 32 / 2 ^ (f.bits * k) % 2 ^ f.bits
        if f.isSigned then BitVec.ofNat 128 (wrapInt 32 (signedOf f.bits e)) else BitVec.ofNat 128 e }

/-- A firing with its own tags: one list of results to both consumers. -/
def ownTags (w : WordA) (cap : Nat) (res : Fire → List Emit) (s : State) : Option State :=
  match startFiring s with
  | none => none
  | some (F, s) => some (s.emitBoth F w.cons1 w.cons2 cap (res F))

/-! ## Scales (R174, R175) -/

/-- Whether the word's scales are e8 (R170). -/
def scaleE8 (w : WordA) : Bool := w.imm.toNat % 4 == 1

def isE8NaN (e8 : Bool) (v : Nat) : Bool := e8 && v % 256 == 255

/-- a × scale, rounded once (R174). -/
def scaleElem (w : WordA) (p : Policy) (a : FVal) (r : Nat) : Nat × Flags :=
  if isE8NaN (scaleE8 w) r then (fltNaN w.fmt, snanFlag [a])
  else fltMul p w.fmt w.mode.toNat w.sat a (scaleVal p (scaleE8 w) r)

/-- R + L × sa × sb, formed exactly and rounded once (R175). R117's order of NaN operands L, R, P does not name the bound scales: sa, then
sb, come after R (DESIGN CHOICE, assumption entry 105). -/
def scacElem (w : WordA) (p : Policy) (l r : FVal) (sa sb : Nat) : Nat × Flags :=
  let e8 := scaleE8 w
  let x := scaleVal p e8 sa
  let y := scaleVal p e8 sb
  let nans := [l, r, x, y]
  if isE8NaN e8 sa || isE8NaN e8 sb then (fltNaN w.fmt, snanFlag [l, r])
  else
    match prodExact l x with
    | none => (nanResult p w.fmt nans, flNV)
    | some q =>
      match prodExact q y with
      | none => (nanResult p w.fmt nans, flNV)
      | some q => sumFlt p w.fmt w.mode.toNat w.sat r q nans

/-- SCAC (R175). -/
def scacFiring (w : WordA) (s : State) : Option State :=
  elementwise w w.fmt (fun _ F o =>
    scacElem w F.policy (readFlt F.policy w.fmt (o.l.getD 0)) (readFlt F.policy w.fmt (o.r.getD 0))
      o.pair.1.toNat o.pair.2.toNat) s

/-- SCALE (R174): R is read in its payload, whatever the word's format. -/
def scaleFiring (w : WordA) (s : State) : Option State :=
  elementwise w w.fmt (fun _ F o =>
    scaleElem w F.policy (readFlt F.policy w.fmt (o.l.getD 0)) ((o.r.getD 0).toNat % 2 ^ 16)) s

/-! ## Codebook decode and keys (R176, R177) -/

/-- The shell table of the firing's block (R112). -/
def Fire.shell (F : Fire) : List (BitVec 32) := F.ch.image.shells.getD F.policy.cbtab []

/-- A weight in the target format: exact in every one (R176). -/
def weightBits (dst : Fmt) (w : Int) : Nat :=
  if dst.isInt then wrapInt dst.bits w else encodeFlt dst (.fin (w < 0) w.natAbs 0)

/-- The eight positions of an index. -/
def decodeIndex (shell : List (BitVec 32)) (dst : Fmt) (q : FPos) : List Emit :=
  (List.range 8).map fun k =>
    { iter := BitVec.ofNat 24 (8 * q.iter.toNat + k)
      val := q.l.map fun v => mkVal dst (weightBits dst ((cbWeights shell (v.toNat % 65536)).getD k 0)) }

/-- The format of a key (R177). -/
def keyFmt (f : Fmt) : Fmt := if f = .n8 then .n16 else if f = .n16 then .n32 else .n64

/-- KEY (R177). -/
def keyFiring (w : WordA) (s : State) : Option State :=
  elementwise w (keyFmt w.fmt) (fun _ _ o =>
    (elemBits w.fmt (o.l.getD 0) * 2 ^ w.fmt.bits + elemBits w.fmt (o.r.getD 0), 0)) s

/-! ## Meanings -/

/-- CVT (R171). -/
def execCvt (w : WordA) (s : State) : Host.Outcome State Fault Refusal := finish s (cvtFiring w s)

/-- CVTO (R121, R172). -/
def execCvto (w : WordA) (s : State) : Host.Outcome State Fault Refusal := finish s (narrowFiring false w s)

/-- CVTL (R121, R172). -/
def execCvtl (w : WordA) (s : State) : Host.Outcome State Fault Refusal := finish s (narrowFiring true w s)

/-- PACK (R173). -/
def execPack (w : WordA) (s : State) : Host.Outcome State Fault Refusal :=
  finish s (ownTags w 32 (fun F => packWords w.fmt F.f.pos []) s)

/-- UNPK (R173). -/
def execUnpk (w : WordA) (s : State) : Host.Outcome State Fault Refusal :=
  finish s (ownTags w 32 (fun F => (F.f.pos.map (unpackWord w.fmt)).flatten) s)

/-- SCAC (R175). -/
def execScac (w : WordA) (s : State) : Host.Outcome State Fault Refusal := finish s (scacFiring w s)

/-- SCALE (R174). -/
def execScale (w : WordA) (s : State) : Host.Outcome State Fault Refusal := finish s (scaleFiring w s)

/-- CBDEC (R176). -/
def execCbdec (w : WordA) (s : State) : Host.Outcome State Fault Refusal :=
  finish s (ownTags w 32 (fun F => (F.f.pos.map (decodeIndex F.shell (targetFmt w))).flatten) s)

/-- KEY (R177). -/
def execKey (w : WordA) (s : State) : Host.Outcome State Fault Refusal := finish s (keyFiring w s)

end Sys2Proof.Machine
end

