-- ==== Sys2Proof/Machine/Home.lean ====
section
/-!
DEFINITION. Sys2Proof/Machine/Home.lean: accesses performed at their home (R218, R278, R279): the operation itself (R213 to
R217), the cursor rule (R314), checks and poison (R42, R363), controllers (R342, R343), embers (R318, R319) and the placement
queue (R344).
-/

namespace Sys2Proof.Machine

/-! ## Updates (R215 to R217) -/

/-- Codes of an update, the same for ATOM, SCAT and REDN as far as they go (R88). -/
inductive Update where
  | add | min | max | exchange | or | and | xor
  deriving DecidableEq, Repr

def updateOf (n : Nat) : Update :=
  match n with
  | 0 => .add | 1 => .min | 2 => .max | 3 => .exchange | 4 => .or | 5 => .and | _ => .xor

/-- old op r in format `f`: integers wrap, floating addition rounds RNE under the policy, and no flag is kept. -/
def applyUpdate (u : Update) (p : Policy) (f : Fmt) (old r : Nat) : Nat :=
  let a := old % 2 ^ f.bits
  let b := r % 2 ^ f.bits
  let x := BitVec.ofNat 128 a
  let y := BitVec.ofNat 128 b
  match u with
  | .exchange => b
  | .or => a ||| b
  | .and => a &&& b
  | .xor => Nat.xor a b
  | .add =>
    if f.classF then (fltAdd p f 0 false (readFlt p f x) (readFlt p f y)).1
    else wrapInt f.bits (fmtInt f x + fmtInt f y)
  | .min =>
    if f.classF then (fltMinMax p f false (readFlt p f x) (readFlt p f y)).1
    else if fmtInt f x ≤ fmtInt f y then a else b
  | .max =>
    if f.classF then (fltMinMax p f true (readFlt p f x) (readFlt p f y)).1
    else if fmtInt f x ≤ fmtInt f y then b else a

/-- What an operation does to an element of `n` bytes: the value written, if one is. -/
def opNew (op : MemOp) (pol : Policy) (f : Fmt) (n old : Nat) (r p : Val) : Option Nat :=
  match op with
  | .load => none
  | .store => some (r.toNat % 256 ^ n)
  | .atom u => some (applyUpdate (updateOf u.toNat) pol f old r.toNat)
  | .scat u => some (applyUpdate (updateOf u.toNat) pol f old r.toNat)
  | .cas => if old = p.toNat % 256 ^ n then some (r.toNat % 256 ^ n) else none

def opKind : MemOp → AccessKind
  | .load => .read
  | .store => .write
  | _ => .atomic

def opReads : MemOp → Bool
  | .store => false
  | _ => true

def opWrites : MemOp → Bool
  | .load => false
  | _ => true

/-! ## An access to an element -/

/-- An element read, changed and written in one access (R278, R279). -/
def State.performAt (s : State) (ma n : Nat) (op : MemOp) (pol : Policy) (f : Fmt) (r p : Val) : Val × Bool × State :=
  let old := s.loadHome ma n
  match opNew op pol f n old r p with
  | some v => (BitVec.ofNat 128 old, true, s.storeHome ma (leBytes n v))
  | none => (BitVec.ofNat 128 old, false, s)

/-! ## Checks (R42, R363, R364) -/

/-- The stove, unit and physical hearth that the integrity counters name for a beat (R364): its stack's or package's controller, or for a
beat of a hearth's own memory the hearth that holds it, with the port's unit code (assumption entry 91). -/
def State.beatPlace3 (s : State) (ma : Nat) : Nat × BitVec 8 × BitVec 8 :=
  if slotBase ≤ ma then
    let h := (ma - slotBase) / slotSize
    (stoveOf h, 1, BitVec.ofNat 8 ((physicalOf (s.stove (stoveOf h)).hearthMap (logicalOf h)).getD 0xFF))
  else (owningStove ma, 9, 0xFF)

/-- The 16-bit carried check that the metadata bits of the 64-byte beat around `ma` hold (R42): whatever enters a beat, at Ethernet
ingress, from a CE or from the pooled tier, enters with a check of its own bytes, and every later write, copy and move writes the
beat whole with its check, so that the check is a function of the beat's bytes. That the two have come to differ is what the
`Check` of a read shows (log entry 99). -/
def State.beatCheck (s : State) (ma : Nat) : BitVec 16 := BitVec.ofNat 16 (crc16 (s.bytes (ma / 64 * 64) 64))

/-- A beat read at its home: a transient mismatch is counted, a lasting one is counted and poisons the beat. -/
def State.checkBeat (s : State) (ma : Nat) (c : Check) : State :=
  let p := s.beatPlace3 ma
  match c with
  | .good => s
  | .transient => s.countTransient p.1
  | .lasting => (s.countLasting p.1 p.2.1.toNat p.2.2.toNat).markPoison ma

/-- A read of the byte at `ma` checked at the home of record: a lasting mismatch of a copied line aborts the move, and the
read is served from the source (R316). -/
def State.checkRead (s : State) (ma : Nat) (c : Check) : State :=
  match c, s.moveAt ma with
  | .lasting, some m =>
    if !m.written && ma % 65536 / 256 < m.cursor then (s.countLasting (owningStove (s.readAt ma)) 9 0xFF).abortMove m 1
    else s.checkBeat (s.readAt ma) c
  | c, _ => s.checkBeat (s.readAt ma) c

/-- The checks of `n` bytes read at a home by an access that no event carries, beat by beat as the world gives them (R363). -/
def State.checkBeats (s : State) (ma n : Nat) : State :=
  if s.env.checks = [] then s
  else (List.range ((ma + n + 63) / 64 - ma / 64)).foldl (init := s) fun s i =>
    let (k, t) := s.nextCheck
    t.checkRead (64 * (ma / 64 + i)) k

/-- Such a read: its misses (R318) and its checks. -/
def State.noteReadAt (s : State) (ma n : Nat) (ember : Bool) (part : Nat) : State := (s.missAt ma n ember part).checkBeats ma n

/-- The same for `n` bytes at an address of an address space, page by page, as far as it can be translated. -/
def State.noteRead (s : State) (aspace va n : Nat) : State :=
  if s.env.checks = [] ∧ s.env.misses = [] then s
  else (List.range ((va % 65536 + n + 65535) / 65536)).foldl (init := s) fun s i =>
    let lo := max va ((va / 65536 + i) * 65536)
    let k := min (va + n) ((va / 65536 + i + 1) * 65536) - lo
    match s.stokerAddr aspace lo true false with
    | some ma => (s.missVia aspace lo k).checkBeats ma k
    | none => s

/-! ## Controllers (R342, R343) -/

def bucketKey (ctl v : Nat) : Nat := 1024 * ctl + v

/-- Tokens of a device at a controller; a bucket starts full (R342). -/
def State.bucket (s : State) (ctl v : Nat) : Int :=
  match Table.get? s.memSide.buckets (bucketKey ctl v) with
  | some n => n
  | none => (s.vdev v).burst.toNat

/-- Tokens taken, down to −burst (R342, R343). -/
def State.takeTokens (s : State) (ctl v n : Nat) : State :=
  let b : Int := (s.vdev v).burst.toNat
  s.setSide { s.memSide with buckets := Table.put s.memSide.buckets (bucketKey ctl v) (max (-b) (s.bucket ctl v - n)) }

/-- The device to which a move is charged: the lowest-numbered one of the requesting partition, none for the wholesaler (R342;
assumption entry 93). -/
def State.requesterDevice (s : State) (m : Move) : Option Nat :=
  if m.p = 255 then none
  else (s.adm.vdevs.find? fun (_, v) => v.state != 0 && v.partition.toNat == m.p).map Prod.fst

/-- Refresh window in which a cycle lies, and row of an address: assumption entry 9. -/
def State.window (s : State) : Nat := s.cycle / (Config.refreshWindow + 1)

def actKey (row v : Nat) : Nat := row * 1024 + v

/-- Activations of a row by a device in the present window. -/
def State.activations (s : State) (row v : Nat) : Nat :=
  let n := Table.getD s.memSide.acts (actKey row v) 0
  if n / 2 ^ 40 = s.window then n % 2 ^ 40 else 0

def State.countActivation (s : State) (row v : Nat) : State :=
  if s.mod.actLimit = 0 then s
  else s.setSide { s.memSide with
    acts := Table.put s.memSide.acts (actKey row v) (s.window * 2 ^ 40 + s.activations row v + 1) }

/-- Whether a device's next activation of a row goes to the deferred queue (R343): its activations have passed the limit,
or an earlier request of it to the row is there. -/
def State.defers (s : State) (ctl row v : Nat) : Bool :=
  s.mod.actLimit != 0 &&
  (s.mod.actLimit.toNat ≤ s.activations row v ||
   s.memSide.deferred.any fun d => d.controller == ctl && d.row == row && d.vdev == v)

/-- The deferred record of a request. -/
def State.deferredOf (s : State) (id : Nat) : Option Deferred := s.memSide.deferred.find? fun d => d.req == id

/-- A request enters its deferred queue, in arrival order. -/
def State.deferReq (s : State) (id v ctl row : Nat) : State :=
  s.setSide { s.memSide with
    deferred := s.memSide.deferred ++ [{ controller := ctl, vdev := v, row := row, req := id, granted := false }] }

/-! ## One access to memory -/

/-- Why an access is not performed: it waits (its state may note that), or it faults. -/
inductive Stop where
  | waits
  | fault (code : Nat) (stageW : Bool) (detail : List Nat)
  deriving DecidableEq, Repr

/-- Codes of the access field of a memory-model exception (R296); a copy's beat is 5, a stripe's chunk 6 and a gather 7. -/
def accessCode : MemOp → Nat
  | .load => 0 | .store => 1 | .atom _ => 2 | .cas => 3 | .scat _ => 4

/-- Detail of a memory-model exception (R296). -/
def raceDetail (access va : Nat) (x : Actor) (r : RaceRec) (writer : Bool) : List Nat :=
  [access, va, x.agent.toNat, x.epoch, r.agent.toNat, r.epoch, boolNat writer]

/-- Whether the channel of an address serves nothing, since it changes its rate point (R35). -/
def State.channelBusy (s : State) (ma : Nat) : Bool :=
  s.controllerOf ma < 12 && (Table.get? (s.stove (s.controllerOf ma)).changing (Config.channelOf ma)).isSome

/-- Whether the access of request `id` may be served by its controller now: `none`, or the state in which it waits. A
device without tokens waits while `others` says that a request with tokens is ready there (R342); a row over its limit
defers it until an activation is granted (R343); a channel that changes its rate point serves nothing (R35). -/
def State.controllerWaits (s : State) (id ma v beats : Nat) (others : Nat → Bool) : Option State :=
  let ctl := s.controllerOf ma
  if s.channelBusy ma then some s
  else match s.deferredOf id with
  | some d => if d.granted then none else some s
  | none =>
    if s.mod.actLimit != 0 && s.defers ctl (Config.rowOf ma) v then some (s.deferReq id v ctl (Config.rowOf ma))
    else if s.bucket ctl v < beats && others ctl then some s
    else none

/-- What a controller counts for a request of device `v` that it serves: its tokens and its activation; the request leaves the deferred
queue (R342, R343). -/
def State.chargeBeats (s : State) (id ma v beats : Nat) : State :=
  let s := s.setSide { s.memSide with deferred := s.memSide.deferred.filter fun d => d.req != id }
  (s.takeTokens (s.controllerOf ma) v beats).countActivation (Config.rowOf ma) v

/-- Controller and ember bookkeeping of an access that leaves its slice. -/
def State.countServed (s : State) (id ma v beats part : Nat) (x : Extent) : State :=
  let s := s.chargeBeats id ma v beats
  if x.xs then s else s.countMiss ma x.ember part

/-- A race check where the page is watched and not shared across modules (R291, R320). -/
def State.checkRace (s : State) (x : Extent) (a : Actor) (k : AccessKind) (ma n : Nat) : Except (RaceRec × Bool) State :=
  if x.watched && !x.xs then s.raceAccess a k ma n else .ok s

/-- Lines that the slice has evicted lose their race tags (R295). -/
def State.evict (s : State) (lines : List Nat) : State := lines.foldl (fun s l => s.dropLineTags l) s

/-- Piece `i` of bytes stored from `ma`, cut at the beats. -/
def beatPiece (ma : Nat) (bs : List Byte) (i : Nat) : Nat × List Byte :=
  let lo := max ma (64 * (ma / 64 + i))
  let hi := min (ma + bs.length) (64 * (ma / 64 + i + 1))
  (lo, (bs.drop (lo - ma)).take (hi - lo))

/-- Bytes written through the ember window (R319). -/
def State.writeEmbers (s : State) (ma : Nat) (bs : List Byte) : State :=
  bs.zipIdx.foldl (fun s (b, i) => s.emberChange (ma + i - emberBase) (s.ember (ma + i - emberBase)) b.toNat) s

/-- A piece of a store by an agent other than a charge, within one beat: embers change as R319 gives, a doorway of the injection window
takes no part of a record (R188), a frame of a tile that is not filling takes nothing (R195), and everything else is stored at its home (R298). -/
def State.machinePiece (s : State) (a : Nat) (l : List Byte) : State :=
  if emberBase ≤ a ∧ a < emberEnd then s.writeEmbers a l
  else if slotBase ≤ a ∧ a < slotEnd ∧ 0xE00000 ≤ (a - slotBase) % slotSize ∧ (a - slotBase) % slotSize < 0xEC0000 then
    s.countInj ((a - slotBase) / slotSize)
  else if slotBase ≤ a ∧ a < slotEnd ∧ s.tileBlocksAt a then s.countWindow
  else (s.storeHome a l).clearTags a l.length

/-- A store by an agent other than a charge (R291, R298): beat by beat at its home, not checked for races, clearing the race
tags of the beats it touches. A piece that lies outside the map, or cannot be written, is discarded there and counted. -/
def State.machineWrite (s : State) (ma : Nat) (bs : List Byte) : State :=
  ((List.range ((ma + bs.length + 63) / 64 - ma / 64)).map (beatPiece ma bs)).foldl (fun s x => s.machinePiece x.1 x.2) s

/-- An element access through an extent, checked and performed (R42, R294, R305, R314, R320); `ac` is its code in a memory-model
exception. -/
def State.accessMem (s : State) (x : Extent) (a : Actor) (id v : Nat) (va ma n : Nat) (op : MemOp) (ac : Nat) (pol : Policy) (f : Fmt)
    (r p : Val) (phys : Phys) (others : Nat → Bool) : Except (Stop × State) (Val × Bool × State) :=
  let out := phys.miss || x.xs
  if x.xs && opKind op == .atomic then .error (.fault 4 true [], s)
  else match (if out then s.controllerWaits id ma v 1 others else none) with
    | some s => .error (.waits, s)
    | none =>
      let s := s.evict phys.evict
      let s := if opReads op then s.checkRead ma phys.check else s
      let at_ := s.readAt ma
      if opReads op && s.anyPoison at_ n then .error (.fault 8 false [at_], s)
      else match s.checkRace x a (opKind op) ma n with
        | .error (rec, w) => .error (.fault 0x16 false (raceDetail ac va a rec w), s)
        | .ok s =>
          let s := if out then s.countServed id ma v 1 a.part x else s
          .ok (s.performAt ma n op pol f r p)

/-- An element access to on-chip bytes at a machine address: checks and poison, no translation and no race check. -/
def State.accessPad (s : State) (ma n : Nat) (op : MemOp) (pol : Policy) (f : Fmt) (r p : Val) (c : Check) :
    Except (Stop × State) (Val × Bool × State) :=
  let s := if opReads op then s.checkBeat ma c else s
  if opReads op && s.anyPoison ma n then .error (.fault 8 false [ma], s)
  else .ok (s.performAt ma n op pol f r p)

end Sys2Proof.Machine
end

