-- ==== Sys2Proof/Machine/Program.lean ====
section
/-!
DEFINITION. Sys2Proof/Machine/Program.lean: the AG and MT programs of a charge (R200, R202, R203), and the records of the chains that
run them (R62).
-/

namespace Sys2Proof.Machine

/-! ## Programs (R200, R202, R203) -/

/-- A level of an AG program. -/
structure Level where
  count   : Nat
  tstride : Int
  estride : Int
  deriving DecidableEq, Repr

/-- An AG program, decoded. -/
structure AgProg where
  tl     : Nat
  track  : Nat
  region : Nat
  scope  : Nat
  fmt    : Fmt
  bubbleOk : Bool
  /-- a read AG's channel (R208): tagged, or ordered -/
  tagged : Bool
  write  : Bool
  ag     : Nat
  shape  : Nat
  start  : Nat
  tag0   : Iter
  levels : List Level
  deriving DecidableEq, Repr

def agProg (bs : List Byte) : AgProg :=
  let w := leNat (bs.take 8)
  let at_ (o n : Nat) : Nat := leNat ((bs.drop o).take n)
  { tl := bitsOf w 55 48, track := bitsOf w 47 40, region := bitsOf w 37 32, scope := bitsOf w 31 29,
    fmt := Fmt.ofCode (bitsOf w 28 25), bubbleOk := bitOf w 24, tagged := bitOf w 23, write := bitOf w 22, ag := bitsOf w 21 18,
    shape := bitsOf w 17 10, start := at_ 8 8, tag0 := BitVec.ofNat 24 (at_ 16 4),
    levels := (List.range (bitsOf w 39 38 + 1)).map fun l =>
      { count := at_ (32 + 16 * l) 4, tstride := signedOf 32 (at_ (36 + 16 * l) 4),
        estride := signedOf 64 (at_ (40 + 16 * l) 8) } }

/-- An MT program, decoded. -/
structure MtProg where
  shape : Nat
  mt    : Nat
  tile  : Nat
  track : Nat
  tl    : Nat
  tag0  : Iter
  deriving DecidableEq, Repr

def mtProg (bs : List Byte) : MtProg :=
  let w := leNat (bs.take 8)
  { shape := bitsOf w 9 2, mt := bitsOf w 13 10, tile := bitsOf w 20 14, track := bitsOf w 28 21, tl := bitsOf w 36 29,
    tag0 := BitVec.ofNat 24 (leNat ((bs.drop 8).take 4)) }

def Charge.agAt (c : Charge) (h n : Nat) : Option AgProg :=
  (c.image.ags.map agProg).find? fun p => c.region.getD p.shape hearthCount == h && p.ag == n

def Charge.mtAt (c : Charge) (h n : Nat) : Option MtProg :=
  (c.image.mts.map mtProg).find? fun p => c.region.getD p.shape hearthCount == h && p.mt == n

/-- Iterations of a program. -/
def AgProg.total (p : AgProg) : Nat := p.levels.foldl (fun n l => n * l.count) 1

/-- Element index and tag of iteration `k`, counting i0 fastest. -/
def AgProg.point (p : AgProg) (k : Nat) : Int × Iter :=
  let r := p.levels.foldl (fun (acc : Nat × Int × Int) l =>
    let i := acc.1 % l.count
    (acc.1 / l.count, acc.2.1 + i * l.estride, acc.2.2 + i * l.tstride)) (k, (p.start : Int), (p.tag0.toNat : Int))
  (r.2.1, BitVec.ofInt 24 r.2.2)

/-- Scope of a program's code. -/
def scopeOf (n : Nat) : Scope := match n with | 1 => .h | 2 => .s | 3 => .m | 4 => .d | _ => .e

/-! ## Chains (R62) -/

def chainKey (n b : Nat) : Nat := 1024 * n + b

/-- A chain's record: AG, MT or matrix sequencer of a charge. -/
def State.chain? (s : State) (c : Chain) : Option ChainSt :=
  match c with
  | .ag h n b => Table.get? (s.hearth h).ags (chainKey n b)
  | .mt h n b => Table.get? (s.hearth h).mts (chainKey n b)
  | .mx h e b => Table.get? (s.hearth h).mxs (chainKey e b)

def State.modChain (s : State) (c : Chain) (f : ChainSt → ChainSt) : State :=
  match c with
  | .ag h n b => s.modHearth h fun x => { x with ags := Table.modify x.ags (chainKey n b) f }
  | .mt h n b => s.modHearth h fun x => { x with mts := Table.modify x.mts (chainKey n b) f }
  | .mx h e b => s.modHearth h fun x => { x with mxs := Table.modify x.mxs (chainKey e b) f }

def chainBind : Chain → Nat
  | .ag _ _ b | .mt _ _ b | .mx _ _ b => b

def chainHearth : Chain → Nat
  | .ag h _ _ | .mt h _ _ | .mx h _ _ => h

/-- Timeline of a chain's program, 0xFF for none. -/
def Charge.chainTl (c : Charge) (k : Chain) : Nat :=
  match k with
  | .ag h n _ => ((c.agAt h n).map AgProg.tl).getD 0xFF
  | .mt h n _ => ((c.mtAt h n).map MtProg.tl).getD 0xFF
  | .mx _ _ _ => 0xFF

/-- The engine as it acts for a copy, a command or a stream with a timeline (R276, R292). -/
def Charge.engine (c : Charge) (n epoch : Nat) (v : Vec) : Actor :=
  { agent := ((c.timelines[n]?).map (·.agent)).getD c.agent, epoch := epoch, table := v, part := c.part }

/-- The agent of a stream: the engine context of its timeline, or without one its charge (R276). -/
def Charge.streamActor (c : Charge) (k : Chain) (g : ChainSt) (epoch : Nat) : Actor :=
  if c.chainTl k = 0xFF then c.actor epoch else c.engine (c.chainTl k) epoch g.vec

end Sys2Proof.Machine
end

