-- ==== Sys2Proof/Machine/MemPort.lean ====
section
/-!
DEFINITION. Sys2Proof/Machine/MemPort.lean: the memory ports (R205 to R210) and their words LD, ST, LDS, STS, ATOM, CAS, GATH
and SCAT (R212 to R217), with the accesses of their positions and the replies and completions that follow.
-/

namespace Sys2Proof.Machine

/-! ## Hearth-slot windows that a region reaches (R186, R190) -/

/-- A tile-table entry as it reads (R194). -/
def TileEntry.word (x : TileEntry) : Nat :=
  if x.mapped then
    x.frame.toNat * 2 ^ 23 + x.fmt.code * 2 ^ 19 + boolNat x.bmv * 2 ^ 18 + x.owner.toNat * 2 ^ 14 + x.busy.toNat * 2 ^ 8 +
    2 ^ 7 + x.state.toNat
  else 0

def State.tile (s : State) (h t : Nat) : TileEntry := Table.getD (s.hearth h).tiles t .reset

/-- Whether index `i` of a join accumulator file lies in context `c`'s partition on the hearth (R258). -/
def State.inJoin (s : State) (h c i : Nat) : Bool :=
  match Table.get? (s.hearth h).joins c with
  | some j => j.abase ≤ i && i < j.abase + 2 ^ j.q
  | none => false

/-- Whether bytes of a join accumulator file lie in a partition one of whose operations is under way, a drain or one that waits or is
parked at the ash: a write of them waits, since it changes a slot between two operations of the partition (R270; assumption entry 96). -/
def State.jafHeld (s : State) (h off n : Nat) : Bool :=
  (s.hearth h).joins.any fun (_, j) => (j.draining.isSome || !j.memo.isEmpty) &&
    (List.range ((off + n + 63) / 64 - off / 64)).any fun i =>
      let k := (off / 64 + i) % 2048
      j.abase ≤ k && k < j.abase + 2 ^ j.q

/-- The same for bytes at a machine address. -/
def State.jafHeldAt (s : State) (a n : Nat) : Bool :=
  slotBase ≤ a && a < slotEnd && 0x800000 ≤ (a - slotBase) % slotSize && (a - slotBase) % slotSize < 0xC00000 &&
  s.jafHeld ((a - slotBase) / slotSize) ((a - slotBase) % slotSize - 0x800000) n

/-- Join slot at the origin of context `c`'s state in a peer window: the first of its partition (R190, R258). -/
def State.joinOrigin (s : State) (h c : Nat) : Nat := ((Table.get? (s.hearth h).joins c).map Join.abase).getD 0

/-- Tile-table entry at the origin of context `c`'s state in a peer window: the first that holds a tile of it (R190). -/
def State.tileOrigin (s : State) (h c : Nat) : Nat :=
  (((s.hearth h).tiles.find? fun (_, x) => x.mapped && x.owner.toNat == c).map Prod.fst).getD 0

/-- Machine address that an offset of a peer window reaches for context `c`, if it is the context's own state. Offsets count from the
first byte of that state in the window (R190; assumption entry 33). -/
def State.windowAddr (s : State) (h c w off : Nat) : Option Nat :=
  match w with
  | 1 =>
    let i := s.joinOrigin h c + off / 64
    if i < 0x10000 ∧ s.inJoin h c (i % 2048) then some (jafAddr h i + off % 64) else none
  | 3 => if off < 0x30000 ∧ off % 0x1000 < 0x100 then some (paramAddr h (off / 0x1000) c (off % 0x100 / 4) + off % 4) else none
  | _ => none

/-- Whether a write of `n` bytes to a window waits for an operation of a join partition (R270). -/
def State.windowHeld (s : State) (h c w off n : Nat) : Bool :=
  w = 1 && (s.windowAddr h c w off).any fun a => s.jafHeldAt a n

/-- Byte of the tile table as it shows to context `c` on hearth `h`, counted from the first entry that holds a tile of it. -/
def State.tileTableByte (s : State) (h c off : Nat) : Byte :=
  let n := s.tileOrigin h c + off / 4
  let t := s.tile h n
  if n < 128 ∧ t.mapped ∧ t.owner.toNat = c then BitVec.ofNat 8 (t.word / 256 ^ (off % 4)) else 0

/-- An element read from a window: the tile table is computed, byte by byte over as many entries as the element reaches (R191), and the
injection window and foreign state read zero. -/
def State.readWindow (s : State) (h c w off len : Nat) : Nat :=
  if w = 2 then leNat ((List.range len).map fun i => s.tileTableByte h c (off + i))
  else match s.windowAddr h c w off with
    | some a => s.nat a len
    | none => 0

/-- An element written to a window. A write of less than a record to the injection window is discarded and counted. -/
def State.writeWindow (s : State) (h c w off n v : Nat) : State :=
  match s.windowAddr h c w off with
  | some a => s.store a (if w = 1 then jafBytes off (leBytes n v) else leBytes n v)
  | none => if w = 4 then s.countInj h else s

/-! ## Domain accesses (R190) -/

/-- An access to memory of this module made from another one, or from a domain region that names this module: the page is
walked afresh, and only the operation itself is performed. -/
def State.accessDomain (s : State) (aspace : Nat) (cid : BitVec 8) (va n : Nat) (op : MemOp) (pol : Policy) (f : Fmt)
    (r p : Val) (phys : Phys) : Except (Stop × State) (Val × Bool × State) :=
  let a := s.aspace aspace
  if !a.enable then .error (.fault 1 false [], s)
  else match (s.walkPage a (some cid) 0 va).grant (opReads op) (opWrites op) with
    | .error (f, w) => .error (.fault (walkCode f) w [], s)
    | .ok x =>
      let ma := x.machine va
      if x.xs && opKind op == .atomic then .error (.fault 4 true [], s)
      else
        let s := s.evict phys.evict
        let s := if opReads op then s.checkRead ma phys.check else s
        let at_ := s.readAt ma
        if opReads op && s.anyPoison at_ n then .error (.fault 8 false [at_], s)
        else
          let s := if phys.miss && !x.xs then s.countMiss ma x.ember a.partition.toNat else s
          .ok (s.performAt ma n op pol f r p)

/-! ## Issue -/

/-- What a port word asks for. -/
structure PortWord where
  op     : MemOp
  /-- positions owe a reply (R205) -/
  owes   : Bool
  /-- R is a data operand; P is one (CAS) or a predicate -/
  data   : Bool
  cas    : Bool
  gather : Bool
  wide   : Bool
  deriving DecidableEq, Repr

/-- A position of a port word: bubble, predicated off, or live (R206). -/
inductive Live where
  | bubble | off | live
  deriving DecidableEq, Repr

def liveOf (k : PortWord) (arity : Nat) (q : FPos) : Live :=
  if q.l.isNone || (k.data && q.r.isNone) || (arity = 3 && q.p.isNone) then .bubble
  else if arity = 3 && !k.cas && !(bitOf (q.p.getD 0).toNat 0) then .off
  else .live

/-- Positions that hold a place in a port's reorder buffer (R205). -/
def State.portHeld (s : State) (b h n : Nat) : Nat :=
  (s.fab.reqs.filter fun q => q.bind == b && q.hearth == h && q.region == n).length

/-- The region's port accepts only so many positions (R205). -/
def State.portFull (s : State) (b h n k : Nat) : Bool := 256 < s.portHeld b h n + k

/-- Requests of a firing's positions, and their numbers of live positions. -/
def portReqs (s : State) (F : Fire) (w : WordM) (k : PortWord) (flight : Nat) : List Req :=
  F.f.pos.zipIdx.filterMap fun (q, i) =>
    let v := liveOf k w.arity.toNat q
    if v = .off ∨ (v = .bubble ∧ !k.owes) then none
    else some
      { id := s.fab.nextId + 1 + i, flight := flight, bind := F.cc.bind, hearth := F.hearth, ce := F.ce, slot := F.slot,
        unit := if k.gather then .gather else .port w.region.toNat, index := i, iter := q.iter, op := k.op, fmt := w.fmt,
        tagged := w.chan, wide := k.wide, region := w.region.toNat, elem := (q.l.getD 0).toNat % 2 ^ 32, r := q.r.getD 0, p := q.p.getD 0,
        scope := w.scope, bubbleOk := w.fpol, live := v = .live, owes := k.owes, epoch := F.ch.epoch, done := v = .bubble,
        reply := none, wrote := false, parked := false, left := false, cycle := s.cycle }

/-- A port word's firing: it waits while its port has no room; otherwise its positions enter the issue order, a storing
word raises the store-acknowledgement count and acknowledges at once, and a firing without live positions completes
(R205 to R209). -/
def portFiring (w : WordM) (k : PortWord) (s : State) : Option State :=
  match startFiring s with
  | none => none
  | some (F, s) =>
    let flight := s.fab.nextId
    let reqs := portReqs s F w k flight
    if s.portFull F.cc.bind F.hearth w.region.toNat reqs.length then none
    else
      let live := (reqs.filter (·.live)).length
      let store := opWrites k.op
      let fl : Flight :=
        { id := flight, bind := F.cc.bind, hearth := F.hearth, ce := F.ce, slot := F.slot, region := w.region.toNat,
          iter0 := F.tag0, tagged := w.chan, cmpl := w.cmpl, store := store, owes := k.owes, accepted := live, count := 0,
          closed := live = 0 }
      let s := s.setFab { s.fab with
        nextId := s.fab.nextId + 1 + F.f.pos.length
        reqs := s.fab.reqs ++ reqs
        flights := if reqs.isEmpty then s.fab.flights else s.fab.flights ++ [fl] }
      let s := if store then s.raiseAcks F.cc.bind live else s
      let ack : Option Val := some (BitVec.ofNat 128 live)
      let s := if k.owes then s else s.emitOne F 0 w.cons1 F.tag0 ack
      let s := if k.owes || w.cmpl then s else s.emitOne F 1 w.cons2 F.tag0 ack
      some (if w.cmpl && live = 0 then s.emitOne F 1 w.cons2 F.tag0 (some 0) else s)

/-- LD and LDS (R212). -/
def loadWord : PortWord := { op := .load, owes := true, data := false, cas := false, gather := false, wide := false }
/-- ST and STS (R213). -/
def storeWord : PortWord := { op := .store, owes := false, data := true, cas := false, gather := false, wide := false }

/-- ATOM (R216). -/
def atomWord (w : WordM) : PortWord :=
  { op := .atom w.op, owes := bitOf w.aux.toNat 0, data := true, cas := false, gather := false, wide := false }

/-- CAS (R217). -/
def casWord (w : WordM) : PortWord :=
  { op := .cas, owes := true, data := true, cas := true, gather := false, wide := bitOf w.aux.toNat 0 }

/-- GATH (R214). -/
def gathWord : PortWord := { loadWord with gather := true }

/-- SCAT (R215). -/
def scatWord (w : WordM) : PortWord :=
  { op := .scat w.op, owes := false, data := true, cas := false, gather := true, wide := false }

/-! ## Order (R207, R280) -/

/-- Bytes of a request's region that it touches: offset from the region's start, and length. -/
def Req.span (q : Req) (c : Charge) : Nat × Nat :=
  let n := elemBytes q.fmt q.wide
  (((c.region? q.region).map Region.base).getD 0 + q.elem * n, n)

def overlap (a b : Nat × Nat) : Bool := a.1 < b.1 + b.2 && b.1 < a.1 + a.2

/-- MT that holds a request's element (R214). -/
def State.mtOf (s : State) (c : Charge) (q : Req) : Nat :=
  match c.region? q.region with
  | some r => match s.place c q.hearth r (q.span c).1 false false with
    | .ok (.pad _ ma) => (ma - slotBase) % slotSize / 0x80000
    | _ => 0
  | none => 0

/-- Whether an earlier request `e` of the same port must be performed before `q` (R207). -/
def State.portOrders (s : State) (c : Charge) (e q : Req) : Bool :=
  e.live && !e.done && e.bind == q.bind && e.hearth == q.hearth && e.region == q.region &&
  (opWrites q.op || (opWrites e.op && overlap (e.span c) (q.span c))) &&
  ((e.unit != .gather && q.unit != .gather) || s.mtOf c e == s.mtOf c q)

/-- Whether a load `e` of the charge on the hearth, from an earlier cycle, must be performed before `q` writes (R280). -/
def chargeOrders (e q : Req) : Bool :=
  e.live && !e.done && e.bind == q.bind && e.hearth == q.hearth && !(opWrites e.op) && opWrites q.op && e.cycle < q.cycle

/-- Whether a load that charge `b` issued on hearth `h` outside its ports, in a handler's MGATH or in a walk of the index engine, comes
from before a cycle (R280). -/
def State.loadsBefore (s : State) (b h ctx cycle : Nat) : Bool :=
  let x := s.hearth h
  let gather (e : Nat) (m : MCtx) : Bool := m.owner == some b && m.queue.any fun y => match y with
    | .word slot _ _ _ _ _ at_ => at_ < cycle && (s.wordAt h e ctx slot).any fun w => wordOp w == 0xA1
    | .scale .. => false
  (x.ie.any fun w => w.bind == b && w.cycle < cycle) || x.ces.any fun (e, ce) => gather e ce.mx0 || gather e ce.mx1

/-- Whether a JU firing of charge `b` on hearth `h` that started before a cycle has not ended: its operations may read the ash
(R280; which ash bytes it has still to read is not foreseen: DESIGN CHOICE, assumption entry 112). -/
def State.begunBefore (s : State) (b h ctx cycle : Nat) : Bool :=
  (Table.get? (s.hearth h).joins ctx).any fun j => j.bind == b && j.begun.any fun x => x.cycle < cycle

/-- Whether such a load, or such a firing of the JU, comes from an earlier cycle than the write `q`. -/
def State.unitOrders (s : State) (c : Charge) (q : Req) : Bool :=
  opWrites q.op && (s.loadsBefore q.bind q.hearth c.ctx q.cycle || s.begunBefore q.bind q.hearth c.ctx q.cycle)

/-- Whether some earlier request holds `q` back. -/
def State.heldByOrder (s : State) (c : Charge) (q : Req) : Bool :=
  s.unitOrders c q ||
  (s.fab.reqs.takeWhile fun e => e.id != q.id).any fun e => s.portOrders c e q || chargeOrders e q

/-! ## Faults (R210, R351, R358) -/

/-- Unit code of a request (R351). -/
def ReqUnit.code : ReqUnit → Nat
  | .port _ => 1
  | .gather => 3
  | .ie => 4
  | .ag _ => 2

/-- Block and CE-context of a request's word. -/
def State.blockOf (s : State) (c : Charge) (h e : Nat) : Option Block :=
  if ceCount ≤ e then none else (s.ctx? h e c.ctx).bind fun cc => c.block? cc.block

/-- A fault of an access of charge `b`: bubbled where the word asks for it and the list has room, otherwise it freezes the
charge. Answers whether it was bubbled. -/
def State.accessFault (s : State) (b : Nat) (bubbleOk : Bool) (r : FaultRec) (slot : Nat) (it : Iter) (elem : Nat) :
    Bool × State :=
  match s.charge? b with
  | none => (true, s)
  | some c =>
    match c.phase with
    | .halting _ | .aborting => (true, s)
    | _ =>
      if bubbleOk ∧ 1 ≤ r.code ∧ r.code ≤ 8 ∧ c.bubbles.length < 4096 then
        let rec_ : Bubble := { block := r.block, slot := slot, code := r.code, iter := it, elem := BitVec.ofNat 32 elem }
        let key := (r.address.toNat / 65536, r.code)
        let new := !(c.bubbled.contains key)
        let s := (s.putBubble c rec_).modCharge b fun c =>
          { c with bubbles := c.bubbles ++ [rec_], bubbled := if new then c.bubbled ++ [key] else c.bubbled,
                   bubbleHolds := if new then c.bubbleHolds + 1 else c.bubbleHolds }
        let s := s.putHeader b
        (true, if new then s.post { r with frozen := false, bubbled := true } else s)
      else (false, s.raiseFault b r)

/-- The record of a fault at a request. -/
def State.reqRec (s : State) (c : Charge) (q : Req) (code : Nat) (stageW remote : Bool) (addr : Nat) (detail : List Nat) :
    FaultRec :=
  { s.faultRec q.bind code q.hearth with
    stageW := stageW, remote := remote, tag := faultTag c.ctx q.iter, address := BitVec.ofNat 64 addr,
    block := ((s.blockOf c q.hearth q.ce).map Block.id).getD 0xFFFFFFFF, slot := q.slot, ce := q.ce, unit := q.unit.code,
    detail := detail }

/-- A request whose position is BUBBLE: it is done, or leaves where it owes no reply. -/
def State.reqBubble (s : State) (q : Req) : State :=
  if q.owes then s.modReq q.id fun q => { q with done := true, reply := none, wrote := false }
  else s.setFab { s.fab with reqs := s.fab.reqs.filter fun x => x.id != q.id }

/-- A request that a closed damper discards, counted (R15): it stands at its port, and in a charge that ends it ends with it (R98). -/
def State.reqDamped (s : State) (c : Charge) (q : Req) : State :=
  match c.phase with
  | .halting _ | .aborting => (s.countDamper 1).reqBubble q
  | _ => (s.countDamper 1).modReq q.id fun q => { q with parked := true }

/-- A request that faults: its position is BUBBLE and done, or it is parked. -/
def State.reqFault (s : State) (c : Charge) (q : Req) (code : Nat) (stageW remote : Bool) (addr : Nat)
    (detail : List Nat) : State :=
  let s := s.raceRaised c code
  let (bub, s) := s.accessFault q.bind q.bubbleOk (s.reqRec c q code stageW remote addr detail) q.slot q.iter q.elem
  if bub then s.reqBubble q
  else (s.modReq q.id fun q => { q with parked := true }).parkKey q.bind (reqKey q.id)

/-! ## HOME_ACCESS of a request (R218) -/

/-- Removes a request that has left its port, and its flight when nothing of it remains. -/
def State.dropReqs (s : State) (ids : List Nat) : State :=
  let s := s.setFab { s.fab with reqs := s.fab.reqs.filter fun q => !(ids.contains q.id) }
  s.setFab { s.fab with
    flights := s.fab.flights.filter fun f =>
      !((f.closed || (!f.store && !f.cmpl)) && !(s.fab.reqs.any fun q => q.flight == f.id)) }

/-- A request performed: its reply waits in the reorder buffer, or it leaves (R205). -/
def State.reqDone (s : State) (q : Req) (old : Val) (wrote : Bool) : State :=
  let s := s.modFlight q.flight fun f => { f with count := f.count + 1 }
  let s := s.modReq q.id fun q => { q with done := true, reply := some old, wrote := wrote }
  if q.owes then s else s.setFab { s.fab with reqs := s.fab.reqs.filter fun x => x.id != q.id }

/-- Machine address and extent of a pending request, when it lies in memory behind a controller. -/
def State.reqMa (s : State) (q : Req) : Option Nat :=
  match s.charge? q.bind with
  | none => none
  | some c => match c.region? q.region with
    | none => none
    | some r => match s.place c q.hearth r (q.span c).1 (opReads q.op) (opWrites q.op) with
      | .ok (.mem ma _) => some ma
      | _ => none

/-! ### Requests that are ready at a controller (R342) -/

/-- Machine address of byte `off` of a region of charge `c` on hearth `h`, when it lies in memory behind a controller and may be
accessed. -/
def State.regionMa (s : State) (c : Charge) (h region off : Nat) (rd wr : Bool) : Option Nat :=
  match c.region? region with
  | none => none
  | some r => match s.place c h r (r.base + off) rd wr with
    | .ok (.mem ma _) => some ma
    | _ => none

/-- A request ready at the controller of a machine address: identifier, device, beats. -/
structure ReadyReq where
  id    : Nat
  vdev  : Nat
  beats : Nat
  ma    : Nat
  deriving DecidableEq, Repr

/-- Identifier under which an AG's write stands in a deferred queue, the walk at the head of an index engine's queue, a gather
of a CE, a join unit's operation, and a move's line copy. -/
def agId (h n b : Nat) : Nat := 2 ^ 40 + (h * 16 + n) * 1024 + b
def ieId (h : Nat) : Nat := 2 ^ 41 + h
def gatherId (h e : Nat) (second : Bool) : Nat := 2 ^ 42 + boolNat second * 16384 + h * 48 + e
def juId (h c : Nat) : Nat := 2 ^ 43 + 16 * h + c
def moveId (n : Nat) : Nat := 2 ^ 44 + n

/-- Whether a request in a deferred queue still stands: its unit has neither dropped it nor ended (R343). -/
def State.requestStands (s : State) (id : Nat) : Bool :=
  if id < 2 ^ 40 then
    (s.fab.reqs.any fun q => q.id == id) || (s.fab.copies.any fun p => p.id == id) || (s.fab.nmcs.any fun m => m.id == id) ||
      s.fab.fetches.any fun x => x.id == id
  else if id < 2 ^ 41 then
    let k := id - 2 ^ 40
    (s.hearth (k / 16384)).ags.any fun (n, g) => n == k % 16384 && g.running
  else if id < 2 ^ 42 then (s.hearth (id - 2 ^ 41)).ie.any fun w => w.want.isSome
  else if id < 2 ^ 43 then
    let k := (id - 2 ^ 42) % 16384
    ((s.ce (k / 48) (k % 48)).mx (id - 2 ^ 42 ≥ 16384)).mgath != 0
  else if id < 2 ^ 44 then
    (Table.get? (s.hearth ((id - 2 ^ 43) / 16)).joins ((id - 2 ^ 43) % 16)).any fun j => j.want.isSome
  else s.memSide.moves.any fun m => moveId m.id == id

/-- Whether the phase of a charge lets its requests be performed (R98, R355). -/
def Charge.serves (c : Charge) : Bool :=
  match c.phase with
  | .running | .freezing | .halting _ | .aborting => true
  | _ => false

/-- The positions of the ports. -/
def State.readyPorts (s : State) : List ReadyReq :=
  s.fab.reqs.filterMap fun q =>
    match s.charge? q.bind with
    | none => none
    | some c =>
      if !c.serves ∨ !q.live ∨ q.done ∨ q.parked ∨ s.heldByOrder c q then none
      else (s.reqMa q).map fun ma => { id := q.id, vdev := c.vdev, beats := 1, ma := ma }

/-- The next writes of the AGs of a hearth. -/
def State.readyAgs (s : State) (h : Nat) (x : Hearth) : List ReadyReq :=
  x.ags.filterMap fun (k, g) =>
    match s.charge? (k % 1024) with
    | none => none
    | some c => match c.agAt h (k / 1024) with
      | none => none
      | some p =>
        if !c.engines ∨ !p.write ∨ !g.running ∨ g.parked ∨ p.total ≤ g.index ∨ g.fifo.isEmpty then none
        else (s.regionMa c h p.region ((p.point g.index).1.toNat * elemBytes p.fmt false) false true).map fun ma =>
          { id := agId h (k / 1024) (k % 1024), vdev := c.vdev, beats := 1, ma := ma }

/-- The next beats of the copies, the next stripes of the commands, the lines that PFCH asks for and the next lines of the moves. -/
def State.readyEngines (s : State) : List ReadyReq :=
  (s.fab.copies.flatMap fun p =>
    match s.charge? p.bind with
    | none => []
    | some c =>
      if !c.engines ∨ p.parked ∨ p.status.isSome ∨ p.length ≤ p.next then []
      else ((s.regionMa c p.hearth p.srcRegion (p.src + p.next) true false).toList ++
          (s.regionMa c p.hearth p.dstRegion (p.dst + p.next) false true).toList).map fun ma =>
        { id := p.id, vdev := c.vdev, beats := 1, ma := ma }) ++
  (s.fab.nmcs.flatMap fun m =>
    match s.charge? m.bind with
    | none => []
    | some c =>
      if !c.engines ∨ m.status.isSome ∨ m.count ≤ m.done then []
      else (s.regionMa c m.hearth m.region (m.target + 4096 * m.done) true true).toList.map fun ma =>
        { id := m.id, vdev := c.vdev, beats := 64, ma := ma }) ++
  (s.fab.fetches.flatMap fun x =>
    match s.charge? x.bind with
    | none => []
    | some c => if c.serves then [{ id := x.id, vdev := c.vdev, beats := 4, ma := x.ma }] else []) ++
  (s.memSide.moves.flatMap fun m =>
    match s.requesterDevice m with
    | none => []
    | some v =>
      if m.written ∨ 256 ≤ m.cursor then []
      else [m.src, m.dst].map fun f => { id := moveId m.id, vdev := v, beats := 4, ma := f * 65536 + 256 * m.cursor })

/-- The walk of an index engine that goes next (R271): the oldest one whose charge may go on and that is not parked. -/
def State.nextWalk (s : State) (h : Nat) : Option Walk :=
  (s.hearth h).ie.find? fun w => !w.parked && (s.charge? w.bind).any fun c => c.serves && c.mayTry (ieKey h)

/-- The next read of an index engine: the one with which its walk waits, or the first of a walk, which reads the number of elements. -/
def State.readyWalk (s : State) (h : Nat) : List ReadyReq :=
  match s.nextWalk h with
  | none => []
  | some w =>
    match s.charge? w.bind with
    | none => []
    | some c =>
      let first := if w.memo.isEmpty && !w.bubble then
          s.regionMa c h w.region (4 * ((w.quad.getD 0 0).toNat + (w.quad.getD 2 0).toNat)) true false else none
      ((w.want.orElse fun _ => first).map fun ma => { id := ieId h, vdev := c.vdev, beats := 1, ma := ma }).toList

/-- Positions whose elements an MGATH entry reads (R251). -/
def liveRows (pos : List FPos) : List FPos := pos.filter fun q => q.l.isSome

/-- The `k`-th element that an MGATH of word `w` reads (R251): its position, its index and its column. -/
def gatherElem (w : BitVec 64) (pos : List FPos) (p0 p1 : BitVec 32) (k : Nat) : Option (FPos × Nat × Nat) :=
  let n := 2 ^ (bitsOf w.toNat 28 24 % 8)
  ((liveRows pos)[k / n]?).map fun q => (q, (q.l.getD 0).toNat % 2 ^ 32 * p0.toNat + p1.toNat + k % n, k % n)

/-- The next read of a gather under way in a matrix context of CE `e`. -/
def State.readyGather (s : State) (h e : Nat) (second : Bool) : List ReadyReq :=
  let m := (s.ce h e).mx second
  if m.mgath = 0 ∨ m.parked then []
  else match m.queue, m.owner with
    | .word slot _ pos p0 p1 _ _ :: _, some b =>
      (match s.charge? b with
       | none => []
       | some c =>
         if !c.serves ∨ !(c.mayTry (mxKey h e)) then []
         else match s.wordAt h e c.ctx slot with
           | none => []
           | some w => match gatherElem w pos p0 p1 (m.mgath - 1) with
             | none => []
             | some (_, x, _) =>
               ((s.regionMa c h (bitsOf w.toNat 21 16) (x * elemBytes (Fmt.ofCode (bitsOf w.toNat 51 48)) false) true false).map
                 fun ma => { id := gatherId h e second, vdev := c.vdev, beats := 1, ma := ma }).toList)
    | _, _ => []

/-- The accesses with which the operations of a hearth's join partitions wait. -/
def State.readyJoins (s : State) (h : Nat) (x : Hearth) : List ReadyReq :=
  x.joins.filterMap fun (k, j) =>
    match j.want, s.charge? j.bind with
    | some ma, some c => if c.serves ∧ c.mayTry (juKey h) then some { id := juId h k, vdev := c.vdev, beats := 1, ma := ma } else none
    | _, _ => none

/-- The requests of a hearth's units beside its ports. -/
def State.readyUnits (s : State) (h : Nat) (x : Hearth) : List ReadyReq :=
  s.readyAgs h x ++ s.readyWalk h ++ x.ces.flatMap (fun (e, _) => s.readyGather h e false ++ s.readyGather h e true) ++ s.readyJoins h x

/-- Whether another request with tokens is ready at a controller (R342). -/
def State.fundedAt (s : State) (me : Nat) (ctl : Nat) : Bool :=
  (s.readyPorts ++ (s.fab.hearths.flatMap fun (h, x) => s.readyUnits h x) ++ s.readyEngines).any fun q =>
    q.id != me && s.controllerOf q.ma == ctl && q.beats ≤ s.bucket ctl q.vdev

/-- Policy word of a request's block. -/
def State.reqPolicy (s : State) (c : Charge) (q : Req) : Policy :=
  match s.blockOf c q.hearth q.ce with
  | some b => c.policyOf b
  | none => Machine.policyOf 0

/-- The agent of a request: a stream's, or the charge's own (R276). -/
def State.reqActor (s : State) (c : Charge) (q : Req) : Actor :=
  match q.unit with
  | .ag n => (match s.chain? (.ag q.hearth n q.bind) with
    | some g => c.streamActor (.ag q.hearth n q.bind) g q.epoch
    | none => c.actor q.epoch)
  | _ => c.actor q.epoch

/-- Code of a request's access in a memory-model exception (R296). -/
def Req.accessCode (q : Req) : Nat := if q.unit = .gather ∧ q.op = .load then 7 else Machine.accessCode q.op

/-- The code with which another module refuses an access, where it is one of R305's. -/
def refusalOf (x : Phys) : Option Nat := x.refused.filter fun k => (1 ≤ k && k ≤ 6) || k == 8

/-- Request `q` performed at its home, or what stops it. -/
def State.serveReq (s : State) (c : Charge) (q : Req) (phys : Phys) : Option State :=
  match c.region? q.region with
  | none => none
  | some r =>
    let n := elemBytes q.fmt q.wide
    let off := r.base + q.elem * n
    let va := c.vaddr r off
    let pol := s.reqPolicy c q
    let settle (addr : Nat) (remote : Bool) (res : Except (Stop × State) (Val × Bool × State)) : Option State :=
      match res with
      | .ok (old, wrote, s) => some (s.reqDone q old wrote)
      | .error (.waits, s) => some s
      | .error (.fault code w detail, s) =>
        some (s.reqFault c q code w remote (if code = 8 then detail.headD 0 else addr) detail)
    if !(r.inBounds q.elem n) then some (s.reqFault c q 7 false false va [q.elem])
    else match s.place c q.hearth r off (opReads q.op) (opWrites q.op) with
      | .error f => some (s.reqFault c q f.code f.stageW f.remote f.addr [])
      | .ok .waits => none
      | .ok (.mem ma x) =>
        settle va false (s.accessMem x (s.reqActor c q) q.id c.vdev va ma n q.op q.accessCode pol q.fmt q.r q.p phys
          (s.fundedAt q.id))
      | .ok (.pad g ma) =>
        if !(s.passes q.hearth g) then some (s.reqDamped c q)
        else settle ma false (s.accessPad ma n q.op pol q.fmt q.r q.p phys.check)
      | .ok (.window g win o) =>
        if !(s.passes q.hearth g) then some (s.reqDamped c q)
        else if opWrites q.op && s.windowHeld g c.ctx win o n then none
        else if opWrites q.op then some ((s.writeWindow g c.ctx win o n (q.r.toNat % 256 ^ n)).reqDone q 0 true)
        else some (s.reqDone q (BitVec.ofNat 128 (s.readWindow g c.ctx win o n)) false)
      | .ok (.remote m rva) =>
        if m = s.mod.number.toNat then
          settle rva true (s.accessDomain c.aspace c.image.cid rva n q.op pol q.fmt q.r q.p phys)
        else match refusalOf phys with
          | some k => some (s.reqFault c q k false true rva [])
          | none =>
            let (v, s) := s.free
            some (s.reqDone q (BitVec.ofNat 128 (v.toNat % 256 ^ n)) (v.msb || q.op != .cas))

/-- A request of a port (HOME_ACCESS, GATHER_SERVE and SCAT_APPLY). -/
def accessReq (id : Nat) (phys : Phys) (want : Req → Bool) (s : State) : Option State :=
  match s.req? id with
  | none => none
  | some q =>
    match s.charge? q.bind with
    | none => none
    | some c =>
      if !(want q) ∨ !q.live ∨ q.done ∨ q.parked ∨ !c.serves ∨ s.heldByOrder c q ∨ !(c.mayTry (reqKey id)) then none
      else (s.tryKey q.bind (reqKey id)).serveReq c q phys

/-! ## Replies (R208) and completions (R209) -/

/-- The requests that leave together with `q`: a whole firing on an ordered channel, `count` positions with consecutive
tags on a tagged one; none where some reply is not there or an earlier ordered reply has not left. -/
def State.leaving (s : State) (q : Req) (f : Flight) (count : Nat) : Option (List Req) :=
  if f.tagged then
    let l := (s.fab.reqs.filter fun x => x.flight == f.id && q.index ≤ x.index && x.index < q.index + count)
    if l.isEmpty ∨ l.any (fun x => !x.done) ∨
        (l.zip (l.drop 1)).any (fun (a, b) => b.iter != a.iter + 1) then none else some l
  else
    let l := s.fab.reqs.filter fun x => x.flight == f.id
    let before := s.fab.reqs.takeWhile fun x => x.flight != f.id
    if l.any (fun x => !x.done) ∨ before.any (fun x => x.bind == q.bind && x.hearth == q.hearth && x.region == q.region &&
        x.owes && !x.tagged) then none
    else some l

/-- PORT_REPLY_LEAVE (R208) of a word's replies. -/
def portReplyLeave (id count : Nat) (s : State) : Option State :=
  match s.req? id with
  | none => none
  | some q =>
    match s.charge? q.bind, s.flight? q.flight with
    | some c, some f =>
      match s.ctx? q.hearth q.ce c.ctx with
      | none => none
      | some cc =>
        match c.block? cc.block with
        | none => none
        | some b =>
          if !q.owes ∨ !c.serves then none
          else match s.leaving q f count with
            | none => none
            | some l =>
              let w := b.words.getD q.slot 0
              let cap := if q.wide then 8 else q.fmt.maxRun
              let vals : List Emit := l.map fun x => { iter := x.iter, val := x.reply }
              let oks : List Emit := l.map fun x =>
                { iter := x.iter, val := x.reply.map fun _ => BitVec.ofNat 128 (boolNat x.wrote) }
              let s := s.sendAll q.bind cc.block q.slot 0 (rawCons w 0) cap vals
              let s :=
                if f.cmpl then s
                else if q.op = .cas then s.sendAll q.bind cc.block q.slot 1 (rawCons w 1) 32 oks
                else s.sendAll q.bind cc.block q.slot 1 (rawCons w 1) cap vals
              some (s.dropReqs (l.map Req.id))
    | _, _ => none

/-- STORE_COMPLETION (R209): every position of a firing is performed and visible; a load's replies have left as well.
The consumer of an engine operation's completion token acquires it (R283). -/
def storeCompletion (id : Nat) (s : State) : Option State :=
  match s.flight? id with
  | none => none
  | some f =>
    let mine := s.fab.reqs.filter fun q => q.flight == id
    if f.closed ∨ (mine.any fun q => !q.done) ∨ (!f.store && !mine.isEmpty) ∨ !((s.charge? f.bind).any Charge.serves) ∨
        (s.fab.copies.any fun c => c.flight == id) ∨ (s.fab.nmcs.any fun c => c.flight == id) then none
    else
      let s := if f.store then s.lowerAcks f.bind f.accepted else s
      let s :=
        match (s.charge? f.bind).bind fun c => (s.ctx? f.hearth f.ce c.ctx).bind fun cc =>
            (c.block? cc.block).map fun b => (cc.block, b) with
        | some (k, b) =>
          if f.cmpl then
            s.sendAll f.bind k f.slot 1 (rawCons (b.words.getD f.slot 0) 1) 1
              [{ iter := f.iter0, val := some (BitVec.ofNat 128 f.count) }] f.rels
          else s
        | none => s
      some ((s.modFlight id fun f => { f with closed := true }).dropReqs [])

/-- STORE_COMPLETION (R209). -/
def execStoreCompletion (id : Nat) (s : State) : Host.Outcome State Fault Refusal := finish s (storeCompletion id s)

/-- GATHER_SERVE (R214). -/
def execGatherServe (id : Nat) (phys : Phys) (s : State) : Host.Outcome State Fault Refusal :=
  finish s ((accessReq id phys (fun q => q.unit == .gather && q.op == .load) s).map fun t =>
    t.touchAll ((s.req? id).toList.map (·.bind)))

/-- SCAT_APPLY (R215). -/
def execScatApply (id : Nat) (phys : Phys) (s : State) : Host.Outcome State Fault Refusal :=
  finish s ((accessReq id phys (fun q => q.unit == .gather && opWrites q.op) s).map fun t =>
    t.touchAll ((s.req? id).toList.map (·.bind)))

/-! ## Words -/

/-- LD (R212). -/
def execLd (w : WordM) (s : State) : Host.Outcome State Fault Refusal := finish s (portFiring w loadWord s)

/-- ST (R213). -/
def execSt (w : WordM) (s : State) : Host.Outcome State Fault Refusal := finish s (portFiring w storeWord s)

/-- LDS (R212). -/
def execLds (w : WordM) (s : State) : Host.Outcome State Fault Refusal := finish s (portFiring w loadWord s)

/-- STS (R213). -/
def execSts (w : WordM) (s : State) : Host.Outcome State Fault Refusal := finish s (portFiring w storeWord s)

/-- ATOM (R216). -/
def execAtom (w : WordM) (s : State) : Host.Outcome State Fault Refusal := finish s (portFiring w (atomWord w) s)

/-- CAS (R217). -/
def execCas (w : WordM) (s : State) : Host.Outcome State Fault Refusal := finish s (portFiring w (casWord w) s)

/-- GATH (R214). -/
def execGath (w : WordM) (s : State) : Host.Outcome State Fault Refusal := finish s (portFiring w gathWord s)

/-- SCAT (R215). -/
def execScat (w : WordM) (s : State) : Host.Outcome State Fault Refusal := finish s (portFiring w (scatWord w) s)

end Sys2Proof.Machine
end

