-- ==== Sys2Proof/Machine/Inject.lean ====
section
/-!
DEFINITION. Sys2Proof/Machine/Inject.lean: injection records (R188), written by harts and by bulk copies.
-/

namespace Sys2Proof.Machine

def kindOfCode (n : Nat) : Option Kind :=
  match n with
  | 0 => some .data | 1 => some .scale | 2 => some .bubble | 3 => some .eos | 4 => some .ovf | 5 => some .abort | _ => none

/-- Payload words of a record as positions: one word each, two for 64-bit elements, or four for 128-bit ones (R48, R206). -/
def payloadVals (bs : List Byte) (n w : Nat) : List Val :=
  (List.range n).map fun i => BitVec.ofNat 128 (leNat ((bs.drop (4 * w * i)).take (4 * w)))

/-- Whether a charge holds its context on its hearths: not while it is swapped out, or on its way there (R44, R370). -/
def Charge.placed (c : Charge) : Bool := c.phase != .swapping && c.phase != .swapped

/-- The charge of a device that holds a context on a hearth. -/
def State.holderOf (s : State) (h ctx vdev : Nat) : Option (Nat × Charge) :=
  s.fab.charges.find? fun (_, c) => c.ctx == ctx && c.vdev == vdev && c.region.contains h && c.placed

/-- A record's token, if R188 accepts it. The header check tells how wide the elements are. -/
def State.recordToken (s : State) (h e : Nat) (vdev : Option Nat) (bs : List Byte) : Option Token :=
  let hd := leNat (bs.take 8)
  let n := bitsOf hd 60 56 + 1
  let pay := bs.drop 8
  let want := bitsOf hd 15 0
  let head := hd / 65536 * 65536
  let crc (w : Nat) : Nat := crc16 (leBytes 8 head ++ pay.take (4 * w * n))
  let width := if crc 1 = want then some 1 else if n ≤ 16 ∧ crc 2 = want then some 2
    else if n ≤ 8 ∧ crc 4 = want then some 4 else none
  let slot := bitsOf hd 27 21
  match kindOfCode (bitsOf hd 63 61), vdev, width with
  | some k, some v, some w =>
    if k = .ovf ∨ k = .abort ∨ bitOf hd 18 ∨ bitsOf hd 20 19 = 3 then none
    else match s.holderOf h (bitsOf hd 55 52) v with
      | none => none
      | some (b, c) =>
        match s.ctx? h e c.ctx with
        | none => none
        | some cc =>
          match c.block? cc.block with
          | none => none
          | some blk =>
            if slot / 32 ≠ cc.part ∨ blk.words.length ≤ slot then none
            else some
              { src := [2, v, h, e], bind := b, hearth := h, ce := e, slot := slot, port := portOf (bitsOf hd 20 19), kind := k,
                iter := BitVec.ofNat 24 (bitsOf hd 51 28), vals := payloadVals pay n w, words := w, ctx := c.ctx,
                task := false, nd := bitOf hd 17,
                check := BitVec.ofNat 16 want, acq := [], parked := false }
  | _, _, _ => none

/-- A whole record written to the doorway of CE `off` div 0x4000 (R188): an arriving token, or discarded and counted. -/
def State.injectRecord (s : State) (h off : Nat) (vdev : Option Nat) (bs : List Byte) : State :=
  match s.recordToken h (off / 0x4000) vdev bs with
  | some t => s.setFab { s.fab with transit := s.fab.transit ++ [t] }
  | none => s.countInj h

/-- Records of one write transaction, in ascending address order; a record that it covers only in part is discarded. -/
def State.injectWrite (s : State) (h off : Nat) (vdev : Option Nat) (bs : List Byte) : State :=
  let first := off / 256
  let last := (off + bs.length + 255) / 256
  (List.range (last - first)).foldl (init := s) fun s i =>
    let r := 256 * (first + i)
    if off ≤ r ∧ r + 256 ≤ off + bs.length ∧ r < 0xC0000 then
      s.injectRecord h r vdev ((bs.drop (r - off)).take 256)
    else s.countInj h

end Sys2Proof.Machine
end

