-- ==== Sys2Proof/Machine/Engine.lean ====
section
/-!
DEFINITION. Sys2Proof/Machine/Engine.lean: engines, timelines and fences: BCPY (R223), NMC (R224 to R226), PLACE and PFCH
(R227), TLINC, TLWAIT and TLRD (R228 to R231), FJOIN (R232) and NTFY (R233).
-/

namespace Sys2Proof.Machine

/-- Scope code's release by the firing's word. -/
def wordScope (w : BitVec 64) : Scope :=
  match bitsOf w.toNat 49 47 with
  | 1 => .h | 2 => .s | 3 => .m | 4 => .d | _ => .e

/-- Block and word of a unit's request. -/
def State.unitWord (s : State) (b h e slot : Nat) : Option (Nat × Block × BitVec 64) :=
  (s.charge? b).bind fun c => (s.ctx? h e c.ctx).bind fun cc => (c.block? cc.block).map fun k =>
    (cc.block, k, k.words.getD slot 0)

/-- The status of an operation that has ended, to the consumers of its word, the second one's place being that of the completion token where
the word asks for one (R209), with what its consumer acquires (R283); `cap` is the run length of its format. -/
def State.sendStatus (s : State) (b blk slot : Nat) (w : BitVec 64) (cap : Nat) (it : Iter) (v : Nat) (rel : Rel) : State :=
  let l : List Emit := [{ iter := it, val := some (BitVec.ofNat 128 v) }]
  let s := s.sendAll b blk slot 0 (rawCons w 0) cap l [rel]
  if bitOf w.toNat 21 then s else s.sendAll b blk slot 1 (rawCons w 1) cap l [rel]

/-! ## BCPY (R223) -/

/-- Whether a region is an injection window or its doorway. -/
def Region.injects (r : Region) : Bool := r.space = 6 || (r.space = 1 && r.window = 4)

/-- Bytes of a copy's beat: an injection record is written whole (R188). -/
def Charge.beatBytes (c : Charge) (p : Copy) : Nat :=
  match c.region? p.dstRegion with
  | some r => if r.injects then 256 else 64
  | none => 64

/-- The status with which a copy ends before it starts, if it does. -/
def Charge.copyRefused (c : Charge) (srcReg src dstReg dst len : Nat) : Option Nat :=
  match c.region? srcReg, c.region? dstReg with
  | some a, some b =>
    let al := if a.injects || b.injects then 256 else 64
    if !a.rd then some 4
    else if src % al ≠ 0 ∨ dst % al ≠ 0 ∨ a.length < src + len ∨ b.length < dst + len then some 3
    else none
  | _, _ => some 4

/-- BCPY: each live position starts one copy. -/
def bcpyFiring (w : WordM) (s : State) : Option State :=
  match startFiring s with
  | none => none
  | some (F, s) =>
    let live := F.f.pos.filter fun q => !q.bubble2
    if 2048 < s.streams F.hearth + live.length then none
    else
      let base := s.fab.nextId
      let n := w.aux.toNat % 256
      let mk (q : FPos) (i : Nat) : Copy :=
        let l := (q.l.getD 0).toNat
        let r := (q.r.getD 0).toNat
        let len := 256 * (bitsOf r 63 46 + 1)
        { id := base + 1 + i, bind := F.cc.bind, hearth := F.hearth, ce := F.ce, slot := F.slot, iter := q.iter,
          flight := base, srcRegion := bitsOf l 63 58, dstRegion := w.region.toNat, bubbleOk := w.fpol,
          src := bitsOf l 57 0, dst := bitsOf r 45 0, length := len, next := 0,
          status := F.ch.copyRefused (bitsOf l 63 58) (bitsOf l 57 0) w.region.toNat (bitsOf r 45 0) len,
          worst := 0, parked := false, vec := F.ch.engineVec,
          epoch := ((F.ch.timelines[n]?).map fun t => t.value.toNat).getD 0 }
      let copies := live.zipIdx.map fun (q, i) => mk q i
      let fl : Flight :=
        { id := base, bind := F.cc.bind, hearth := F.hearth, ce := F.ce, slot := F.slot, region := w.region.toNat,
          iter0 := F.tag0, tagged := false, cmpl := true, store := false, owes := true, accepted := live.length, count := 0,
          closed := false }
      let s := s.setFab { s.fab with
        nextId := base + 1 + live.length, copies := s.fab.copies ++ copies
        flights := if w.cmpl && !live.isEmpty then s.fab.flights ++ [fl] else s.fab.flights }
      let bub : List Emit := F.f.pos.filterMap fun q => if q.bubble2 then some { iter := q.iter, val := none } else none
      let s := s.emit F 0 w.cons1 32 bub
      let s := if w.cmpl then s else s.emit F 1 w.cons2 32 bub
      some (if w.cmpl && live.isEmpty then s.emitOne F 1 w.cons2 F.tag0 (some 0) else s)

/-- Where a beat of a copy lies. -/
inductive BeatPlace where
  | mem (ma : Nat) (x : Extent)
  /-- behind a closed damper (R15, R187) -/
  | closed
  | pad (ma : Nat)
  /-- a window of a hearth that keeps no poison marks -/
  | window (h w off : Nat)
  | remote
  | waits
  | fault (f : PlaceFault)
  deriving DecidableEq, Repr

/-- A domain address of this module itself is walked like a remote request (R190). -/
def State.ownDomain (s : State) (c : Charge) (va : Nat) (rd wr : Bool) : BeatPlace :=
  let a := s.aspace c.aspace
  if !a.enable then .fault { code := 1, stageW := false, remote := true, addr := va }
  else match (s.walkPage a (some c.image.cid) 0 va).grant rd wr with
    | .ok x => .mem (x.machine va) { x with watched := false }
    | .error (f, w) => .fault { code := walkCode f, stageW := w, remote := true, addr := va }

def State.beatPlace (s : State) (c : Charge) (h : Nat) (r : Region) (off : Nat) (rd wr : Bool) : BeatPlace :=
  match s.place c h r (r.base + off) rd wr with
  | .ok (.mem ma x) => .mem ma x
  | .ok (.pad g ma) => if s.passes h g then .pad ma else .closed
  | .ok (.window g w o) => if s.passes h g then .window g w o else .closed
  | .ok (.remote m va) => if m = s.mod.number.toNat then s.ownDomain c va rd wr else .remote
  | .ok .waits => .waits
  | .error f => .fault f

/-- Fresh bytes of a remote module. -/
def State.freeBytes (s : State) : Nat → List Byte × State
  | 0 => ([], s)
  | n + 1 =>
    let (v, s) := s.free
    let (bs, s) := State.freeBytes s n
    (leBytes 16 v.toNat ++ bs, s)

/-- The record of a copy's fault: no tag, unit 6, and for a memory-model exception no slot (R296). -/
def State.copyRec (s : State) (p : Copy) (code : Nat) (stageW remote : Bool) (addr : Nat) (detail : List Nat) : FaultRec :=
  { s.faultRec p.bind code p.hearth with
    stageW := stageW, remote := remote, address := BitVec.ofNat 64 addr, ce := p.ce, unit := 6, detail := detail,
    slot := if code = 0x16 then 0xFF else p.slot,
    block := ((s.unitWord p.bind p.hearth p.ce p.slot).map fun x => x.2.1.id).getD 0xFFFFFFFF }

def State.modCopy (s : State) (id : Nat) (f : Copy → Copy) : State :=
  s.setFab { s.fab with copies := modifyFirst (fun c => c.id == id) f s.fab.copies }

/-- A copy that faults: it ends with status 2 under BUBBLE, otherwise it is parked and its charge freezes. -/
def State.copyFault (s : State) (c : Charge) (p : Copy) (f : PlaceFault) (detail : List Nat) : State :=
  if c.phase ≠ .running ∨ (p.bubbleOk ∧ f.code ≠ 0x16) then s.modCopy p.id fun p => { p with status := some 2 }
  else
    ((s.modCopy p.id fun p => { p with parked := true }).parkKey p.bind (engineKey p.id)).raiseFault p.bind
      (s.copyRec p f.code f.stageW f.remote f.addr detail)

/-- Race checks of a copy's read and write, at tenant addresses `sva` and `dva`. -/
def State.copyRaces (s : State) (a : Actor) (src dst : BeatPlace) (sva dva n : Nat) : Except (RaceRec × Bool × Nat) State :=
  let one (s : State) (p : BeatPlace) (va : Nat) (k : AccessKind) : Except (RaceRec × Bool × Nat) State :=
    match p with
    | .mem ma x => match s.checkRace x a k ma n with
      | .ok s => .ok s
      | .error (r, w) => .error (r, w, va)
    | _ => .ok s
  match one s src sva .read with
  | .ok s => one s dst dva .write
  | .error e => .error e

/-- The bytes of a source beat, and whether it is poisoned. -/
def State.readBeat (s : State) (c : Charge) (p : BeatPlace) (n : Nat) (check : Check) : List Byte × Bool × State :=
  match p with
  | .mem ma _ =>
    let s := s.checkRead ma check
    let a := s.readAt ma
    (s.bytes a n, s.anyPoison a n, s)
  | .pad ma =>
    let s := s.checkBeat ma check
    (s.bytes ma n, s.anyPoison ma n, s)
  | .window h w off => ((List.range n).map fun i => BitVec.ofNat 8 (s.readWindow h c.ctx w (off + i) 1), false, s)
  | .remote =>
    let (bs, s) := s.freeBytes (n / 16)
    (bs, false, s)
  | _ => (List.replicate n 0, false, s)

/-- A destination beat written; a bad one is written with its poison mark, or left unwritten where none is kept (R223). -/
def State.writeBeat (s : State) (c : Charge) (p : BeatPlace) (bs : List Byte) (bad : Bool) : State :=
  match p with
  | .mem ma _ =>
    let s := s.storeHome ma bs
    if bad then (s.writeAt ma).foldl (fun s a => s.markPoison a) s else s
  | .pad ma =>
    let s := s.store ma bs
    if bad then s.markPoison ma else s
  | .window h w off =>
    if bad then s
    else if w = 4 then s.injectWrite h off (some c.vdev) bs
    else bs.zipIdx.foldl (init := s) fun s (b, i) => s.writeWindow h c.ctx w (off + i) 1 b.toNat
  | _ => s

/-- The state in which request `id` of device `v` waits at the controller of one of the addresses, each with its beats, if it does
(R342, R343). -/
def State.beatsWait (s : State) (id v : Nat) (l : List (Nat × Nat)) : Option State :=
  l.findSome? fun (ma, beats) => s.controllerWaits id ma v beats (s.fundedAt id)

/-- The controllers' part in a beat of a copy: the state in which it waits, or the one in which it is served. -/
def State.beatServed (s : State) (id v part beats : Nat) (miss : Bool) (ps : List BeatPlace) : Except State State :=
  let out := ps.filterMap fun p => match p with
    | .mem ma x => if miss || x.xs then some (ma, x) else none
    | _ => none
  match s.beatsWait id v (out.map fun (ma, _) => (ma, beats)) with
  | some s => .error s
  | none => .ok (out.foldl (fun s (ma, x) => s.countServed id ma v beats part x) s)

/-- BCPY_BEAT (R223): the next beat of a copy. -/
def bcpyBeat (id : Nat) (phys : Phys) (s : State) : Option State :=
  match s.fab.copies.find? fun c => c.id == id with
  | none => none
  | some p =>
    match s.charge? p.bind with
    | none => none
    | some c =>
      match c.region? p.srcRegion, c.region? p.dstRegion, s.unitWord p.bind p.hearth p.ce p.slot with
      | some sr, some dr, some (_, _, w) =>
        if !c.engines ∨ p.parked ∨ p.status.isSome ∨ p.length ≤ p.next ∨ !(c.mayTry (engineKey id)) then none
        else
          let n := c.beatBytes p
          let src := s.beatPlace c p.hearth sr (p.src + p.next) true false
          let dst := s.beatPlace c p.hearth dr (p.dst + p.next) false true
          let sva := c.vaddr sr (sr.base + p.src + p.next)
          let dva := c.vaddr dr (dr.base + p.dst + p.next)
          match src, dst with
          | .waits, _ | _, .waits => none
          | .closed, _ | _, .closed => some ((s.countDamper (n / 64)).modCopy id fun p =>
              if c.phase = .running then { p with parked := true } else { p with status := some 2 })
          | .fault f, _ => some (s.copyFault c p f [p.next])
          | _, .fault f => some (s.copyFault c p f [p.next])
          | src, dst =>
            let shared := match dst with | .mem _ x => x.xs | _ => false
            let held := match dst with | .window g w o => s.windowHeld g c.ctx w o n | _ => false
            let s := s.tryKey p.bind (engineKey id)
            if held then none
            else if shared then some (s.copyFault c p { code := 4, stageW := true, remote := false, addr := dva } [p.next])
            else if let some k := (if src = .remote ∨ dst = .remote then refusalOf phys else none) then
              some (s.copyFault c p { code := k, stageW := false, remote := true, addr := if src = .remote then sva else dva } [p.next])
            else
              match s.beatServed id c.vdev c.part (n / 64) phys.miss [src, dst] with
              | .error s => some s
              | .ok s =>
                let s := s.evict phys.evict
                let a := c.engine (bitsOf w.toNat 7 0) p.epoch p.vec
                match s.copyRaces a src dst sva dva n with
                | .error (r, wr, va) =>
                  some ((s.raceRaised c 0x16).copyFault c p { code := 0x16, stageW := false, remote := false, addr := va }
                    (raceDetail 5 va a r wr))
                | .ok s =>
                  let (bs, bad, s) := s.readBeat c src n phys.check
                  let s := s.writeBeat c dst bs bad
                  some (s.modCopy id fun p => { p with next := p.next + n, worst := if bad then 1 else p.worst })
      | _, _, _ => none

/-- BCPY_BEAT (R223). -/
def execBcpyBeat (id : Nat) (phys : Phys) (s : State) : Host.Outcome State Fault Refusal := 
  finish s ((bcpyBeat id phys s).map fun t => t.touchAll ((s.fab.copies.filter fun x => x.id == id).map (·.bind)))

/-- A flight's count of positions performed, raised by one. -/
def State.countFlight (s : State) (id : Nat) : State := s.modFlight id fun f => { f with count := f.count + 1 }

/-- What an engine operation releases, kept for the completion token of its firing (R283). -/
def State.releaseFlight (s : State) (id : Nat) (r : Rel) : State := s.modFlight id fun f => { f with rels := f.rels ++ [r] }

/-- BCPY_COMPLETE (R223): the timeline advances and the status leaves. -/
def bcpyComplete (id : Nat) (s : State) : Option State :=
  match s.fab.copies.find? fun c => c.id == id with
  | none => none
  | some p =>
    match s.charge? p.bind, s.unitWord p.bind p.hearth p.ce p.slot with
    | some c, some (blk, _, w) =>
      if !c.engines ∨ (p.status.isNone ∧ p.next < p.length) then none
      else
        let n := bitsOf w.toNat 7 0
        let rel := s.engineRel p.bind n (wordScope w) p.hearth p.vec
        let st := p.status.getD p.worst
        let s := s.advanceEngine p.bind n rel
        let s := s.setFab { s.fab with copies := s.fab.copies.filter fun x => x.id != id }
        let s := (if st ≤ 1 then s.countFlight p.flight else s).releaseFlight p.flight rel
        some (s.sendStatus p.bind blk p.slot w 32 p.iter st rel)
    | _, _ => none

/-- BCPY_COMPLETE (R223). -/
def execBcpyComplete (id : Nat) (s : State) : Host.Outcome State Fault Refusal := 
  finish s ((bcpyComplete id s).map fun t => t.touchAll ((s.fab.copies.filter fun x => x.id == id).map (·.bind)))

/-! ## NMC (R224 to R226) -/

/-- The status with which a command ends before its first stripe, if it does. -/
def nmcRefused (r : Region) (op count target second rhi : Nat) : Option (Nat × Nat) :=
  let binary := op = 0 ∨ op = 1 ∨ op = 4
  if target % 4096 ≠ 0 ∨ r.length < target + 4096 * count ∨
      (binary ∧ (second % 4096 ≠ 0 ∨ r.length < second + 4096 * count ∨ rhi ≠ 0)) then some (3, 0xFF) else none

/-- NMC: each live position issues one command. Its coefficients are read as the firing starts. -/
def nmcFiring (w : WordM) (s : State) : Option State :=
  match startFiring s with
  | none => none
  | some (F, s) =>
    match F.ch.region? w.region.toNat with
    | none => none
    | some r =>
      let bub (q : FPos) : Bool := q.l.isNone || (w.arity = 2 && q.r.isNone)
      let live := F.f.pos.filter fun q => !bub q
      let base := s.fab.nextId
      let c := w.aux.toNat % 64
      let wide := w.fmt.bits = 64
      let par (g : Nat) : BitVec 64 := BitVec.ofNat 64 (s.param F.hearth F.ce F.ctx g (if wide then 64 else 32))
      let n := w.aux.toNat / 256
      let mk (q : FPos) (i : Nat) : Nmc :=
        let l := (q.l.getD 0).toNat
        let rv := (q.r.getD 0).toNat
        let count := bitsOf l 63 46 + 1
        { id := base + 1 + i, bind := F.cc.bind, hearth := F.hearth, ce := F.ce, slot := F.slot, iter := q.iter,
          flight := base, count := count, target := bitsOf l 45 0, second := bitsOf rv 45 0, region := w.region.toNat,
          fmt := w.fmt, op := w.op.toNat, c0 := par c, c1 := par (c + if wide then 2 else 1), done := 0,
          status := nmcRefused r w.op.toNat count (bitsOf l 45 0) (bitsOf rv 45 0) (bitsOf rv 63 46),
          vec := F.ch.engineVec, epoch := ((F.ch.timelines[n]?).map fun t => t.value.toNat).getD 0 }
      let fl : Flight :=
        { id := base, bind := F.cc.bind, hearth := F.hearth, ce := F.ce, slot := F.slot, region := w.region.toNat,
          iter0 := F.tag0, tagged := false, cmpl := true, store := false, owes := true, accepted := live.length, count := 0,
          closed := false }
      let s := s.setFab { s.fab with
        nextId := base + 1 + live.length
        nmcs := s.fab.nmcs ++ live.zipIdx.map fun (q, i) => mk q i
        flights := if w.cmpl && !live.isEmpty then s.fab.flights ++ [fl] else s.fab.flights }
      let out : List Emit := F.f.pos.filterMap fun q => if bub q then some { iter := q.iter, val := none } else none
      let s := s.emit F 0 w.cons1 16 out
      let s := if w.cmpl then s else s.emit F 1 w.cons2 16 out
      some (if w.cmpl && live.isEmpty then s.emitOne F 1 w.cons2 F.tag0 (some 0) else s)

/-- One element of a stripe (R225): `y` is the target's, `x` the second operand's. -/
def nmcElem (op : Nat) (p : Policy) (f : Fmt) (a l y x : Nat) : Nat :=
  let rd (n : Nat) : FVal := readFlt p f (BitVec.ofNat 128 n)
  match op with
  | 0 => (fltFma p f 0 false (rd a) (rd x) (rd y) false).1
  | 1 =>
    let t := (fltFma p f 0 false (rd l) (rd y) (rd x) false).1
    (fltFma p f 0 false (rd a) (rd t) (rd y) true).1
  | 2 => (fltMul p f 0 false (rd a) (rd y)).1
  | 3 => a % 2 ^ f.bits
  | _ => x

/-- Why a stripe does not start: it waits, or the command ends with a code. -/
inductive NmcStop where
  | waits
  | ends (code : Nat)
  deriving DecidableEq, Repr

/-- The page of one byte of an operand (R226): its machine address, or why not. A frame shared across modules is no near one, and were it
one, R320's protection shows as status 5: a command's status is its only report (assumption entry 102). -/
def State.nmcByte (s : State) (c : Charge) (r : Region) (off : Nat) (wr : Bool) : Except NmcStop (Nat × Extent) :=
  let va := c.vaddr r (r.base + off)
  match c.extent? r.number va with
  | none => .error (.ends 2)
  | some x =>
    if s.marked c x || x.moving || (s.moveAt (x.machine va)).isSome then .error .waits
    else match x.grant true wr with
      | .error (.cid, _) | .error (.protection, _) => .error (.ends 5)
      | .error _ => .error (.ends 2)
      | .ok x => if x.tier ≠ 0 then .error (.ends 2) else if x.xs then .error (.ends 5) else .ok (x.machine va, x)

/-- Of two reasons, the one that R226 gives first: a wait, then status 2 before status 5. -/
def NmcStop.first (a b : NmcStop) : NmcStop :=
  match a, b with
  | .waits, _ | _, .waits => .waits
  | .ends 2, _ | _, .ends 2 => .ends 2
  | a, _ => a

/-- An operand of a stripe: the tenant address of its first byte, and the pages of its first and of its last byte, which differ where
the stripe crosses a page of 64 KiB. -/
structure Stripe where
  va : Nat
  lo : Nat × Extent
  hi : Nat × Extent
  deriving DecidableEq, Repr

/-- Bytes of a stripe in its first page. -/
def Stripe.cut (x : Stripe) : Nat := 65536 - x.va % 65536

/-- Machine address and extent of byte `o` of a stripe. -/
def Stripe.at (x : Stripe) (o : Nat) : Nat := if o < x.cut then x.lo.1 + o else x.hi.1 / 65536 * 65536 + (o - x.cut)
def Stripe.page (x : Stripe) (o : Nat) : Extent := if o < x.cut then x.lo.2 else x.hi.2

/-- The pages of one operand of a stripe. -/
def State.nmcPage (s : State) (c : Charge) (r : Region) (off : Nat) (wr : Bool) : Except NmcStop Stripe :=
  match s.nmcByte c r off wr, s.nmcByte c r (off + 4095) wr with
  | .ok a, .ok b => .ok { va := c.vaddr r (r.base + off), lo := a, hi := b }
  | .error e, .error f => .error (e.first f)
  | .error e, _ | _, .error e => .error e

/-- Whether two stripes lie on one stack. -/
def Stripe.sameStack (x y : Stripe) : Bool :=
  [x.hi.1, y.lo.1, y.hi.1].all fun a => a / 2 ^ 36 == x.lo.1 / 2 ^ 36

/-- Both operands of a stripe: the target's, and the second operand's where the command has one. -/
def State.nmcPages (s : State) (c : Charge) (r : Region) (m : Nmc) : Except NmcStop (Stripe × Option Stripe) :=
  let off (o : Nat) : Nat := o + 4096 * m.done
  let t := s.nmcPage c r (off m.target) true
  if m.op = 2 ∨ m.op = 3 then t.map fun x => (x, none)
  else
    match t, s.nmcPage c r (off m.second) false with
    | .ok a, .ok b => if a.sameStack b then .ok (a, some b) else .error (.ends 4)
    | .error e, .error f => .error (e.first f)
    | .error e, _ | _, .error e => .error e

def State.modNmc (s : State) (id : Nat) (f : Nmc → Nmc) : State :=
  s.setFab { s.fab with nmcs := modifyFirst (fun c => c.id == id) f s.fab.nmcs }

/-- Race checks of a stripe's beats: of each chunk the second operand's read, then the target's write. A conflict names the tenant
address of its beat. -/
def State.stripeRaces (s : State) (a : Actor) (t : Stripe) (x : Option Stripe) : Except (RaceRec × Bool × Nat) State :=
  let one (k : AccessKind) (o : Nat) (s : State) (y : Stripe) : Except (RaceRec × Bool × Nat) State :=
    match s.checkRace (y.page o) a k (y.at o) 64 with
    | .ok s => .ok s
    | .error (r, w) => .error (r, w, y.va + o)
  (List.range 64).foldl (init := .ok s) fun acc i =>
    (acc.bind fun s => match x with
      | some y => one .read (64 * i) s y
      | none => .ok s).bind fun s => one .write (64 * i) s t

/-- The memory-model exception of a command, which freezes its charge: no tag, no slot, unit 6; the command is tried again on resume
(R296, R354). -/
def State.nmcFault (s : State) (c : Charge) (m : Nmc) (va : Nat) (detail : List Nat) : State :=
  if c.phase ≠ .running then s.modNmc m.id fun m => { m with status := some (1, 0xFF) }
  else
    (s.parkKey m.bind (engineKey m.id)).raiseFault m.bind { s.faultRec m.bind 0x16 m.hearth with
      block := ((s.unitWord m.bind m.hearth m.ce m.slot).map fun x => x.2.1.id).getD 0xFFFFFFFF, ce := m.ce, slot := 0xFF
      address := BitVec.ofNat 64 va, unit := 6, detail := detail }

/-- The chunk of a stripe that element by element its command computes (R225). -/
def State.nmcChunk (s : State) (m : Nmc) (p : Policy) (t : Stripe) (x : Option Stripe) (i : Nat) : List Byte :=
  let size := m.fmt.bits / 8
  ((List.range (64 / size)).map fun k =>
    let o := 64 * i + size * k
    let v := match x with | some y => s.nat (y.at o) size | none => 0
    leBytes size (nmcElem m.op p m.fmt m.c0.toNat m.c1.toNat (s.nat (t.at o) size) v)).flatten

/-- Whether chunk `i` meets a poisoned beat of an operand that its command reads. -/
def State.nmcPoisoned (s : State) (m : Nmc) (t : Stripe) (x : Option Stripe) (i : Nat) : Bool :=
  ((m.op != 3 && m.op != 4) && s.poisoned (t.at (64 * i))) ||
  (match x with | some y => s.poisoned (y.at (64 * i)) | none => false)

/-- A stripe performed: every chunk but the bad ones written, those poisoned; a chunk that meets a new uncorrectable error is counted at
its stack and recorded to the wholesaler (R226, R364, R367). -/
def State.nmcWrite (s : State) (m : Nmc) (p : Policy) (t : Stripe) (x : Option Stripe) (failing : Option (BitVec 6)) : State :=
  let bad := (List.range 64).filter fun i => s.nmcPoisoned m t x i || failing == some (BitVec.ofNat 6 i)
  let out := (List.range 64).map fun i => (i, s.nmcChunk m p t x i)
  let s := out.foldl (init := s) fun s (i, bs) =>
    if bad.contains i then s.markPoison (t.at (64 * i)) else s.storeHome (t.at (64 * i)) bs
  let s := match failing with
    | some k =>
      let ma := t.at (64 * k.toNat)
      (s.countLasting (owningStove ma) 9 0xFF).postHardware 0x21 9 ma []
    | none => s
  match bad.head? with
  | some k => s.modNmc m.id fun m => { m with status := some (1, k) }
  | none => s.modNmc m.id fun m => { m with done := m.done + 1 }

/-- NMC_STRIPE (R225, R226): the next stripe of a command; `failing` is a chunk that meets a new uncorrectable error. -/
def nmcStripe (id : Nat) (failing : Option (BitVec 6)) (s : State) : Option State :=
  match s.fab.nmcs.find? fun c => c.id == id with
  | none => none
  | some m =>
    match s.charge? m.bind with
    | none => none
    | some c =>
      match c.region? m.region, s.unitWord m.bind m.hearth m.ce m.slot with
      | some r, some (_, blk, w) =>
        if !c.engines ∨ m.status.isSome ∨ m.count ≤ m.done ∨ !(c.mayTry (engineKey id)) then none
        else match s.nmcPages c r m with
          | .error .waits => none
          | .error (.ends k) => some ((s.tryKey m.bind (engineKey id)).modNmc id fun m => { m with status := some (k, 0xFF) })
          | .ok (t, x) =>
            let s := s.tryKey m.bind (engineKey id)
            let served := (t :: x.toList).map fun y => (y.at 0, 64)
            match s.beatsWait id c.vdev served with
            | some s => some s
            | none =>
              let a := c.engine (bitsOf w.toNat 15 8) m.epoch m.vec
              match s.stripeRaces a t x with
              | .error (rec, wr, va) => some ((s.raceRaised c 0x16).nmcFault c m va (raceDetail 6 va a rec wr))
              | .ok s =>
                let s := served.foldl (fun s y => s.chargeBeats id y.1 c.vdev y.2) s
                some (s.nmcWrite m (c.policyOf blk) t x failing)
      | _, _ => none

/-- NMC_STRIPE (R226). -/
def execNmcStripe (id : Nat) (failing : Option (BitVec 6)) (s : State) : Host.Outcome State Fault Refusal :=
  finish s ((nmcStripe id failing s).map fun t => t.touchAll ((s.fab.nmcs.filter fun x => x.id == id).map (·.bind)))

/-- NMC_COMPLETE (R226): the timeline advances and the n64 status leaves. -/
def nmcComplete (id : Nat) (s : State) : Option State :=
  match s.fab.nmcs.find? fun c => c.id == id with
  | none => none
  | some m =>
    match s.charge? m.bind, s.unitWord m.bind m.hearth m.ce m.slot with
    | some c, some (blk, _, w) =>
      if !c.engines ∨ (m.status.isNone ∧ m.done < m.count) then none
      else
        let n := bitsOf w.toNat 15 8
        let rel := s.engineRel m.bind n (wordScope w) m.hearth m.vec
        let (code, chunk) := m.status.getD (0, 0xFF)
        let s := s.advanceEngine m.bind n rel
        let s := s.setFab { s.fab with nmcs := s.fab.nmcs.filter fun x => x.id != id }
        let s := (if code ≤ 1 then s.countFlight m.flight else s).releaseFlight m.flight rel
        some (s.sendStatus m.bind blk m.slot w 16 m.iter (m.done * 2 ^ 32 + chunk * 2 ^ 16 + code) rel)
    | _, _ => none

/-- NMC_COMPLETE (R226). -/
def execNmcComplete (id : Nat) (s : State) : Host.Outcome State Fault Refusal := 
  finish s ((nmcComplete id s).map fun t => t.touchAll ((s.fab.nmcs.filter fun x => x.id == id).map (·.bind)))

/-! ## Hints (R227) -/

/-- The extent and machine address of an element that a hint names; no fault and no permission check. -/
def Charge.hintPage (c : Charge) (r : Region) (f : Fmt) (x : Nat) : Option (Nat × Extent) :=
  let n := elemBytes f false
  if !(r.inBounds x n) then none
  else
    let va := c.vaddr r (r.base + x * n)
    match c.extent? r.number va with
    | some e => if e.fault.isNone then some (e.machine va, e) else none
    | none => none

/-- A hint firing: `act` on each position whose page can be reached. -/
def hintFiring (w : WordM) (act : State → Fire → Nat → Extent → State) (s : State) : Option State :=
  match startFiring s with
  | none => none
  | some (F, s) =>
    match F.ch.region? w.region.toNat with
    | none => none
    | some r =>
      some (F.f.pos.foldl (init := s) fun s q =>
        match q.l with
        | none => s
        | some v => match F.ch.hintPage r w.fmt (v.toNat % 2 ^ 32) with
          | some (ma, e) => act s F ma e
          | none => s)

/-- PLACE: the page's ember is set, and a record names the page and the tier. Embers do not count a frame shared across modules
(R320). -/
def placeAct (tier : Nat) (s : State) (F : Fire) (ma : Nat) (e : Extent) : State :=
  let f := ma / 65536
  let s := if e.xs then s else s.emberChange f (s.ember f) (if tier = 0 then 255 else 0) false
  s.placementPost F.ch.part f tier false false

/-- PFCH: its line is asked for, and a nearer tier adds 16 to the page's ember, after a halving that is due (R318). No line of a frame
shared across modules is in a slice, and its ember does not count (R320). -/
def pfchAct (tier : Nat) (s : State) (F : Fire) (ma : Nat) (e : Extent) : State :=
  if e.xs then s
  else
    let f := ma / 65536
    let (id, s) := s.newId
    let s := s.setFab { s.fab with fetches := s.fab.fetches ++ [{ id := id, bind := F.cc.bind, ma := ma, ember := e.ember }] }
    let s := s.settleEmbers
    if tier < e.tier.toNat then s.emberChange f (s.ember f) (min 255 (s.ember f + 16)) false else s

/-- A line that PFCH has asked for, at its slice (R227): one that is there already needs nothing; otherwise its four beats are read and
checked, as a miss of the charge's device that can wait like any (R318, R342, R343, R363). -/
def fetchLine (id : Nat) (phys : Phys) (s : State) : Option State :=
  match s.fab.fetches.find? fun x => x.id == id with
  | none => none
  | some x =>
    match s.charge? x.bind with
    | none => none
    | some c =>
      let drop (s : State) : State := s.setFab { s.fab with fetches := s.fab.fetches.filter fun y => y.id != id }
      if !c.serves then none
      else if !phys.miss then some (drop s)
      else match s.controllerWaits id x.ma c.vdev 4 (s.fundedAt id) with
        | some s => some s
        | none => some ((((drop (s.evict phys.evict)).checkRead x.ma phys.check).chargeBeats id x.ma c.vdev 4).countMiss x.ma x.ember c.part)

/-! ## Timelines (R228 to R231) -/

/-- Runs sent so far on each chimney stream of a charge. -/
def State.sendCounts (s : State) (b h : Nat) : List (Nat × Nat) :=
  s.fab.chimneys.filterMap fun (k, c) => if k / 256 = b ∧ c.place.any (fun x => x.1 == h) then some (k, c.sentNo) else none

/-- A pending addition or post of a firing (R229, R233). -/
def pendFiring (notify : Bool) (w : WordM) (amount : Fire → BitVec 64) (s : State) : Option State :=
  match startFiring s with
  | none => none
  | some (F, s) =>
    let (id, s) := s.newId
    some (s.setFab { s.fab with
      pending := s.fab.pending ++ [{ id := id, bind := F.cc.bind, hearth := F.hearth, ce := F.ce, slot := F.slot,
                                     notify := notify, index := w.aux.toNat % 256, amount := amount F, pos := F.f.pos,
                                     upTo := id, sends := s.sendCounts F.cc.bind F.hearth, cycle := s.cycle }] })

/-- The sum of a firing's live payloads (R229). -/
def liveSum (F : Fire) : BitVec 64 :=
  F.f.pos.foldl (fun n q => n + BitVec.ofNat 64 ((q.l.getD 0).toNat % 2 ^ 32)) 0

/-- Whether everything that a pending operation waits for has ended: the ports' accesses and the engine operations of its
charge on its hearth from before its firing (R229). -/
def State.pendingMet (s : State) (p : Pending) : Bool :=
  let x := s.hearth p.hearth
  !(s.fab.reqs.any fun q => q.bind == p.bind && q.hearth == p.hearth && q.id < p.upTo && q.live && !q.done) &&
  !(s.fab.copies.any fun q => q.bind == p.bind && q.hearth == p.hearth && q.id < p.upTo) &&
  !(s.fab.nmcs.any fun q => q.bind == p.bind && q.hearth == p.hearth && q.id < p.upTo) &&
  !((x.ags ++ x.mts).any fun (k, g) => k % 1024 == p.bind && g.running && g.since ≤ p.upTo) &&
  !(x.joins.any fun (_, j) => j.bind == p.bind && ((j.draining.isSome && j.since ≤ p.upTo) || j.begun.any fun y => y.cycle < p.cycle)) &&
  !((s.charge? p.bind).any fun c => s.loadsBefore p.bind p.hearth c.ctx p.cycle) &&
  !(p.sends.any fun (k, n) => (Table.getD s.fab.chimneys k .reset).ackNo < n)

/-- The trigger run of a pending operation, to both consumers. -/
def State.sendTrigger (s : State) (p : Pending) : State :=
  match s.unitWord p.bind p.hearth p.ce p.slot with
  | some (blk, _, w) =>
    let l : List Emit := p.pos.map fun q => { iter := q.iter, val := q.l }
    let cap := (wordFmt w).maxRun
    (s.sendAll p.bind blk p.slot 0 (rawCons w 0) cap l).sendAll p.bind blk p.slot 1 (rawCons w 1) cap l
  | none => s

def State.dropPending (s : State) (id : Nat) : State :=
  s.setFab { s.fab with pending := s.fab.pending.filter fun p => p.id != id }

/-- TLINC_ADD (R229): one addition for the firing, a release at the word's scope (R282). -/
def tlincAdd (id : Nat) (s : State) : Option State :=
  match s.fab.pending.find? fun p => p.id == id && !p.notify with
  | none => none
  | some p =>
    match s.charge? p.bind, s.unitWord p.bind p.hearth p.ce p.slot with
    | some c, some (_, _, w) =>
      if !c.engines ∨ !(s.pendingMet p) then none
      else
        let (v, s) := s.chargeRelease p.bind
        let s := s.advance p.bind p.index p.amount { scope := wordScope w, hearth := p.hearth, vec := v }
        some ((s.sendTrigger p).dropPending id)
    | _, _ => none

/-- NTFY_POST (R233, R346): one post for each live position. -/
def ntfyPost (id : Nat) (s : State) : Option State :=
  match s.fab.pending.find? fun p => p.id == id && p.notify with
  | none => none
  | some p =>
    match s.charge? p.bind with
    | none => none
    | some c =>
      if !c.engines ∨ !(s.pendingMet p) then none
      else
        let s := p.pos.foldl (init := s) fun s q =>
          match q.l with
          | some v => s.postUint c.vdev p.index (faultTag c.ctx q.iter) (v.toNat % 2 ^ 64) c.launchId
          | none => s
        some ((s.sendTrigger p).dropPending id)

/-- TLWAIT (R230): each position is parked; a BUBBLE threshold waits for nothing and emits BUBBLE. -/
def tlwaitFiring (w : WordM) (s : State) : Option State :=
  match startFiring s with
  | none => none
  | some (F, s) =>
    let base := s.fab.nextId
    let waits : List TlWait := F.f.pos.zipIdx.filterMap fun (q, i) => q.l.map fun v =>
      { id := base + i, bind := F.cc.bind, hearth := F.hearth, ce := F.ce, slot := F.slot, index := w.aux.toNat % 256,
        iter := q.iter, level := v.extractLsb' 0 64 }
    let bub : List Emit := F.f.pos.filterMap fun q => if q.l.isNone then some { iter := q.iter, val := none } else none
    let s := s.setFab { s.fab with nextId := base + F.f.pos.length, waits := s.fab.waits ++ waits }
    some (s.emitBoth F w.cons1 w.cons2 16 bub)

/-- TLWAIT_RELEASE (R230): the position of lowest threshold whose counter has reached it emits the counter's value and
acquires its releases (R283). -/
def tlwaitRelease (id : Nat) (s : State) : Option State :=
  match s.fab.waits.find? fun x => x.id == id with
  | none => none
  | some x =>
    match s.charge? x.bind, s.unitWord x.bind x.hearth x.ce x.slot with
    | some c, some (blk, _, w) =>
      match c.timelines[x.index]? with
      | none => none
      | some t =>
        let first := !(s.fab.waits.any fun y => y.bind == x.bind && y.hearth == x.hearth && y.ce == x.ce &&
          y.slot == x.slot && (y.level.toNat < x.level.toNat || (y.level == x.level && y.id < x.id)))
        if !c.runs ∨ t.value.toNat < x.level.toNat ∨ !first then none
        else
          let s := s.setFab { s.fab with waits := s.fab.waits.filter fun y => y.id != id }
          let s := s.acquireRels x.bind (wordScope w) x.hearth t.rels
          let l : List Emit := [{ iter := x.iter, val := some (t.value.setWidth 128) }]
          some ((s.sendAll x.bind blk x.slot 0 (rawCons w 0) 16 l).sendAll x.bind blk x.slot 1 (rawCons w 1) 16 l)
    | _, _ => none

/-- TLRD (R231). -/
def tlrdFiring (w : WordM) (s : State) : Option State :=
  match startFiring s with
  | none => none
  | some (F, s) =>
    let v := ((F.ch.timelines[w.aux.toNat % 256]?).map (·.value)).getD 0
    some (s.emitBoth F w.cons1 w.cons2 16 (F.f.pos.map fun q => { iter := q.iter, val := q.l.map fun _ => v.setWidth 128 }))

/-- FJOIN (R232): the count at arity 1, the R run at arity 2. -/
def fjoinFire (w : WordM) (s : State) : Option State :=
  match startFiring s with
  | none => none
  | some (F, s) =>
    if w.arity = 2 then
      some ((s.emitKind F 0 w.cons1 F.f.kind w.fmt.maxRun F.runR).emitKind F 1 w.cons2 F.f.kind w.fmt.maxRun F.runR)
    else
      some (s.emitBoth F w.cons1 w.cons2 1
        [{ iter := F.tag0, val := ((F.f.pos.head?).map FPos.l).getD none |>.map fun _ => BitVec.ofNat 128 (w.aux.toNat % 128) }])

/-! ## Meanings -/

/-- PFCH (R227). -/
def execPfch (w : WordM) (s : State) : Host.Outcome State Fault Refusal :=
  finish s (hintFiring w (pfchAct (w.aux.toNat % 4)) s)

/-- BCPY (R223). -/
def execBcpy (w : WordM) (s : State) : Host.Outcome State Fault Refusal := finish s (bcpyFiring w s)

/-- NMC (R224). -/
def execNmc (w : WordM) (s : State) : Host.Outcome State Fault Refusal := finish s (nmcFiring w s)

/-- PLACE (R227). -/
def execPlace (w : WordM) (s : State) : Host.Outcome State Fault Refusal :=
  finish s (hintFiring w (placeAct (w.aux.toNat % 4)) s)

/-- FJOIN (R232). -/
def execFjoin (w : WordM) (s : State) : Host.Outcome State Fault Refusal := finish s (fjoinFire w s)

/-- TLINC (R229). -/
def execTlinc (w : WordM) (s : State) : Host.Outcome State Fault Refusal := finish s (pendFiring false w liveSum s)

/-- TLWAIT (R230). -/
def execTlwait (w : WordM) (s : State) : Host.Outcome State Fault Refusal := finish s (tlwaitFiring w s)

/-- TLRD (R231). -/
def execTlrd (w : WordM) (s : State) : Host.Outcome State Fault Refusal := finish s (tlrdFiring w s)

/-- NTFY (R233). -/
def execNtfy (w : WordM) (s : State) : Host.Outcome State Fault Refusal := finish s (pendFiring true w (fun _ => 0) s)

/-- TLINC_ADD (R229). -/
def execTlincAdd (id : Nat) (s : State) : Host.Outcome State Fault Refusal := finish s (tlincAdd id s)

/-- TLWAIT_RELEASE (R230). -/
def execTlwaitRelease (id : Nat) (s : State) : Host.Outcome State Fault Refusal := finish s (tlwaitRelease id s)

/-- NTFY_POST (R346). -/
def execNtfyPost (id : Nat) (s : State) : Host.Outcome State Fault Refusal := finish s (ntfyPost id s)

end Sys2Proof.Machine
end

