-- ==== Sys2Proof/Machine/Link.lean ====
section
/-!
DEFINITION. Sys2Proof/Machine/Link.lean: chimney streams: LSEND, LRECV and REDN (R235, R236), the frames that arrive (R24,
R237), acknowledgements, and drops that a remote module reports (R69).
-/

namespace Sys2Proof.Machine

/-! ## Streams of a charge -/

def State.chimney (s : State) (b k : Nat) : Chimney := Table.getD s.fab.chimneys (256 * b + k) .reset

def State.modChimney (s : State) (b k : Nat) (f : Chimney → Chimney) : State :=
  s.setFab { s.fab with chimneys := Table.update s.fab.chimneys (256 * b + k) .reset f }

/-- Kind of a firing's run: a firing of one port is BUBBLE throughout or not at all. -/
def Fire.linkKind (F : Fire) : Kind := if F.f.pos.any fun q => q.l.isNone then .bubble else .data

/-- The L run of a firing as a frame. -/
def Fire.frame (F : Fire) (nd : Bool) : Frame :=
  frameOf F.linkKind F.ctx F.tag0 (F.f.pos.map fun q => q.l.getD 0) nd

/-! ## LSEND (R235) -/

/-- LSEND: the run is handed to the link; a firing waits while the stream has no credit. -/
def lsendFiring (w : WordM) (s : State) : Option State :=
  match startFiring s with
  | none => none
  | some (F, s) =>
    let k := w.aux.toNat % 256
    let ch := s.chimney F.cc.bind k
    if ch.credit = 0 then none
    else
      let nd := ((F.ch.stream? k).map Stream.nd).getD false
      some ((s.modChimney F.cc.bind k fun x =>
        { x with credit := x.credit - 1, sentNo := x.sentNo + 1, sent := x.sent ++ [F.frame nd],
                 place := some (F.hearth, F.ce, F.slot), vecs := x.vecs ++ [F.ch.engineVec] }).retain F.ch k)

/-- LSEND (R235). -/
def execLsend (w : WordM) (s : State) : Host.Outcome State Fault Refusal := finish s (lsendFiring w s)

/-- LSEND_ACK (R235): the oldest unacknowledged run is acknowledged; the timeline advances as a release. Runs handed to the link
complete whatever the charge does meanwhile (R98, R354). -/
def lsendAck (bind stream : Nat) (s : State) : Option State :=
  match s.charge? bind with
  | none => none
  | some c =>
    match c.stream? stream with
    | none => none
    | some e =>
      let ch := s.chimney bind stream
      if ch.sentNo ≤ ch.ackNo then none
      else
        let h := (ch.place.map (·.1)).getD 0
        let v := ch.vecs.headD .empty
        let s := s.modChimney bind stream fun x =>
          { x with credit := x.credit + 1, ackNo := x.ackNo + 1, vecs := x.vecs.drop 1 }
        some (if e.tl = 0xFF then s else s.advanceEngine bind e.tl (s.engineRel bind e.tl .m h v))

/-- LSEND_ACK (R235). -/
def execLsendAck (bind stream : Nat) (s : State) : Host.Outcome State Fault Refusal := finish s (lsendAck bind stream s)

/-! ## LRECV (R235) -/

/-- LRECV: its trigger opens the stream. -/
def lrecvFiring (w : WordM) (s : State) : Option State :=
  match startFiring s with
  | none => none
  | some (F, s) =>
    some (s.modChimney F.cc.bind (w.aux.toNat % 256) fun x => { x with opened := some (F.hearth, F.ce, F.slot) })

/-- LRECV (R235). -/
def execLrecv (w : WordM) (s : State) : Host.Outcome State Fault Refusal := finish s (lrecvFiring w s)

/-- One arrived frame emitted to both consumers of a word. -/
def State.sendFrame (s : State) (b blk slot : Nat) (w : BitVec 64) (f : Frame) : State :=
  let data := f.kind = .data ∨ f.kind = .ovf ∨ f.kind = .bubble
  let n := if data then fmtWords (wordFmt w) else 1
  let s := s.feedTracks b blk slot
    (if data then
      f.vals.zipIdx.map fun (v, i) =>
        { iter := f.iter + BitVec.ofNat 24 i, val := if f.kind = .bubble then none else some v : Emit }
     else [])
  (s.sendCons b blk slot 0 (rawCons w 0) f.kind f.iter f.vals [] n).sendCons b blk slot 1 (rawCons w 1) f.kind f.iter f.vals [] n

/-- ABORT on a stream: forwarded to both consumers of its LRECV or REDN (R54), and the charge ends (R372). -/
def State.streamAbort (s : State) (b : Nat) (ch : Chimney) (f : Frame) : State :=
  let s := match ch.opened.orElse fun _ => ch.place with
    | some (h, e, slot) => (match s.unitWord b h e slot with
      | some (blk, _, w) => s.sendFrame b blk slot w { f with kind := .abort, vals := [0] }
      | none => s)
    | none => s
  abortArrives b s

/-- LRECV_RUN (R235): the oldest arrived run is emitted as one firing; EOS closes the stream, and an ABORT that has waited for
the trigger ends the charge (R372). -/
def lrecvRun (bind stream : Nat) (s : State) : Option State :=
  match s.charge? bind with
  | none => none
  | some c =>
    let ch := s.chimney bind stream
    match ch.opened, ch.arrived with
    | some (h, e, slot), f :: rest =>
      match s.unitWord bind h e slot with
      | none => none
      | some (blk, _, w) =>
        if !c.runs ∨ !(s.mayStart h e) then none
        else if f.kind = .abort then some (s.streamAbort bind ch f)
        else
          let s := s.modChimney bind stream fun x =>
            if f.kind = .eos then { x with arrived := rest, opened := none, carriedEos := true } else { x with arrived := rest }
          let s := if f.kind = .eos then s.noteEos h e c.ctx slot f.iter else s
          some ((s.noteStart h e c.ctx bind 1).sendFrame bind blk slot w f)
    | _, _ => none

/-- LRECV_RUN (R235). -/
def execLrecvRun (bind stream : Nat) (s : State) : Host.Outcome State Fault Refusal := finish s (lrecvRun bind stream s)

/-! ## REDN (R236) -/

/-- Positions of a run as contributions of one rank. -/
def contributions (rank : BitVec 8) (it : Iter) (k : Kind) (vals : List Val) : List (BitVec 8 × Iter × Option Val) :=
  vals.zipIdx.map fun (v, i) => (rank, it + BitVec.ofNat 24 i, if k = .bubble then none else some v)

/-- The first tag for which the rank has contributed already. -/
def duplicate (held new : List (BitVec 8 × Iter × Option Val)) : Option Iter :=
  (new.find? fun x => held.any fun y => y.1 == x.1 && y.2.1 == x.2.1).map fun x => x.2.1

/-- A tag collision at a reduce stream (R236). -/
def State.rednCollision (s : State) (b : Nat) (c : Charge) (h e slot : Nat) (it : Iter) : State :=
  s.raiseFault b { s.faultRec b 0x10 h with
    tag := faultTag c.ctx it, slot := slot, ce := e, unit := 8, detail := [0]
    block := ((s.unitWord b h e slot).map fun x => x.2.1.id).getD 0xFFFFFFFF }

/-- REDN: the run contributed at the word's rank and sent to the other participants. -/
def rednFiring (w : WordM) (s : State) : Option State :=
  match startFiring s with
  | none => none
  | some (F, s) =>
    let k := w.aux.toNat % 256
    match F.ch.stream? k with
    | none => none
    | some e =>
      let ch := s.chimney F.cc.bind k
      let new := contributions e.rank F.tag0 F.linkKind (F.f.pos.map fun q => q.l.getD 0)
      match duplicate ch.contrib new with
      | some it => some (s.rednCollision F.cc.bind F.ch F.hearth F.ce F.slot it)
      | none =>
        some ((s.modChimney F.cc.bind k fun x =>
          { x with contrib := x.contrib ++ new, place := some (F.hearth, F.ce, F.slot), sent := x.sent ++ [F.frame false] }).retain F.ch k)

/-- REDN (R236). -/
def execRedn (w : WordM) (s : State) : Host.Outcome State Fault Refusal := finish s (rednFiring w s)

/-- The contributions of one tag in ascending rank, when all `n` participants have contributed. -/
def rankValues (l : List (BitVec 8 × Iter × Option Val)) (n : Nat) (it : Iter) : Option (List (Option Val)) :=
  (List.range n).foldl (init := some []) fun acc q =>
    match acc, l.find? fun x => x.1.toNat == q && x.2.1 == it with
    | some vs, some x => some (vs ++ [x.2.2])
    | _, _ => none

/-- The reduction of one tag: BUBBLE where some contribution is BUBBLE (R54). -/
def combineRanks (u : Update) (p : Policy) (f : Fmt) (l : List (Option Val)) : Option Val :=
  match l with
  | [] => none
  | x :: xs => xs.foldl (init := x) fun acc y =>
      match acc, y with
      | some a, some b => some (mkVal f (applyUpdate u p f (elemBits f a) (elemBits f b)))
      | _, _ => none

/-- Results of the complete tags from `it` on, at most `n` of them. -/
def completeRun (l : List (BitVec 8 × Iter × Option Val)) (parts : Nat) (u : Update) (p : Policy) (f : Fmt) :
    Nat → Iter → List Emit
  | 0, _ => []
  | n + 1, it => match rankValues l parts it with
    | some vs => { iter := it, val := combineRanks u p f vs } :: completeRun l parts u p f n (it + 1)
    | none => []

/-- REDN_RESULT (R236): the results of consecutive complete tags from `iter` leave as one run. -/
def rednResult (bind stream : Nat) (iter : Iter) (s : State) : Option State :=
  match s.charge? bind with
  | none => none
  | some c =>
    let ch := s.chimney bind stream
    match c.stream? stream, ch.place with
    | some e, some (h, ce, slot) =>
      match s.unitWord bind h ce slot with
      | none => none
      | some (blk, b, w) =>
        let f := wordFmt w
        let out := completeRun ch.contrib e.count (updateOf (bitsOf w.toNat 20 17)) (c.policyOf b) f f.maxRun iter
        if !c.runs ∨ out.isEmpty ∨ e.role ≠ 2 then none
        else
          let s := s.modChimney bind stream fun x =>
            { x with contrib := x.contrib.filter fun y => !(out.any fun z => z.iter == y.2.1) }
          some ((s.sendAll bind blk slot 0 (rawCons w 0) f.maxRun out).sendAll bind blk slot 1 (rawCons w 1) f.maxRun out)
    | _, _ => none

/-- REDN_RESULT (R236). -/
def execRednResult (bind stream : Nat) (iter : Iter) (s : State) : Host.Outcome State Fault Refusal :=
  finish s (rednResult bind stream iter s)

/-! ## Frames that arrive (R24, R237) -/

/-- The charge that declares a stream on a port, and the entry. -/
def State.streamHolder (s : State) (port k : Nat) : Option (Nat × Charge × Stream) :=
  s.fab.charges.findSome? fun (b, c) =>
    match c.stream? k with
    | some e => if e.port = port ∧ e.role ≠ 0 then some (b, c, e) else none
    | none => none

/-- ABORT delivered on a stream of charge `b` (R237): an LRECV not yet opened keeps it (R372). -/
def State.deliverAbort (s : State) (b stream role : Nat) (f : Frame) : State :=
  let ch := s.chimney b stream
  if role = 1 ∧ ch.opened.isNone then s.modChimney b stream fun x => { x with arrived := x.arrived ++ [f] }
  else s.streamAbort b ch f

/-- Whether a port exists and is not retired (R37). -/
def State.portPresent (s : State) (n : Nat) : Bool := n < 24 && !(s.mod.flash.retired.contains (.uet n))

/-- A frame or packet dropped at a port (R43). -/
def State.countDropped (s : State) (n : Nat) : State := s.modPort n fun x => { x with dropped := satAdd x.dropped 1 }

/-- A run for an exited charge (R69): dropped and counted, and with nd set reported to the module that sent it. -/
def State.dropRun (s : State) (port stream : Nat) (f : Frame) : State :=
  let s := s.countExited 1
  if f.nd then s.setFab { s.fab with dropReports := s.fab.dropReports ++ [(port, stream, f)] } else s

/-- CHIMNEY_FRAME_RECEIVE (R24): a frame reaches the edge hearth of its port's stove and the stream of its charge there. A
frame at a port that is down is dropped and counted; one that does not match its check is left to the link's retry (R42, R363). -/
def chimneyFrameReceive (port stream : Nat) (rank : BitVec 8) (frame : Frame) (s : State) : Option State :=
  if !(s.portPresent port) ∨ s.mod.boot = .recoveryResponder then none
  else if (s.port port).mode = 2 then some (s.countDropped port)
  else if (s.port port).mode ≠ 1 ∨ frameIntact frame = false then none
  else
    match s.streamHolder port stream with
    | none => some (s.dropRun port stream frame)
    | some (b, c, e) =>
      let ch := s.chimney b stream
      match c.phase with
      | .halting _ | .aborting => some (s.dropRun port stream frame)
      | _ =>
        if frame.kind = .abort then some (s.deliverAbort b stream e.role frame)
        else if e.role = 1 then some (s.modChimney b stream fun x => { x with arrived := x.arrived ++ [frame] })
        else if frame.kind = .data ∨ frame.kind = .bubble then
          let new := contributions rank frame.iter frame.kind frame.vals
          match duplicate ch.contrib new with
          | some it =>
            let (h, ce, slot) := ch.place.getD (0, 0xFF, 0xFF)
            some (s.rednCollision b c h ce slot it)
          | none => some (s.modChimney b stream fun x => { x with contrib := x.contrib ++ new })
        else some s

/-- CHIMNEY_FRAME_RECEIVE (R24). -/
def execChimneyFrameReceive (port stream : Nat) (rank : BitVec 8) (frame : Frame) (s : State) :
    Host.Outcome State Fault Refusal :=
  finish s (chimneyFrameReceive port stream rank frame s)

/-- EXITED_DROP_REPORT (R69): not while the ROM waits for a recovery image, when no port takes anything else (R29). -/
def exitedDropReport (vdev : Nat) (header : BitVec 64) (s : State) : Option State :=
  if s.mod.boot = .recoveryResponder then none else some (s.postDrop vdev header.toNat)

/-- EXITED_DROP_REPORT (R69). -/
def execExitedDropReport (vdev : Nat) (header : BitVec 64) (s : State) : Host.Outcome State Fault Refusal :=
  finish s (exitedDropReport vdev header s)

end Sys2Proof.Machine
end

