-- ==== Sys2Proof/Machine/Reduce.lean ====
section
/-!
DEFINITION. Sys2Proof/Machine/Reduce.lean: run reductions, predicates and flags (R178 to R184).
-/

namespace Sys2Proof.Machine

/-- A value and the flags raised on the way, combined in the tree of R125. -/
def treeFlags (f : Nat → Nat → Nat × Flags) (l : List Nat) : Nat × Flags :=
  (treeFold (fun a b => let r := f a.1 b.1; (r.1, a.2 ||| b.2 ||| r.2)) 6 (l.map fun v => (v, (0 : Flags)))).getD (0, 0)

/-- The operation of a node on floating bits, both operands read afresh (R116, R126). -/
def nodeOp (w : WordA) (p : Policy) (op : Policy → FVal → FVal → Nat × Flags) (a b : Nat) : Nat × Flags :=
  op p (readFlt p w.fmt (mkVal w.fmt a)) (readFlt p w.fmt (mkVal w.fmt b))

/-- One floating element delivered alone: read under fin, quieted, flushed under fout (R116, R117). It is no addition's result: −0 stays −0
under zpos too (DESIGN CHOICE, assumption entry 106). -/
def oneFlt (w : WordA) (p : Policy) (a : Nat) : Nat × Flags :=
  fltToFlt p w.fmt w.mode.toNat w.sat (readFlt p w.fmt (mkVal w.fmt a))

/-- A floating reduction: the tree of R125, or the one element of a run of one position. -/
def treeFlt (w : WordA) (p : Policy) (op : Policy → FVal → FVal → Nat × Flags) (l : List Nat) : Nat × Flags :=
  match l with
  | [x] => oneFlt w p x
  | _ => treeFlags (nodeOp w p op) l

/-- VSUM (R180). -/
def vsumOp (w : WordA) (F : Fire) (l : List Val) : Nat × Flags :=
  if w.fmt.isFloat then
    treeFlt w F.policy (fun p a b => fltAdd p w.fmt w.mode.toNat w.sat a b) (l.map (elemBits w.fmt))
  else (deliverInt w.fmt.isSigned w.sat w.fmt.bits ((l.map (fmtInt w.fmt)).foldl (· + ·) 0), 0)

/-- VMAX and VMIN (R180). -/
def vminmaxOp (mx : Bool) (w : WordA) (F : Fire) (l : List Val) : Nat × Flags :=
  if w.fmt.isFloat then treeFlt w F.policy (fun p a b => fltMinMax p w.fmt mx a b) (l.map (elemBits w.fmt))
  else
    (wrapInt w.fmt.bits (match l.map (fmtInt w.fmt) with
      | [] => 0
      | x :: xs => xs.foldl (fun a b => if mx then (if a < b then b else a) else (if b < a then b else a)) x), 0)

/-- VAND and VOR (R180). -/
def vbitOp (or : Bool) (w : WordA) (l : List Val) : Nat × Flags :=
  match l.map (elemBits w.fmt) with
  | [] => (0, 0)
  | x :: xs => (xs.foldl (fun a b => if or then a ||| b else a &&& b) x, 0)

/-- PCNT (R180). -/
def pcntOp (l : List Val) : Nat × Flags := ((l.filter fun v => bitOf v.toNat 0).length, 0)

/-- One step of VSCN's running sum (R181). -/
def vscnStep (w : WordA) (p : Policy) (acc : Nat) (v : Val) : Nat × Flags :=
  if w.fmt.isFloat then
    nodeOp w p (fun p a b => fltAdd p w.fmt w.mode.toNat w.sat a b) acc (elemBits w.fmt v)
  else
    (deliverInt w.fmt.isSigned w.sat w.fmt.bits (intOf w.fmt.isSigned w.fmt.bits acc + fmtInt w.fmt v), 0)

/-- Position 0 of VSCN: its own element, a floating one read and delivered (R116, R117). -/
def vscnFirst (w : WordA) (p : Policy) (v : Val) : Nat × Flags :=
  if w.fmt.isFloat then oneFlt w p (elemBits w.fmt v) else (elemBits w.fmt v, 0)

/-- The running sums: position 0's is its own element; from a BUBBLE position on every result is BUBBLE. -/
def vscnGo (w : WordA) (F : Fire) : Nat → Option Nat → List FPos → List Res
  | _, _, [] => []
  | i, acc, q :: rest =>
    let it := tagOut w.tagop F.tagsel w.imm i q.iter q.l
    match q.l, acc with
    | some v, some a =>
      let r := if i = 0 then vscnFirst w F.policy v else vscnStep w F.policy a v
      { iter := it, val := some (mkVal w.fmt r.1), flags := r.2 } :: vscnGo w F (i + 1) (some r.1) rest
    | _, _ => { iter := it, val := none, flags := 0 } :: vscnGo w F (i + 1) none rest

/-- VSCN (R181). -/
def vscnFiring (w : WordA) (s : State) : Option State :=
  match startFiring s with
  | none => none
  | some (F, s) =>
    let rs := vscnGo w F 0 (some 0) F.f.pos
    some ((s.addFlags F.hearth F.ce F.ctx w.nf rs).emitBoth F w.cons1 w.cons2 w.fmt.maxRun (rs.map Res.emit))

/-- The positions of one parity, at half their tag (R182). -/
def parityOf (k : Nat) (F : Fire) : List Emit :=
  F.f.pos.filterMap fun q =>
    if q.iter.toNat % 2 = k then some { iter := BitVec.ofNat 24 (q.iter.toNat / 2), val := q.l } else none

/-- VSPL (R182). -/
def vsplFiring (w : WordA) (s : State) : Option State :=
  match startFiring s with
  | none => none
  | some (F, s) =>
    some ((s.emit F 0 w.cons1 w.fmt.maxRun (parityOf 0 F)).emit F 1 w.cons2 w.fmt.maxRun (parityOf 1 F))

/-- VCAT's positions (R182); where either operand is BUBBLE both are (R54). -/
def vcatPositions (F : Fire) : List Emit :=
  (F.f.pos.map fun q =>
    let bub := q.l.isNone || q.r.isNone
    [{ iter := BitVec.ofNat 24 (2 * q.iter.toNat), val := if bub then none else q.l },
     ({ iter := BitVec.ofNat 24 (2 * q.iter.toNat + 1), val := if bub then none else q.r } : Emit)]).flatten

/-- RDFL (R184): the flag entry of each trigger position. -/
def rdflFiring (w : WordA) (s : State) : Option State :=
  match startFiring s with
  | none => none
  | some (F, s) =>
    let s := s.settleFlags F.hearth F.ce F.ctx F.cc.bind
    let flags := ((s.ctx? F.hearth F.ce F.ctx).map (·.flags)).getD F.cc.flags
    let out : List Emit := F.f.pos.zipIdx.map fun (q, i) =>
      { iter := tagOut w.tagop F.tagsel w.imm i q.iter q.l
        val := q.l.map fun _ => (flags.getD (q.iter.toNat % 32) 0).setWidth 128 }
    some (s.emitBoth F w.cons1 w.cons2 32 out)

/-- CLFL (R184): bits of the mask cleared at each position that is not BUBBLE, then the trigger run unchanged. -/
def clflFiring (w : WordA) (s : State) : Option State :=
  match startFiring s with
  | none => none
  | some (F, s) =>
    let mask : Flags := BitVec.ofNat 5 w.imm.toNat
    let s := (s.settleFlags F.hearth F.ce F.ctx F.cc.bind).modCtx F.hearth F.ce F.ctx fun x =>
      { x with flags := F.f.pos.foldl (fun file q =>
          if q.l.isNone then file else modifyAt file (q.iter.toNat % 32) fun e => e &&& ~~~mask) x.flags }
    let out : List Emit := F.f.pos.zipIdx.map fun (q, i) =>
      { iter := tagOut w.tagop F.tagsel w.imm i q.iter q.l, val := q.l }
    some (s.emitBoth F w.cons1 w.cons2 32 out)

/-- A bitwise operation on predicates (R183). -/
def predElem (w : WordA) (op : Nat → Nat → Nat) (s : State) : Option State :=
  elementwise w .b1 (fun _ _ o => (op (elemBits .b1 (o.l.getD 0)) (elemBits .b1 (o.r.getD 0)), 0)) s

/-! ## Meanings -/

/-- VSUM (R180). -/
def execVsum (w : WordA) (s : State) : Host.Outcome State Fault Refusal := finish s (reduceFiring w w.fmt (vsumOp w) s)

/-- VMAX (R180). -/
def execVmax (w : WordA) (s : State) : Host.Outcome State Fault Refusal :=
  finish s (reduceFiring w w.fmt (vminmaxOp true w) s)

/-- VMIN (R180). -/
def execVmin (w : WordA) (s : State) : Host.Outcome State Fault Refusal :=
  finish s (reduceFiring w w.fmt (vminmaxOp false w) s)

/-- VAND (R180). -/
def execVand (w : WordA) (s : State) : Host.Outcome State Fault Refusal :=
  finish s (reduceFiring w w.fmt (fun _ l => vbitOp false w l) s)

/-- VOR (R180). -/
def execVor (w : WordA) (s : State) : Host.Outcome State Fault Refusal :=
  finish s (reduceFiring w w.fmt (fun _ l => vbitOp true w l) s)

/-- VSCN (R181). -/
def execVscn (w : WordA) (s : State) : Host.Outcome State Fault Refusal := finish s (vscnFiring w s)

/-- VSPL (R182). -/
def execVspl (w : WordA) (s : State) : Host.Outcome State Fault Refusal := finish s (vsplFiring w s)

/-- VCAT (R182). -/
def execVcat (w : WordA) (s : State) : Host.Outcome State Fault Refusal :=
  finish s (ownTags w w.fmt.maxRun vcatPositions s)

/-- PAND (R183). -/
def execPand (w : WordA) (s : State) : Host.Outcome State Fault Refusal := finish s (predElem w (fun a b => a &&& b) s)

/-- POR (R183). -/
def execPor (w : WordA) (s : State) : Host.Outcome State Fault Refusal := finish s (predElem w (fun a b => a ||| b) s)

/-- PXOR (R183). -/
def execPxor (w : WordA) (s : State) : Host.Outcome State Fault Refusal := finish s (predElem w (fun a b => a ^^^ b) s)

/-- PNOT (R183). -/
def execPnot (w : WordA) (s : State) : Host.Outcome State Fault Refusal := finish s (predElem w (fun a _ => a ^^^ 1) s)

/-- PCNT (R180). -/
def execPcnt (w : WordA) (s : State) : Host.Outcome State Fault Refusal :=
  finish s (reduceFiring w .n32 (fun _ l => pcntOp l) s)

/-- RDFL (R184). -/
def execRdfl (w : WordA) (s : State) : Host.Outcome State Fault Refusal := finish s (rdflFiring w s)

/-- CLFL (R184). -/
def execClfl (w : WordA) (s : State) : Host.Outcome State Fault Refusal := finish s (clflFiring w s)

end Sys2Proof.Machine
end

