-- ==== Sys2Proof/Machine/Matrix.lean ====
section
/-!
DEFINITION. Sys2Proof/Machine/Matrix.lean: the matrix block (R241 to R257): its queue, the sums of R124 and R125, scale
capture, and the words MLAT, MGATH, MMA, MMAS, MOUT, MZER and MCBT as queue entries.
-/

namespace Sys2Proof.Machine

/-! ## Which entry starts (R245, R247, R34) -/

/-- Whether a word's starts are limited by the bellows (R34). -/
def isMac (w : BitVec 64) : Bool := wordOp w == 0xA2 || wordOp w == 0xA3

/-- The head of a matrix context's queue, if it may start: its charge runs, nothing of the context is in progress, and the
bellows allows it. -/
def State.mxHead (s : State) (h e : Nat) (second : Bool) : Option QEntry :=
  let m := (s.ce h e).mx second
  match m.owner, m.queue with
  | some b, y :: _ =>
    match s.charge? b with
    | none => none
    | some c =>
      let throttled : Bool := match y with
        | .word slot .. => ((s.wordAt h e c.ctx slot).any isMac) && !(s.rateAllows (s.stove (stoveOf h)).matrixRate)
        | .scale .. => false
      if c.runs && m.mgath == 0 && m.until_ ≤ s.cycle && !m.parked && !throttled then some y else none
  | _, _ => none

/-- The entry that the block starts next: at most one a cycle, alternating between the contexts (R245). -/
def State.mxPick (s : State) (h e : Nat) : Option (Bool × QEntry) :=
  let x := s.ce h e
  if x.mxStart = some s.cycle then none
  else match s.mxHead h e (!x.mxLast) with
    | some y => some (!x.mxLast, y)
    | none => (s.mxHead h e x.mxLast).map fun y => (x.mxLast, y)

/-- A matrix entry in its place. -/
structure MxRun where
  hearth : Nat
  ce     : Nat
  second : Bool
  bind   : Nat
  ch     : Charge
  cc     : CeCtx
  blk    : Block
  slot   : Nat
  pos    : List FPos
  p0     : BitVec 32
  p1     : BitVec 32
  epoch  : Nat
  deriving DecidableEq, Repr

def State.modMx (s : State) (h e : Nat) (second : Bool) (f : MCtx → MCtx) : State :=
  s.modCe h e fun x => x.setMx second (f (x.mx second))

def MxRun.mod (M : MxRun) (s : State) (f : MCtx → MCtx) : State := s.modMx M.hearth M.ce M.second f

def MxRun.state (M : MxRun) (s : State) : MCtx := (s.ce M.hearth M.ce).mx M.second

def MxRun.policy (M : MxRun) : Policy := M.ch.policyOf M.blk

/-- The records that an entry of a context reads. -/
def State.mxRun (s : State) (h e : Nat) (second : Bool) (y : QEntry) : Option MxRun :=
  match y, ((s.ce h e).mx second).owner with
  | .word slot _ pos p0 p1 epoch _, some b =>
    match s.charge? b with
    | none => none
    | some c =>
      match s.ctx? h e c.ctx with
      | none => none
      | some cc => (c.block? cc.block).map fun k =>
          { hearth := h, ce := e, second := second, bind := b, ch := c, cc := cc, blk := k, slot := slot, pos := pos,
            p0 := p0, p1 := p1, epoch := epoch }
  | _, _ => none

/-- The head entry leaves its queue, and the block's turn and the entry's duration are noted. -/
def State.mxTake (s : State) (h e : Nat) (second : Bool) (cycles : Nat) : State :=
  (s.modMx h e second fun m => { m with queue := m.queue.drop 1, until_ := s.cycle + cycles }).modCe h e fun x =>
    { x with mxLast := second, mxStart := some s.cycle }

/-- The entry that `step` has selected, taken from its queue for `cycles` of its run; the entry before it has finished (R245, R255). -/
def startEntry (cycles : MxRun → Nat) (s : State) : Option (MxRun × State) :=
  match s.sel with
  | some (.entry h e m y) =>
    if ((s.ce h e).mx m).queue.head? ≠ some y then none
    else (s.mxRun h e m y).map fun M => (M, (s.finishFlags h e M.ch.ctx m).mxTake h e m (cycles M))
  | _ => none

/-! ## Fields of a matrix word (R243, R249) -/

def columns (w : WordX) : Nat := 2 ^ (w.sel.toNat % 8)

/-- Positions of one row group (R248). -/
def groupOf (f : Fmt) : Nat := if f = .cb2 then 4 else 32

/-- Accumulation format (R243). -/
def accFmt (w : WordX) : Fmt :=
  if w.acc64 then .f64
  else if (w.fmtA = .s8 ∨ w.fmtA = .cb2) ∧ (w.fmtB = .s8 ∨ w.fmtB = .cb2) then .s32 else .f32

/-- Whether the sum is the tree of R125. -/
def treeSum (w : WordX) : Bool := 3 ≤ matClass w.fmtA || 3 ≤ matClass w.fmtB

/-- Cycles of one row operation (R243). -/
def rowCycles (w : WordX) : Nat :=
  match matClass w.fmtA with
  | 1 => max 1 (columns w / 16)
  | 2 => max 1 (columns w / 8)
  | 3 => max 1 (columns w / 2)
  | _ => columns w

/-- Row groups of a run, ascending (R248). -/
def rowGroups (f : Fmt) (pos : List FPos) : List Nat :=
  pos.foldl (fun l q => insertAsc (q.iter.toNat / groupOf f) l) []

/-- The shell table of a block (R112). -/
def MxRun.shell (M : MxRun) : List (BitVec 32) := M.ch.image.shells.getD M.policy.cbtab []

/-! ## Sums (R124, R125) -/

/-- An operand element: weights of cb2 are held as s8. -/
def matElem (p : Policy) (f : Fmt) (v : Nat) : FVal :=
  if f = .s8 ∨ f = .cb2 then (let n := signedOf 8 v; .fin (n < 0) n.natAbs 0)
  else readFlt p f (BitVec.ofNat 128 v)

/-- Streaming elements 0 to 31 of row group `g`, none where no position supplies one (R248). -/
def rowElems (f : Fmt) (shell : List (BitVec 32)) (pos : List FPos) (g : Nat) : List (Option Nat) :=
  (List.range 32).map fun k =>
    if f = .cb2 then
      (pos.find? fun q => q.iter.toNat / 4 == g && q.iter.toNat % 4 == k / 8).map fun q =>
        wrapInt 8 ((cbWeights shell ((q.l.getD 0).toNat % 2 ^ 16)).getD (k % 8) 0)
    else
      (pos.find? fun q => q.iter.toNat / 32 == g && q.iter.toNat % 32 == k).map fun q => elemBits f (q.l.getD 0)

/-- The exact sum of products and accumulator, rounded once to f32 (R124). -/
def exactSum (p : Policy) (as bs : List FVal) (acc : FVal) : Nat × Flags :=
  let ops := as ++ bs ++ [acc]
  let prods := (as.zip bs).map fun (a, b) => prodExact a b
  let terms := prods.filterMap id ++ [acc]
  let isInf (t : Bool) (x : FVal) : Bool := match x with | .inf s => s == t | _ => false
  let pos := terms.any (isInf false)
  let neg := terms.any (isInf true)
  let invalid := prods.any Option.isNone
  let nv : Flags := if invalid || ops.any isSNaN || (pos && neg) then flNV else 0
  if invalid || ops.any isNaN then (nanResult p .f32 ops, nv)
  else
    if pos && neg then (fltNaN .f32, flNV)
    else if pos then (fltInf .f32 false, 0)
    else if neg then (fltInf .f32 true, 0)
    else
      let q := terms.foldl (fun (q : Int) x => match x with | .fin _ _ e => min q e | _ => q) 0
      let v := terms.foldl (fun (n : Int) x => match x with | .fin s m e => n + scaled s m e q | _ => n) 0
      let zs := terms.all fun x => match x with | .fin s m _ => s && m == 0 | _ => false
      deliver p .f32 0 false true zs v q

/-- An addition node of the tree of R125. -/
def addNode (p : Policy) (f : Fmt) (a b : Nat) : Nat × Flags :=
  fltAdd p f 0 false (readFlt p f (BitVec.ofNat 128 a)) (readFlt p f (BitVec.ofNat 128 b))

/-- The tree of R125 over 32 products, an absent element being a +0 product, and then the accumulator. -/
def treeMac (p : Policy) (w : WordX) (as : List (Option Nat)) (bs : List Nat) (acc : Nat) : Nat × Flags :=
  let f := accFmt w
  let node (x y : Nat × Flags) : Nat × Flags :=
    let r := addNode p f x.1 y.1
    (r.1, x.2 ||| y.2 ||| r.2)
  let leaves : List (Nat × Flags) := (as.zip bs).map fun (a, b) =>
    match a with
    | none => (0, 0)
    | some v => fltMul p f 0 false (matElem p w.fmtA v) (matElem p w.fmtB b)
  node ((treeFold node 6 leaves).getD (0, 0)) (acc, 0)

/-- matrix_sum of one output position (R243, R252). -/
def matrixSum (p : Policy) (w : WordX) (as : List (Option Nat)) (bs : List Nat) (acc : Nat) : Nat × Flags :=
  if accFmt w = .s32 then
    let t := (as.zip bs).foldl (fun (n : Int) (a, b) => n + signedOf 8 (a.getD 0) * signedOf 8 b) 0
    (wrapInt 32 (signedOf 32 acc + t), 0)
  else if treeSum w then treeMac p w as bs acc
  else
    exactSum p (as.map fun a => matElem p w.fmtA (a.getD 0)) (bs.map (matElem p w.fmtB))
      (readFlt p .f32 (BitVec.ofNat 128 acc))

/-! ## Latch and accumulator -/

def cellKey (row col : Nat) : Nat := 16 * row + col

def MCtx.latchAt (m : MCtx) (k n : Nat) : Nat := (Table.getD m.latch (cellKey k n) 0).toNat
def MCtx.accAt (m : MCtx) (r n : Nat) : Nat := (Table.getD m.acc (cellKey r n) 0).toNat

/-- The latch with element `e` (row-major) set (R250). -/
def MCtx.setLatch (m : MCtx) (n e : Nat) (v : Val) : MCtx :=
  { m with latch := Table.put m.latch (cellKey (e % (32 * n) / n) (e % (32 * n) % n)) v }

/-- An accumulator row set to zero and its mark cleared (R253, R254). -/
def MCtx.clearRow (m : MCtx) (r : Nat) : MCtx :=
  { m with acc := m.acc.filter fun (k, _) => k / 16 ≠ r, accMarks := m.accMarks &&& ~~~((1 : BitVec 32) <<< r) }

/-- MLAT (R250). -/
def mlatEntry (w : WordX) (s : State) : Option State :=
  match startEntry (fun _ => 1) s with
  | none => none
  | some (M, s) =>
    some (M.mod s fun m => M.pos.foldl (init := m) fun m q =>
      match q.l with
      | none => { m with latchMark := true }
      | some v => m.setLatch (columns w) q.iter.toNat (mkVal w.fmtB (elemBits w.fmtB v)))

/-- MLAT (R250). -/
def execMlat (w : WordX) (s : State) : Host.Outcome State Fault Refusal := finish s (mlatEntry w s)

/-- MCBT (R250): the eight weights of each index, held exactly. -/
def mcbtEntry (w : WordX) (s : State) : Option State :=
  match startEntry (fun _ => 1) s with
  | none => none
  | some (M, s) =>
    some (M.mod s fun m => M.pos.foldl (init := m) fun m q =>
      match q.l with
      | none => { m with latchMark := true }
      | some v => ((cbWeights M.shell (v.toNat % 2 ^ 16)).zipIdx).foldl (init := m) fun m (x, k) =>
          m.setLatch (columns w) (8 * q.iter.toNat + k) (BitVec.ofNat 128 (wrapInt 8 x)))

/-- MCBT (R250). -/
def execMcbt (w : WordX) (s : State) : Host.Outcome State Fault Refusal := finish s (mcbtEntry w s)

/-! ## MGATH (R251) -/

/-- MGATH: the entry starts; its elements return one by one, and it stays at the head until they have. -/
def mgathEntry (_w : WordX) (s : State) : Option State :=
  match s.sel with
  | some (.entry h e m y) =>
    match startEntry (fun _ => 1) s with
    | none => none
    | some (M, s) =>
      let s := if M.pos.any fun q => q.l.isNone then M.mod s fun x => { x with latchMark := true } else s
      some (if (liveRows M.pos).isEmpty then s
        else s.modMx h e m fun x => { x with queue := y :: x.queue, mgath := 1, until_ := s.cycle })
  | _ => none

/-- MGATH (R251). -/
def execMgath (w : WordX) (s : State) : Host.Outcome State Fault Refusal := finish s (mgathEntry w s)

/-- One element written to the latch: the entry that has read its last one leaves the queue. -/
def MCtx.gathered (m : MCtx) (k n total : Nat) (v : Val) : MCtx :=
  let m := { m with latch := Table.put m.latch (cellKey k n) v }
  if m.mgath = total then { m with mgath := 0, queue := m.queue.drop 1 } else { m with mgath := m.mgath + 1 }

/-- MGATH_READ_RETURN (R251): the next element of the started entry of a context. -/
def mgathRead (hearth ce : Nat) (second : Bool) (phys : Phys) (s : State) : Option State :=
  let m := (s.ce hearth ce).mx second
  match m.queue with
  | [] => none
  | y :: _ =>
    match s.mxRun hearth ce second y with
    | none => none
    | some M =>
      let w := M.blk.words.getD M.slot 0
      let n := 2 ^ (bitsOf w.toNat 28 24 % 8)
      let f := Fmt.ofCode (bitsOf w.toNat 51 48)
      match M.ch.region? (bitsOf w.toNat 21 16), gatherElem w M.pos M.p0 M.p1 (m.mgath - 1) with
      | some r, some (q, x, col) =>
        if m.mgath = 0 ∨ m.parked ∨ !M.ch.serves ∨ !(M.ch.mayTry (mxKey hearth ce)) then none
        else
          let s := s.tryKey M.bind (mxKey hearth ce)
          let size := elemBytes f false
          let off := r.base + x * size
          let va := M.ch.vaddr r off
          let id := gatherId hearth ce second
          let fault (s : State) (code : Nat) (st rem : Bool) (addr : Nat) (detail : List Nat) : State :=
            let s := s.raceRaised M.ch code
            ((M.mod s fun m => { m with parked := true }).parkKey M.bind (mxKey hearth ce)).raiseFault M.bind { s.faultRec M.bind code hearth with
              stageW := st, remote := rem, tag := faultTag M.ch.ctx q.iter, address := BitVec.ofNat 64 addr,
              block := M.blk.id, slot := M.slot, ce := ce, unit := 3, detail := detail }
          let got (s : State) (v : Val) : State :=
            M.mod s fun m => m.gathered (q.iter.toNat % 32) col (n * (liveRows M.pos).length) (mkVal f (elemBits f v))
          let settle (addr : Nat) (res : Except (Stop × State) (Val × Bool × State)) : Option State :=
            match res with
            | .ok (v, _, s) => some (got s v)
            | .error (.waits, s) => some s
            | .error (.fault code st detail, s) => some (fault s code st false (if code = 8 then detail.headD 0 else addr) detail)
          let damped (g : Nat) (go : Option State) : Option State :=
            if s.passes hearth g then go else some ((s.countDamper 1).modMx hearth ce second fun m => { m with parked := true })
          if !(r.inBounds x size) then some (fault s 7 false false va [x])
          else match s.place M.ch hearth r off true false with
            | .error g => some (fault s g.code g.stageW g.remote g.addr [])
            | .ok .waits => none
            | .ok (.mem ma e) =>
              settle va (s.accessMem e (M.ch.actor M.epoch) id M.ch.vdev va ma size .load 7 M.policy f 0 0 phys (s.fundedAt id))
            | .ok (.pad g ma) => damped g (settle ma (s.accessPad ma size .load M.policy f 0 0 phys.check))
            | .ok (.window g win o) => damped g (some (got s (BitVec.ofNat 128 (s.readWindow g M.ch.ctx win o size))))
            | .ok (.remote ..) => none
      | _, _ => none

/-- MGATH_READ_RETURN (R251). -/
def execMgathReadReturn (hearth ce : Nat) (second : Bool) (phys : Phys) (s : State) : Host.Outcome State Fault Refusal :=
  finish s ((mgathRead hearth ce second phys s).map fun t => match ((s.ce hearth ce).mx second).owner with
    | some b => t.touch b
    | none => t)

/-! ## MMA and MMAS (R252, R255) -/

/-- One row operation: whether the row is BUBBLE, and its N sums with their flags. -/
def rowOp (w : WordX) (M : MxRun) (m : MCtx) (acc : Bool) (g : Nat) : Bool × List (Nat × Flags) :=
  let as := rowElems w.fmtA M.shell M.pos g
  let bub := m.latchMark || M.pos.any fun q => q.iter.toNat / groupOf w.fmtA == g && q.l.isNone
  (bub, (List.range (columns w)).map fun n =>
    matrixSum M.policy w as ((List.range 32).map fun k => m.latchAt k n) (if acc then m.accAt (g % 32) n else 0))

/-- Flags of a row's columns, which go into their entries as the matrix entry finishes; a BUBBLE row raises none (R123, R255). -/
def State.rowFlags (s : State) (M : MxRun) (nf bub : Bool) (vs : List (Nat × Flags)) : State :=
  if nf || bub then s
  else M.mod s fun m => { m with pend := vs.zipIdx.foldl (fun t (v, n) => Table.update t n 0 (· ||| v.2)) m.pend }

/-- MMA. -/
def mmaEntry (w : WordX) (s : State) : Option State :=
  match startEntry (fun M => rowCycles w * (rowGroups w.fmtA M.pos).length) s with
  | none => none
  | some (M, s) =>
    some ((rowGroups w.fmtA M.pos).foldl (init := s) fun s g =>
      let m := M.state s
      let (bub, vs) := rowOp w M m true g
      let r := g % 32
      let acc := vs.zipIdx.foldl (init := m.acc) fun t (v, n) => Table.put t (cellKey r n) (BitVec.ofNat 128 v.1)
      let marks := if bub then m.accMarks ||| ((1 : BitVec 32) <<< r) else m.accMarks
      (M.mod s fun m => { m with acc := acc, accMarks := marks }).rowFlags M w.nf bub vs)

/-- MMA (R252). -/
def execMma (w : WordX) (s : State) : Host.Outcome State Fault Refusal := finish s (mmaEntry w s)

/-- Scale 1 in a capture format (R241). -/
def oneScale (scl : Nat) : BitVec 16 := if scl = 1 then 0x7F else 0x3F80

/-- The scale pair of a column. -/
def MCtx.pairOf (m : MCtx) (scl n : Nat) : BitVec 16 × BitVec 16 :=
  (m.sa.getD (oneScale scl), (Table.get? m.sb n).getD (oneScale scl))

/-- The last pair of an MMAS slot; (1, 1) at first. -/
def MCtx.last (m : MCtx) (slot scl : Nat) : BitVec 16 × BitVec 16 :=
  let p := Table.getD m.lastPair slot (none, none)
  (p.1.getD (oneScale scl), p.2.getD (oneScale scl))

/-- Maximal spans of columns with one scale pair (R257): first column, pair, results. -/
def pairSpans (m : MCtx) (scl : Nat) (row : List Emit) : List (Nat × (BitVec 16 × BitVec 16) × List Emit) :=
  row.zipIdx.foldl (init := []) fun acc (e, n) =>
    let p := if scl = 0 then (0, 0) else m.pairOf scl n
    match acc.getLast? with
    | some (n0, p0, l) => if p0 = p then acc.dropLast ++ [(n0, p0, l ++ [e])] else acc ++ [(n, p, [e])]
    | none => [(n, p, [e])]

/-- One span to consumer `k`: the pair first where it is new, then its columns as one run. -/
def State.sendSpan (s : State) (M : MxRun) (k : Nat) (x : Consumer) (scales : Bool) (p : BitVec 16 × BitVec 16)
    (l : List Emit) (words : Nat := 1) : State :=
  let it := (l.head?.map Emit.iter).getD 0
  let sc (s : State) (v : BitVec 16) : State := s.sendCons M.bind M.cc.block M.slot k x .scale it [v.setWidth 128]
  let s := if scales then sc (sc s p.1) p.2 else s
  s.sendRun M.bind M.cc.block M.slot k x .data l words

/-- A row of partial sums emitted (R257). -/
def State.emitRow (s : State) (w : WordX) (M : MxRun) (row : List Emit) : State :=
  let scl := w.scl.toNat
  let s := s.feedTracks M.bind M.cc.block M.slot row
  (pairSpans (M.state s) scl row).foldl (init := s) fun s (_, p, l) =>
    let new : Bool := scl ≠ 0 && p != (M.state s).last M.slot scl
    let s := (s.sendSpan M 0 w.cons1 new p l (fmtWords (accFmt w))).sendSpan M 1 w.cons2 new p l (fmtWords (accFmt w))
    if new then M.mod s fun m => { m with lastPair := Table.put m.lastPair M.slot (some p.1, some p.2) } else s

/-- Tag of column `n` of row group `g` (R248). -/
def rowTag (g n : Nat) : Iter := BitVec.ofNat 24 (32 * g + n)

/-- MMAS. -/
def mmasEntry (w : WordX) (s : State) : Option State :=
  match startEntry (fun M => rowCycles w * (rowGroups w.fmtA M.pos).length) s with
  | none => none
  | some (M, s) =>
    some ((rowGroups w.fmtA M.pos).foldl (init := s) fun s g =>
      let (bub, vs) := rowOp w M (M.state s) false g
      let row : List Emit := vs.zipIdx.map fun (v, n) =>
        { iter := rowTag g n, val := if bub then none else some (BitVec.ofNat 128 v.1) }
      (s.rowFlags M w.nf bub vs).emitRow w M row)

/-- MMAS (R252). -/
def execMmas (w : WordX) (s : State) : Host.Outcome State Fault Refusal := finish s (mmasEntry w s)

/-! ## MOUT and MZER (R253, R254) -/

/-- MOUT: each position's row at the tags of its row group; a marked row or a BUBBLE position emits BUBBLE. -/
def moutEntry (w : WordX) (s : State) : Option State :=
  match startEntry (fun M => M.pos.length) s with
  | none => none
  | some (M, s) =>
    some (M.pos.foldl (init := s) fun s q =>
      let m := M.state s
      let r := q.iter.toNat % 32
      let bub := m.accMarks.getLsbD r || q.l.isNone
      let row : List Emit := (List.range (columns w)).map fun n =>
        { iter := rowTag q.iter.toNat n, val := if bub then none else some (BitVec.ofNat 128 (m.accAt r n)) }
      let cap := (accFmt w).maxRun
      let s := (s.sendAll M.bind M.cc.block M.slot 0 w.cons1 cap row).sendAll M.bind M.cc.block M.slot 1 w.cons2 cap row
      if bitOf w.sel.toNat 3 && q.l.isSome then M.mod s fun m => m.clearRow r else s)

/-- MOUT (R253). -/
def execMout (w : WordX) (s : State) : Host.Outcome State Fault Refusal := finish s (moutEntry w s)

/-- MZER. -/
def mzerEntry (w : WordX) (s : State) : Option State :=
  match startEntry (fun _ => 1) s with
  | none => none
  | some (M, s) =>
    let s := if bitOf w.sel.toNat 3 then M.mod s fun m => { m with acc := [], accMarks := 0 }
      else M.mod s fun m => M.pos.foldl (fun m q => m.clearRow (q.iter.toNat % 32)) m
    some (if bitOf w.sel.toNat 4 then M.mod s fun m => { m with latch := [], sa := none, sb := [], latchMark := false } else s)

/-- MZER (R254). -/
def execMzer (w : WordX) (s : State) : Host.Outcome State Fault Refusal := finish s (mzerEntry w s)

/-! ## Scale entries and EOS (R246, R256, R257) -/

/-- N of the words of a handler's body. -/
def Block.bodyColumns (b : Block) (slot : Nat) : Nat :=
  match b.capture? slot with
  | some x => 2 ^ (bitsOf x.toNat 28 24 % 8)
  | none => 1

/-- SCALE_ENTRY (R256): the head of the queue that goes next, when it is a captured scale; the entry before it has finished (R255). -/
def scaleEntry (hearth ce : Nat) (s : State) : Option State :=
  match s.mxPick hearth ce with
  | some (m, .scale hndl streaming it enc) =>
    let c := ((s.ce hearth ce).mx m).owner.bind s.charge?
    let n : Nat := (c.bind fun c => (s.blockOf c hearth ce).map fun b => b.bodyColumns hndl).getD 1
    let s := (match c with
      | some c => s.finishFlags hearth ce c.ctx m
      | none => s).mxTake hearth ce m 1
    some (s.modMx hearth ce m fun x =>
      if streaming then { x with sa := some enc } else { x with sb := Table.put x.sb (it.toNat % n) enc })
  | _ => none

/-- SCALE_ENTRY (R256). -/
def execScaleEntry (hearth ce : Nat) (s : State) : Host.Outcome State Fault Refusal := finish s (scaleEntry hearth ce s)

/-- Whether a queue entry was appended by a handler slot. -/
def QEntry.from (y : QEntry) (slot : Nat) : Bool := match y with
  | .word _ h .. => h == slot
  | .scale h .. => h == slot

/-- MATRIX_EOS (R246): once the queue holds no entry of a handler slot that has emitted EOS, every consumer of its body's
MMAS and MOUT words receives EOS. -/
def matrixEos (hearth ce ctx slot : Nat) (s : State) : Option State :=
  match s.ctx? hearth ce ctx with
  | none => none
  | some cc =>
    match s.charge? cc.bind, (s.ce hearth ce).mxOf cc.bind with
    | some c, some second =>
      match c.block? cc.block with
      | none => none
      | some b =>
        let outs := (b.bodyWords slot).filter fun (k, w) =>
          (wordOp w == 0xA3 || wordOp w == 0xA4) && (Table.get? cc.eosOut k).isNone
        match Table.get? cc.eosOut slot with
        | none => none
        | some it =>
          if !c.runs ∨ outs.isEmpty ∨ (((s.ce hearth ce).mx second).queue.any fun y => y.from slot) then none
          else
            let s := s.modCtx hearth ce ctx fun x => { x with eosOut := outs.foldl (fun t (k, _) => Table.put t k it) x.eosOut }
            let s := s.modMx hearth ce second fun m =>
              { m with lastPair := outs.foldl (fun t (k, _) => Table.erase t k) m.lastPair }
            some (outs.foldl (init := s) fun s (k, w) =>
              (s.sendCons cc.bind cc.block k 0 (rawCons w 0) .eos it [0]).sendCons cc.bind cc.block k 1 (rawCons w 1) .eos it [0])
    | _, _ => none

/-- MATRIX_EOS (R246). -/
def execMatrixEos (hearth ce ctx slot : Nat) (s : State) : Host.Outcome State Fault Refusal :=
  finish s (matrixEos hearth ce ctx slot s)

end Sys2Proof.Machine
end

