-- ==== Sys2Proof/Machine/Join.lean ====
section
/-!
DEFINITION. Sys2Proof/Machine/Join.lean: the join unit (R258 to R270): slots and probes, updates, the ash region, drains and
the words JINIT, JWIN, JADD, JPRD, JMATCH, JPROBE, JDRO, JDRH, JMRG and JSTAT.
-/

namespace Sys2Proof.Machine

/-! ## Slots (R258, R259) -/

/-- A join slot's fields. -/
structure JSlot where
  key   : Nat
  value : Nat
  adds  : Nat
  deriving DecidableEq, Repr

def State.join? (s : State) (h c : Nat) : Option Join := Table.get? (s.hearth h).joins c

def State.modJoin (s : State) (h c : Nat) (f : Join → Join) : State :=
  s.modHearth h fun x => { x with joins := Table.modify x.joins c f }

/-- Format of a partition's values. -/
def Join.fmt (j : Join) : Fmt := if j.wide then .f64 else .f32

/-- Whether slot `n` belongs to a partition: its index lies in the range and its bank is not disabled. -/
def Join.owns (j : Join) (off : BitVec 32) (n : Nat) : Bool :=
  j.abase ≤ n % 2048 && n % 2048 < j.abase + 2 ^ j.q && !(off.getLsbD (n / 2048))

/-- Slot `n` of hearth `h`, `none` when its occ bit is 0. -/
def State.jslot (s : State) (h n : Nat) (wide : Bool) : Option JSlot :=
  let a := jafAddr h n
  if (s.byte (a + 19)).getLsbD 7 then
    some { key := s.nat a 8, value := s.nat (a + 8) (if wide then 8 else 4), adds := s.nat (a + 16) 2 }
  else none

/-- A slot written whole. -/
def State.putSlot (s : State) (h n : Nat) (x : JSlot) : State :=
  s.store (jafAddr h n) (leBytes 8 x.key ++ leBytes 8 x.value ++ leBytes 2 x.adds ++ [0, 0x80] ++ List.replicate 44 0)

/-- Listed byte addresses in a range. -/
def State.listedIn (s : State) (lo hi : Nat) : List Nat :=
  ((s.wlog ++ s.mem).filter fun c => lo ≤ c.1 && c.1 < hi).map (·.1)

/-- Slot numbers of a partition that hold some byte, ascending. -/
def State.touchedSlots (s : State) (h : Nat) (j : Join) : List Nat :=
  (s.listedIn (jafAddr h 0) (jafAddr h 65536)).foldl (init := []) fun l a =>
    let n := (a - jafAddr h 0) / 64
    if j.owns (s.hearth h).banksOff n then insertAsc n l else l

/-- Occupied slots of a partition in ascending slot order. -/
def State.occupied (s : State) (h : Nat) (j : Join) : List JSlot :=
  (s.touchedSlots h j).filterMap fun n => s.jslot h n j.wide

/-- Every slot of a partition set to its reset value. -/
def State.clearSlots (s : State) (h : Nat) (j : Join) : State :=
  (s.touchedSlots h j).foldl (fun s n => s.store (jafAddr h n) (List.replicate 64 0)) s

/-! ## Probe (R260) -/

/-- Home bank and index of a key. -/
def homeOf (key : Nat) : Nat × Nat :=
  let x := (key / 2 ^ 32 ^^^ key) % 2 ^ 32 * 0x9B1D47E5 % 2 ^ 32
  let x := x ^^^ x / 2 ^ 15
  (x / 2 ^ 16 % 32, x / 2 ^ 21)

inductive Probe where
  | full
  | empty (slot : Nat)
  | hit (slot : Nat) (x : JSlot)
  deriving DecidableEq, Repr

/-- The probe from bank distance `31 - fuel`; with the steps taken. -/
def State.probeGo (s : State) (h : Nat) (j : Join) (key b0 i : Nat) : Nat → Nat → Probe × Nat
  | 0, steps => (.full, min steps j.limit)
  | fuel + 1, steps =>
    let b := (b0 + (31 - fuel)) % 32
    if (s.hearth h).banksOff.getLsbD b then State.probeGo s h j key b0 i fuel steps
    else if j.limit < steps + 1 then (.full, j.limit)
    else
      let n := 2048 * b + i
      match s.jslot h n j.wide with
      | none => (.empty n, steps + 1)
      | some x => if x.key = key then (.hit n x, steps + 1) else State.probeGo s h j key b0 i fuel (steps + 1)

/-- A probe's outcome and its length in steps. -/
def State.probe (s : State) (h : Nat) (j : Join) (key : Nat) : Probe × Nat :=
  let (b0, i0) := homeOf key
  s.probeGo h j key b0 (j.abase + i0 % 2 ^ j.q) 32 0

/-! ## The ash region (R264) -/

/-- Why an operation does not proceed: it waits; it lets the firings that started before it go first; a closed damper has discarded what it
asked for (R15); or its fault's code, stage, address and detail. -/
inductive JStop where
  | waits
  | yields
  | damped
  | fault (code : Nat) (stageW : Bool) (addr : Nat) (detail : List Nat)
  deriving DecidableEq, Repr

abbrev JResult (α : Type) := Except (JStop × State) α

/-- Who reads and writes the ash: the charge and its key, the hearth, the region, the actor (R276), and the cycle in which the firing
started (R280). -/
structure Ash where
  b : Nat
  c : Charge
  h : Nat
  r : Region
  a : Actor
  cycle : Nat
  /-- the access is part of a restore (R371): it waits for no load, no controller, and is not charged to the device -/
  restore : Bool := false
  deriving DecidableEq, Repr

/-- The state in which an operation reaches the ash: what its accesses answered before it last stopped and it has not met again, and all
that they have answered (R275, R354). -/
structure AshSt where
  s    : State
  left : List Nat
  memo : List Nat
  deriving DecidableEq, Repr

abbrev AshResult (α : Type) := Except (JStop × AshSt) (α × AshSt)

/-- Whether a write of a firing of the charge that started in a cycle waits for an earlier load on the hearth (R280). -/
def State.writeHeld (s : State) (b h ctx cycle : Nat) : Bool :=
  (s.fab.reqs.any fun e => e.live && !e.done && e.bind == b && e.hearth == h && !(opWrites e.op) && e.cycle < cycle) ||
  s.loadsBefore b h ctx cycle

/-- Whether the partition's operation misses its slice with its next access: one that has waited has missed, and of another the world
says so (R318). -/
def State.juMiss (s : State) (h c : Nat) : Bool × State :=
  if (s.join? h c).any fun j => j.want.isSome then (true, s) else s.nextMiss

/-- An access of `n` bytes at offset `off` of the ash region: its machine address, translated and checked for races, and served by its
controller where it leaves the slice (R342, R343). -/
def Ash.reach (x : Ash) (off n : Nat) (wr : Bool) (s : State) : JResult (Nat × State) :=
  if wr && !x.restore && s.writeHeld x.b x.h x.c.ctx x.cycle then .error (.waits, s)
  else match s.place x.c x.h x.r (x.r.base + off) (!wr) wr with
  | .error f => .error (.fault f.code f.stageW f.addr [], s)
  | .ok (.mem ma e) =>
    let (miss, s) := if x.restore then (false, s) else s.juMiss x.h x.c.ctx
    let out := !x.restore && (miss || e.xs)
    let id := juId x.h x.c.ctx
    (match (if out then s.controllerWaits id ma x.c.vdev 1 (s.fundedAt id) else none) with
     | some s => .error (.waits, s.modJoin x.h x.c.ctx fun j => { j with want := some ma })
     | none =>
       let s := s.modJoin x.h x.c.ctx fun j => { j with want := none }
       match s.checkRace e x.a (if wr then .write else .read) ma n with
       | .ok s => .ok (ma, if out then s.countServed id ma x.c.vdev 1 x.c.part e else s)
       | .error (rec, w) =>
         let va := x.c.vaddr x.r (x.r.base + off)
         .error (.fault 0x16 false va (raceDetail (boolNat wr) va x.a rec w), s))
  | .ok (.pad _ ma) => .ok (ma, s)
  | .ok _ => .error (.waits, s)

/-- A value read from the ash, anew only where the operation has not read it before; the read is checked (R363), and a poisoned beat is
an ash read error (R275). -/
def Ash.read (x : Ash) (off n : Nat) (y : AshSt) : AshResult Nat :=
  match y.left with
  | v :: rest => .ok (v, { y with left := rest })
  | [] => match x.reach off n false y.s with
    | .error (e, s) => .error (e, { y with s := s })
    | .ok (ma, s) =>
      let (k, s) := if x.restore then (.good, s) else s.nextCheck
      let s := s.checkRead ma k
      if s.anyPoison (s.readAt ma) n then .error (.fault 0x19 false (x.c.vaddr x.r (x.r.base + off)) [], { y with s := s })
      else
        let v := s.loadHome ma n
        .ok (v, { s := s, left := [], memo := y.memo ++ [v] })

/-- A value written to the ash, unless the operation has written it before. -/
def Ash.write (x : Ash) (off n v : Nat) (y : AshSt) : AshResult Unit :=
  match y.left with
  | _ :: rest => .ok ((), { y with left := rest })
  | [] => match x.reach off n true y.s with
    | .error (e, s) => .error (e, { y with s := s })
    | .ok (ma, s) => .ok ((), { s := s.storeHome ma (leBytes n v), left := [], memo := y.memo ++ [0] })

/-- The ash header: run count and used. -/
def Ash.header (x : Ash) (y : AshSt) : AshResult (Nat × Nat) :=
  match x.read 0 4 y with
  | .error e => .error e
  | .ok (n, y) => match x.read 8 8 y with
    | .error e => .error e
    | .ok (u, y) => .ok ((n, u), y)

def Ash.setHeader (x : Ash) (count used : Nat) (y : AshSt) : AshResult Unit :=
  match x.write 0 4 count y with
  | .error e => .error e
  | .ok ((), y) => x.write 8 8 used y

/-- A record at `off`: key and value. -/
def Ash.record (x : Ash) (wide : Bool) (off : Nat) (y : AshSt) : AshResult (Nat × Nat) :=
  match x.read off 8 y with
  | .error e => .error e
  | .ok (k, y) => match x.read (off + 8) 8 y with
    | .error e => .error e
    | .ok (v, y) => .ok ((k, if wide then v else v % 2 ^ 32), y)

/-- The records of a run, from the one at `off` on. -/
def Ash.records (x : Ash) (wide : Bool) : Nat → Nat → AshSt → AshResult (List (Nat × Nat))
  | 0, _, y => .ok ([], y)
  | n + 1, off, y => match x.record wide off y with
    | .error e => .error e
    | .ok (r, y) => match Ash.records x wide n (off + 16) y with
      | .error e => .error e
      | .ok (l, y) => .ok (r :: l, y)

/-- The records of the runs from the one at `off` on. A record count that would pass the region's end is cut there. -/
def Ash.runs (x : Ash) (wide : Bool) : Nat → Nat → AshSt → AshResult (List (Nat × Nat))
  | 0, _, y => .ok ([], y)
  | n + 1, off, y =>
    if x.r.length < off + 16 then .ok ([], y)
    else match x.read off 4 y with
      | .error e => .error e
      | .ok (k, y) =>
        let k := min k ((x.r.length - off - 16) / 16)
        match x.records wide k (off + 16) y with
        | .error e => .error e
        | .ok (l, y) => match Ash.runs x wide n (off + 16 + 16 * k) y with
          | .error e => .error e
          | .ok (m, y) => .ok (l ++ m, y)

/-- All records of the ash, oldest run first, each run in record order. -/
def Ash.all (x : Ash) (wide : Bool) (y : AshSt) : AshResult (List (Nat × Nat)) :=
  match x.header y with
  | .error e => .error e
  | .ok ((n, _), y) => x.runs wide (min n (x.r.length / 16)) 64 y

/-- Records written from `off`. -/
def Ash.putRecords (x : Ash) : List (Nat × Nat) → Nat → AshSt → AshResult Unit
  | [], _, y => .ok ((), y)
  | (k, v) :: rest, off, y => match x.write off 8 k y with
    | .error e => .error e
    | .ok ((), y) => match x.write (off + 8) 8 v y with
      | .error e => .error e
      | .ok ((), y) => Ash.putRecords x rest (off + 16) y

/-- A run written at `off`. -/
def Ash.putRun (x : Ash) (wide : Bool) (off : Nat) (l : List (Nat × Nat)) (y : AshSt) : AshResult Unit :=
  match x.write off 8 (l.length + boolNat wide * 2 ^ 32) y with
  | .error e => .error e
  | .ok ((), y) => match x.write (off + 8) 8 0 y with
    | .error e => .error e
    | .ok ((), y) => x.putRecords l (off + 16) y

/-- Whether a run of `n` records at `off` would pass the region's length (R264). -/
def Ash.exhausted (x : Ash) (off n : Nat) : Bool := x.r.length < off + 16 + 16 * n

/-- A spill or compaction without room writes nothing, and begins afresh when it is tried again (R264). -/
def ashFull {α : Type} (y : AshSt) : AshResult α := .error (.fault 0x18 false 0 [], { y with left := [], memo := [] })

/-! ## Combining (R263, R266) -/

/-- A stored value plus an exact addend, rounded once to the table format. -/
def joinAdd (p : Policy) (f : Fmt) (old : Nat) (u : FVal) : Nat × Flags :=
  fltAdd p f 0 false (readFlt p f (BitVec.ofNat 128 old)) u

/-- Occurrences of keys combined: the earliest is kept, each later one is added to it. Keys ascend. -/
def combine (p : Policy) (f : Fmt) (l : List (Nat × Nat)) : Table Nat × Flags :=
  l.foldl (init := ([], 0)) fun (t, fl) (k, v) =>
    match Table.get? t k with
    | none => (Table.put t k v, fl)
    | some old =>
      let r := joinAdd p f old (readFlt p f (BitVec.ofNat 128 v))
      (Table.put t k r.1, fl ||| r.2)

/-- A record inserted after those of keys not above its own. -/
def insertKey (x : Nat × Nat) : List (Nat × Nat) → List (Nat × Nat)
  | [] => [x]
  | y :: ys => if x.1 < y.1 then x :: y :: ys else y :: insertKey x ys

def sortKeys (l : List (Nat × Nat)) : List (Nat × Nat) := l.foldl (fun acc x => insertKey x acc) []

/-- The flags of a JU operation ORed into the partition's flag word. -/
def State.joinFlags (s : State) (h c : Nat) (nf : Bool) (fl : Flags) : State :=
  if nf then s else s.modJoin h c fun j => { j with flags := j.flags ||| fl }

/-- Compaction of the runs of the header `(n, used)` that has been read (R265): the merged run goes to offset used, then to offset 64. Its
additions raise their flags as it ends. -/
def Ash.compact (x : Ash) (p : Policy) (j : Join) (nf : Bool) (used : Nat) (y : AshSt) : AshResult Unit :=
  match x.all j.wide y with
  | .error e => .error e
  | .ok (l, y) =>
    let (m, fl) := combine p j.fmt l
    if x.exhausted used m.length || x.exhausted 64 m.length then ashFull y
    else match x.putRun j.wide used m y with
      | .error e => .error e
      | .ok ((), y) => match x.putRun j.wide 64 m y with
        | .error e => .error e
        | .ok ((), y) => match x.setHeader 1 (80 + 16 * m.length) y with
          | .error e => .error e
          | .ok ((), y) => .ok ((), { y with s := y.s.joinFlags x.h x.c.ctx nf fl })

/-- A run of records added behind the `n` runs that use `used` bytes (R264, steps 2 and 3). -/
def Ash.appendAt (x : Ash) (j : Join) (l : List (Nat × Nat)) (n used : Nat) (y : AshSt) : AshResult Unit :=
  if x.exhausted used l.length then ashFull y
  else match x.putRun j.wide used l y with
    | .error e => .error e
    | .ok ((), y) => x.setHeader (n + 1) (used + 16 + 16 * l.length) y

/-- A run of records added at the end of the ash (R264, steps 1 to 3). Compaction, where it comes first, is done once it has ended: an
operation that stops after it does not begin with it again. -/
def Ash.append (x : Ash) (p : Policy) (j : Join) (nf : Bool) (l : List (Nat × Nat)) (y : AshSt) : AshResult Unit :=
  match x.header y with
  | .error e => .error e
  | .ok ((n, used), y) =>
    if n ≠ 32 then x.appendAt j l n used y
    else match x.compact p j nf used y with
      | .error e => .error e
      | .ok ((), y) => match x.header { y with left := [], memo := [] } with
        | .error e => .error e
        | .ok ((n, used), y) => x.appendAt j l n used y

/-- A spill (R264). -/
def Ash.spill (x : Ash) (p : Policy) (j : Join) (nf : Bool) (y : AshSt) : AshResult Unit :=
  match x.append p j nf (sortKeys ((y.s.occupied x.h j).map fun z => (z.key, z.value))) y with
  | .error e => .error e
  | .ok ((), y) => .ok ((), { y with s := y.s.clearSlots x.h j })

/-- An operation on the ash of hearth `h`, context `c`: it goes on where it stopped before, and one that stops keeps what it has done. -/
def State.ashOp {α : Type} (s : State) (h c : Nat) (op : AshSt → AshResult α) : JResult (α × State) :=
  let memo := (s.join? h c).elim [] Join.memo
  match op { s := s, left := memo, memo := memo } with
  | .error (e, y) => .error (e, y.s.modJoin h c fun j => { j with memo := y.memo })
  | .ok (v, y) => .ok (v, y.s.modJoin h c fun j => { j with memo := [], want := none })

/-! ## Operations in arrival order (R261) -/

/-- Epoch of a firing's accesses: kept through parking (R292). -/
def Fire.epoch (F : Fire) : Nat := F.f.epoch.getD F.ch.epoch

/-- The partition that a firing uses. -/
def Fire.join (F : Fire) (s : State) : Option Join := s.join? F.hearth F.ctx

/-- Whether an entry among the firings that have started is this firing's. -/
def Begun.isOf (x : Begun) (F : Fire) : Bool := x.ce == F.ce && x.slot == F.slot && x.tag == F.tag0

/-- Cycle in which a firing of the JU started: now, where it has not done so before. -/
def Fire.started (F : Fire) (j : Join) (s : State) : Nat := ((j.begun.find? fun x => x.isOf F).map Begun.cycle).getD s.cycle

/-- The partition's next operation is not this firing's: a drain has not ended, another operation is before it, or an earlier firing of
its CE has not ended (R261). -/
def Join.blocks (j : Join) (F : Fire) : Bool :=
  j.draining.isSome || (match j.parked with
    | some x => x != (F.ce, F.slot, F.tag0)
    | none => false) ||
  j.begun.any fun x => x.ce == F.ce && !(x.isOf F)

/-- Whether a firing that started in an earlier cycle has not ended: an operation that will write the ash lets it go first, since a load of
it is performed before this firing's writes (R280). -/
def Join.yields (j : Join) (cycle : Nat) : Bool := j.memo.isEmpty && j.begun.any fun x => x.cycle < cycle

/-- The firing is no longer among those that have started. -/
def State.juEnd (s : State) (F : Fire) : State :=
  s.modJoin F.hearth F.ctx fun j => { j with begun := j.begun.filter fun x => !(x.isOf F) }

/-- The ash of the firing's partition, accessed by the charge, or by the engine context of a drain with the epoch of its start (R276,
R292). -/
def Fire.ash (F : Fire) (j : Join) (engine : Bool) (s : State) : Option Ash :=
  (F.ch.region? j.ash).map fun r =>
    { b := F.cc.bind, c := F.ch, h := F.hearth, r := r, cycle := F.started j s
      a := if engine then F.ch.engine j.dtl (j.epoch.getD 0) j.vec else F.ch.actor F.epoch }

/-- A firing that has not finished is ready again. -/
def State.readyAgain (s : State) (F : Fire) (f : Firing) : State :=
  s.modCtx F.hearth F.ce F.ctx fun x => { x with ready := f :: x.ready }

/-- The same for one that has started at its partition, with the cycle of its start. -/
def State.begunAgain (s : State) (F : Fire) (f : Firing) (cycle : Nat) : State :=
  let tag := match f.pos with
    | [] => 0
    | q :: _ => q.iter
  ((s.juEnd F).modJoin F.hearth F.ctx fun j =>
    { j with begun := j.begun ++ [{ ce := F.ce, slot := F.slot, tag := tag, cycle := cycle }] }).readyAgain F f

/-- The same, and its partition waits for it. -/
def State.reserve (s : State) (F : Fire) (f : Firing) (cycle : Nat) : State :=
  let tag := match f.pos with
    | [] => 0
    | q :: _ => q.iter
  (s.begunAgain F f cycle).modJoin F.hearth F.ctx fun j => { j with parked := some (F.ce, F.slot, tag) }

/-- Whether no CE but the firing's has a JU firing of its partition ready. -/
def State.juAlone (s : State) (F : Fire) : Bool :=
  (List.range ceCount).all fun e => e == F.ce ||
    (match s.ctx? F.hearth e F.ctx with
     | some cc => cc.bind != F.cc.bind || cc.ready.all fun f =>
         let op := (s.wordAt F.hearth e F.ctx f.slot).elim 0 wordOp
         !(0xB0 ≤ op && op ≤ 0xB9)
     | none => true)

/-- The record of a fault at the JU, unit 5: a race of a drain's accesses names slot 0xFF and tag 0, as an engine's (R296; DESIGN CHOICE, assumption
entry 112). -/
def State.juRaise (s : State) (b h ce slot : Nat) (c : Charge) (it : Iter) (engine : Bool) (code : Nat) (stageW : Bool) (addr : Nat)
    (detail : List Nat) : State :=
  let s := (s.raceRaised c code).parkKey b (juKey h)
  let race := engine && code == 0x16
  let block := ((s.blockOf c h ce).map Block.id).getD 0xFFFFFFFF
  s.raiseFault b { s.faultRec b code h with
    stageW := stageW, tag := if race then 0 else faultTag c.ctx it, address := BitVec.ofNat 64 addr
    block := if race then 0xFFFFFFFF else block, slot := if race then 0xFF else slot, ce := ce, unit := 5, detail := detail }

/-- A firing at its partition's turn: the partition, and the cycle of the firing's start. -/
def juTurn (F : Fire) (s : State) : Option (Join × Nat × State) :=
  match F.join s with
  | none => none
  | some j =>
    if j.blocks F ∨ !(F.ch.mayTry (juKey F.hearth)) then none
    else some (j, F.started j s, (s.modJoin F.hearth F.ctx fun j => { j with parked := none }).tryKey F.cc.bind (juKey F.hearth))

/-- A firing of the JU that stops: one that waits holds the partition, one that yields does not, and one that faults is parked, its charge
freezing (R261, R275); of a charge that ends nothing is parked, and the firing ends there (R98). Nothing happens where a firing that has
not started, as `first` says, only yields. -/
def State.juStop (s : State) (F : Fire) (again : Firing) (cycle : Nat) (first engine : Bool) (it : Iter) (stop : JStop) : Option State :=
  match stop with
  | .waits | .damped => some (s.reserve F again cycle)
  | .yields => if first then none else some (s.begunAgain F again cycle)
  | .fault code st addr detail =>
    match F.ch.phase with
    | .halting _ | .aborting => some ((s.juEnd F).modJoin F.hearth F.ctx fun j => { j with memo := [], want := none, epoch := none })
    | _ => some ((s.reserve F again cycle).juRaise F.cc.bind F.hearth F.ce F.slot F.ch it engine code st addr detail)

/-- At most `n` positions applied one by one from the first not yet done; what they answer, and why they stopped. -/
def juPositions (one : FPos → State → JResult (Option Val × State)) :
    Nat → List FPos → List (Option Val) → State → List (Option Val) × Option JStop × State
  | 0, _, done, s => (done, none, s)
  | _, [], done, s => (done, none, s)
  | n + 1, q :: rest, done, s => match one q s with
    | .ok (v, s) => juPositions one n rest (done ++ [v]) s
    | .error (e, s) => (done, some e, s)

/-- How many positions of a firing its partition applies before it turns to another CE: a free value says, since entries from different
CEs interleave in any order (R261); all of them where no other CE has any. -/
def State.juShare (s : State) (F : Fire) (left : Nat) : Nat × State :=
  if s.juAlone F then (left, s)
  else
    let (v, s) := s.free
    (v.toNat % left + 1, s)

/-- What becomes of a firing that stops in a charge that ends: its positions not applied leave the store-acknowledgement count (R98). -/
def State.juLeave (s : State) (F : Fire) (counted : Bool) (left : Nat) (stop : JStop) : State :=
  match stop, F.ch.phase with
  | .fault .., .halting _ | .fault .., .aborting => if counted then s.lowerAcks F.cc.bind left else s
  | _, _ => s

/-- A JU word whose positions are applied one after another and whose results leave at the end. `counted` raises the
store-acknowledgement count (R261); `whole` says that the word is one operation, whose positions do not interleave with others. A firing
with positions left is ready again. -/
def juFiring (counted whole : Bool) (one : Fire → FPos → State → JResult (Option Val × State))
    (results : Fire → List (Option Val) → State → State) (s : State) : Option State :=
  match startFiring s with
  | none => none
  | some (F, s) =>
    match juTurn F s with
    | none => none
    | some (_, cycle, s) =>
      let first := F.f.epoch.isNone
      let s := if counted && first then s.raiseAcks F.cc.bind F.f.pos.length else s
      let left := F.f.pos.length - F.f.done.length
      let (n, s) := if whole then (left, s) else s.juShare F left
      let (done, stop, s) := juPositions (one F) n (F.f.pos.drop F.f.done.length) F.f.done s
      let s := if counted then s.lowerAcks F.cc.bind (done.length - F.f.done.length) else s
      let again : Firing := { F.f with done := done, epoch := some F.epoch, acq := [] }
      match stop with
      | none => if done.length = F.f.pos.length then some (results F done (s.juEnd F)) else some (s.begunAgain F again cycle)
      | some e =>
        (s.juStop F again cycle (first && done.isEmpty) false ((F.f.pos[done.length]?).map (·.iter) |>.getD 0) e).map fun t =>
          t.juLeave F counted (F.f.pos.length - done.length) e

/-- Results with their positions' tags. -/
def juEmits (F : Fire) (l : List (Option Val)) : List Emit :=
  (F.f.pos.zip l).map fun (q, v) => { iter := q.iter, val := v }

/-! ## JADD and JPRD (R263) -/

/-- An update's addend: the value of a JADD, or the factors of a JPRD. -/
inductive Addend where
  | value (v : FVal)
  | product (x y : FVal)
  deriving DecidableEq, Repr

def addendOf (product : Bool) (p : Policy) (f : Fmt) (r : Val) : Addend :=
  if product then
    .product (readFlt p f r) (readFlt p f (BitVec.ofNat 128 (r.toNat / 2 ^ f.bits)))
  else .value (readFlt p f r)

/-- value + u, rounded once: the slot's value goes first. -/
def Addend.addTo (u : Addend) (p : Policy) (f : Fmt) (old : Nat) : Nat × Flags :=
  match u with
  | .value v => joinAdd p f old v
  | .product x y =>
    let a := readFlt p f (BitVec.ofNat 128 old)
    let nans := [a, x, y]
    match prodExact x y with
    | none => (nanResult p f nans, flNV)
    | some (.nan ..) => (nanResult p f nans, snanFlag nans)
    | some q => sumFlt p f 0 false a q nans

/-- u rounded once, for an empty slot. -/
def Addend.first (u : Addend) (p : Policy) (f : Fmt) : Nat × Flags :=
  posZero p f (match u with
    | .value v => fltToFlt p f 0 false v
    | .product x y => fltMul p f 0 false x y)

/-- An update applied where its probe ended; a probe that is full again applies nothing. -/
def State.applyProbe (s : State) (F : Fire) (nf : Bool) (u : Addend) (f : Fmt) (key : Nat) (r : Probe) : Option Val × State :=
  match r with
  | .full => (some 0, s)
  | .empty n =>
    let v := u.first F.policy f
    (some 1, (s.putSlot F.hearth n { key := key, value := v.1, adds := 1 }).joinFlags F.hearth F.ctx nf v.2)
  | .hit n x =>
    let v := u.addTo F.policy f x.value
    (some 1, (s.putSlot F.hearth n { key := key, value := v.1, adds := min 65535 (x.adds + 1) }).joinFlags F.hearth F.ctx
      nf v.2)

/-- Probe lengths of updates count for JSTAT (R269). -/
def State.notedProbe (s : State) (F : Fire) (n : Nat) : State :=
  s.modJoin F.hearth F.ctx fun j => { j with longest := max j.longest n }

/-- One update (R263). -/
def updatePos (product : Bool) (w : WordX) (F : Fire) (q : FPos) (s : State) : JResult (Option Val × State) :=
  match F.join s with
  | none => .error (.waits, s)
  | some j =>
    if w.arity = 3 ∧ q.p.any (fun v => !(bitOf v.toNat 0)) then .ok (some 0, s)
    else match q.l, q.r, (w.arity = 3 ∧ q.p.isNone : Bool) with
      | some l, some r, false =>
        let key := elemBits w.fmtA l
        if key < j.wlo.toNat ∨ j.whi.toNat < key then
          .ok (some 0, s.modJoin F.hearth F.ctx fun j => { j with rejects := j.rejects + 1 })
        else
          let u := addendOf product F.policy w.fmtB r
          match s.probe F.hearth j key with
          | (.full, n) =>
            (match F.ash j false s with
             | none => .error (.waits, s)
             | some x => if j.yields x.cycle then .error (.yields, s) else match s.ashOp F.hearth F.ctx (x.spill F.policy j w.nf) with
               | .error e => .error e
               | .ok ((), s) =>
                 let s := s.modJoin F.hearth F.ctx fun j => { j with spills := j.spills + 1 }
                 let (r, m) := s.probe F.hearth j key
                 .ok ((s.notedProbe F (max n m)).applyProbe F w.nf u j.fmt key r))
          | (r, n) => .ok ((s.notedProbe F n).applyProbe F w.nf u j.fmt key r)
      | _, _, _ => .ok (none, s)

/-- The count of applied positions to consumer 1 and the b1 run to consumer 2. -/
def updateResults (w : WordX) (F : Fire) (done : List (Option Val)) (s : State) : State :=
  let n := (done.filter fun v => v == some 1).length
  (s.emitOne F 0 w.cons1 F.tag0 (some (BitVec.ofNat 128 n))).emit F 1 w.cons2 32 (juEmits F done)

/-- JADD (R263). -/
def execJadd (w : WordX) (s : State) : Host.Outcome State Fault Refusal :=
  finish s (juFiring true false (updatePos false w) (updateResults w) s)

/-- JPRD (R263). -/
def execJprd (w : WordX) (s : State) : Host.Outcome State Fault Refusal :=
  finish s (juFiring true false (updatePos true w) (updateResults w) s)

/-! ## JPROBE and JMATCH (R268) -/

/-- What a key's probe finds. -/
def State.lookup (s : State) (F : Fire) (key : Nat) : Option JSlot :=
  match F.join s with
  | none => none
  | some j => match s.probe F.hearth j key with
    | (.hit _ x, _) => some x
    | _ => none

/-- JPROBE: the value stored, or +0, with the hit above its 64 bits; a BUBBLE key answers BUBBLE. -/
def probePos (w : WordX) (F : Fire) (q : FPos) (s : State) : JResult (Option Val × State) :=
  .ok (q.l.map fun l =>
    let x := s.lookup F (elemBits w.fmtA l)
    BitVec.ofNat 128 ((x.map JSlot.value).getD 0 + boolNat x.isSome * 2 ^ 64), s)

def probeResults (w : WordX) (F : Fire) (done : List (Option Val)) (s : State) : State :=
  let part (f : Nat → Nat) : List (Option Val) := done.map fun v => v.map fun x => BitVec.ofNat 128 (f x.toNat)
  (s.emit F 0 w.cons1 w.fmtB.maxRun (juEmits F (part (· % 2 ^ 64)))).emit F 1 w.cons2 32 (juEmits F (part (· / 2 ^ 64)))

/-- JPROBE (R268). -/
def execJprobe (w : WordX) (s : State) : Host.Outcome State Fault Refusal :=
  finish s (juFiring false false (probePos w) (probeResults w) s)

/-- JMATCH: 1 where the key hits; a position with a BUBBLE operand goes to consumer 1 as BUBBLE. -/
def matchPos (w : WordX) (F : Fire) (q : FPos) (s : State) : JResult (Option Val × State) :=
  .ok ((match q.l, q.r with
    | some l, some _ => some (BitVec.ofNat 128 (boolNat (s.lookup F (elemBits w.fmtA l)).isSome))
    | _, _ => none), s)

def matchResults (w : WordX) (F : Fire) (done : List (Option Val)) (s : State) : State :=
  let side (k : Bool) : List Emit := (F.f.pos.zip done).filterMap fun (q, v) =>
    match v with
    | none => if k then some { iter := q.iter, val := none } else none
    | some x => if (x == 1) == k then some { iter := q.iter, val := q.r } else none
  (s.emit F 0 w.cons1 w.fmtB.maxRun (side true)).emit F 1 w.cons2 w.fmtB.maxRun (side false)

/-- JMATCH (R268). -/
def execJmatch (w : WordX) (s : State) : Host.Outcome State Fault Refusal :=
  finish s (juFiring false false (matchPos w) (matchResults w) s)

/-! ## JINIT and JWIN (R262) -/

/-- A word that is one operation and then emits its trigger run. -/
def juOnce (w : WordX) (op : Fire → Join → State → JResult State) (s : State) : Option State :=
  match startFiring s with
  | none => none
  | some (F, s) =>
    match juTurn F s with
    | none => none
    | some (j, cycle, s) =>
      match op F j s with
      | .ok s => some ((s.juEnd F).emitBoth F w.cons1 w.cons2 32 F.runL)
      | .error (e, s) => s.juStop F { F.f with epoch := some F.epoch, acq := [] } cycle F.f.epoch.isNone false F.tag0 e

/-- JINIT's effect on the partition. -/
def initJoin (F : Fire) (j : Join) (s : State) : JResult State :=
  match F.ash j false s with
  | none => .error (.waits, s)
  | some x =>
    if j.yields x.cycle then .error (.yields, s)
    else match s.ashOp F.hearth F.ctx (x.setHeader 0 64) with
      | .error e => .error e
      | .ok ((), s) =>
        .ok ((s.clearSlots F.hearth j).modJoin F.hearth F.ctx fun j =>
          { j with wlo := 0, whi := BitVec.allOnes 64, flags := 0, spills := 0, rejects := 0, longest := 0, drains := 0 })

/-- JINIT (R262). -/
def execJinit (w : WordX) (s : State) : Host.Outcome State Fault Refusal := finish s (juOnce w initJoin s)

/-- JWIN's effect on the partition. -/
def windowJoin (w : WordX) (F : Fire) (_ : Join) (s : State) : JResult State :=
  let g := w.pidx.toNat
  let lo := s.param F.hearth F.ce F.ctx g 64
  let hi := s.param F.hearth F.ce F.ctx (g + 2) 64
  .ok (s.modJoin F.hearth F.ctx fun j => { j with wlo := BitVec.ofNat 64 lo, whi := BitVec.ofNat 64 hi })

/-- JWIN (R262). -/
def execJwin (w : WordX) (s : State) : Host.Outcome State Fault Refusal := finish s (juOnce w (windowJoin w) s)

/-! ## JMRG and JSTAT (R265, R269) -/

/-- JMRG: 0 where it compacted, 1 where there was nothing to merge. -/
def Ash.merge (x : Ash) (p : Policy) (j : Join) (y : AshSt) : AshResult Nat :=
  match x.header y with
  | .error e => .error e
  | .ok ((n, used), y) =>
    if n ≤ 1 then .ok (1, y)
    else match x.compact p j false used y with
      | .error e => .error e
      | .ok ((), y) => .ok (0, y)

/-- One position of a JMRG. -/
def mergePos (F : Fire) (q : FPos) (s : State) : JResult (Option Val × State) :=
  match q.l, F.join s with
  | none, _ => .ok (none, s)
  | _, none => .error (.waits, s)
  | some _, some j => match F.ash j false s with
    | none => .error (.waits, s)
    | some x =>
      if j.yields x.cycle then .error (.yields, s)
      else match s.ashOp F.hearth F.ctx (x.merge F.policy j) with
        | .error e => .error e
        | .ok (n, s) => .ok (some (BitVec.ofNat 128 n), s)

/-- JMRG (R265). -/
def execJmrg (w : WordX) (s : State) : Host.Outcome State Fault Refusal :=
  finish s (juFiring false true mergePos (fun F done s => s.emitBoth F w.cons1 w.cons2 32 (juEmits F done)) s)

/-- The value of a JSTAT selector. -/
def statPos (w : WordX) (F : Fire) (q : FPos) (s : State) : JResult (Option Val × State) :=
  let give (n : Nat) : JResult (Option Val × State) := .ok (some (BitVec.ofNat 128 (n % 2 ^ 64)), s)
  match q.l, F.join s with
  | none, _ => .ok (none, s)
  | _, none => .error (.waits, s)
  | some _, some j =>
    match w.sel.toNat with
    | 0 => give (s.occupied F.hearth j).length
    | 3 => give j.spills
    | 4 => give j.rejects
    | 5 => give j.longest
    | 6 => give j.flags.toNat
    | 7 => give j.drains
    | k => match F.ash j false s with
      | none => .error (.waits, s)
      | some x => match s.ashOp F.hearth F.ctx x.header with
        | .error e => .error e
        | .ok ((n, u), s) => .ok (some (BitVec.ofNat 128 (if k = 1 then n else u)), s)

/-- JSTAT (R269). -/
def execJstat (w : WordX) (s : State) : Host.Outcome State Fault Refusal :=
  finish s (juFiring false false (statPos w) (fun F done s => s.emitBoth F w.cons1 w.cons2 16 (juEmits F done)) s)

/-! ## Drains (R266, R267) -/

/-- What a drain emits: keys ascending with their combined values, or the slots as they stand. -/
def drained (ordered : Bool) (F : Fire) (j : Join) (s : State) : JResult (List (Nat × Nat) × Flags × State) :=
  let table := (s.occupied F.hearth j).map fun y => (y.key, y.value)
  if ordered then
    match F.ash j true s with
    | none => .error (.waits, s)
    | some x => match s.ashOp F.hearth F.ctx (x.all j.wide) with
      | .error e => .error e
      | .ok (l, s) => let (m, fl) := combine F.policy j.fmt (l ++ table); .ok (m, fl, s)
  else .ok (table, 0, s)

/-- Positions of the longest run of a drain. -/
def drainCap (w : WordX) : Nat := if w.fmtA.bits = 64 ∨ w.fmtB.bits = 64 then 16 else 32

/-- Length of a drain's next run: runs break at multiples of 32 and are at most `cap` positions long (R266). -/
def Drain.nextRun (d : Drain) (cap : Nat) : Nat := min (min cap (32 - d.tag % 32)) d.todo.length

/-- A drain's next run emitted, keys to consumer 1 and values to consumer 2. -/
def State.emitDrain (s : State) (w : WordX) (b blk : Nat) (d : Drain) : State :=
  let l := d.todo.take (d.nextRun (drainCap w))
  let run (f : Fmt) (get : Nat × Nat → Nat) : List Emit := l.zipIdx.map fun (x, m) =>
    { iter := BitVec.ofNat 24 (d.tag + m), val := some (mkVal f (get x)) }
  (s.sendAligned b blk d.slot 0 w.cons1 (drainCap w) (run w.fmtA (·.1)) (fmtWords w.fmtA)).sendAligned b blk d.slot 1
    w.cons2 (drainCap w) (run w.fmtB (·.2)) (fmtWords w.fmtB)

/-- A drain starts with the epoch of its engine context and what its engine operation releases; one that goes on keeps them (R292). -/
def State.drainStart (s : State) (F : Fire) : State :=
  s.modJoin F.hearth F.ctx fun j => match j.epoch with
    | some _ => j
    | none => { j with epoch := some (((F.ch.timelines[j.dtl]?).map fun t => t.value.toNat).getD 0), vec := F.ch.engineVec }

/-- JDRO and JDRH: leading BUBBLE triggers emit BUBBLE; the first other trigger drains, and the rest wait until that drain has
ended. The drain's records leave run by run (JDRO_DRAIN_DONE), so that a freeze finds it at its next record (R354). -/
def drainFiring (ordered : Bool) (w : WordX) (s : State) : Option State :=
  match startFiring s with
  | none => none
  | some (F, s) =>
    match juTurn F s with
    | none => none
    | some (j, cycle, s) =>
      let bub := F.f.pos.takeWhile fun q => q.l.isNone
      match F.f.pos.drop bub.length with
      | [] => some ((s.juEnd F).emitBoth F w.cons1 w.cons2 32 (bub.map fun q => { iter := q.iter, val := none }))
      | q :: rest =>
        let s := s.emitBoth F w.cons1 w.cons2 32 (bub.map fun q => { iter := q.iter, val := none })
        let again (l : List FPos) : Firing := { F.f with pos := l, epoch := some F.epoch, acq := [] }
        let stop (e : JStop) (s : State) : Option State :=
          s.juStop F (again (q :: rest)) cycle (F.f.epoch.isNone && bub.isEmpty) true q.iter e
        if ordered && j.yields cycle then stop .yields s
        else match drained ordered F ((F.join (s.drainStart F)).getD j) (s.drainStart F) with
        | .error (e, s) => stop e s
        | .ok (l, fl, s) =>
          let s := s.joinFlags F.hearth F.ctx false fl
          let d : Drain :=
            { ordered := ordered, ce := F.ce, slot := F.slot, trig := q.iter, cycle := cycle
              tag := (q.l.getD 0).toNat % 2 ^ 32, todo := l }
          let s := if rest.isEmpty then s.juEnd F else s.begunAgain F (again rest) cycle
          some (s.modJoin F.hearth F.ctx fun j => { j with draining := some d, since := s.fab.nextId })

/-- JDRO (R266). -/
def execJdro (w : WordX) (s : State) : Host.Outcome State Fault Refusal := finish s (drainFiring true w s)

/-- JDRH (R267). -/
def execJdrh (w : WordX) (s : State) : Host.Outcome State Fault Refusal := finish s (drainFiring false w s)

/-- The next run of a drain emitted. -/
def State.drainRun (s : State) (bind hearth : Nat) (c : Charge) (d : Drain) : Option State :=
  match s.unitWord bind hearth d.ce d.slot with
  | none => none
  | some (blk, _, raw) =>
    let w := wordXOf raw
    let n := d.nextRun (drainCap w)
    some ((s.emitDrain w bind blk d).modJoin hearth c.ctx fun j =>
      { j with draining := some { d with tag := d.tag + n, todo := d.todo.drop n } })

/-- JDRO_DRAIN_DONE (R266): a drain with records left emits its next run. After the last one the slots are cleared, an ordered drain's ash
header is written, and the timeline advances as a release (R282). -/
def drainDone (bind hearth : Nat) (s : State) : Option State :=
  match s.charge? bind with
  | none => none
  | some c =>
    match s.join? hearth c.ctx with
    | none => none
    | some j =>
      match j.draining, c.region? j.ash with
      | some d, some r =>
        if !c.engines ∨ j.bind ≠ bind ∨ !(c.mayTry (juKey hearth)) then none
        else if !d.todo.isEmpty then s.drainRun bind hearth c d
        else
          let x : Ash :=
            { b := bind, c := c, h := hearth, r := r, a := c.engine j.dtl (j.epoch.getD 0) j.vec, cycle := d.cycle }
          let s := s.tryKey bind (juKey hearth)
          match (if d.ordered then s.ashOp hearth c.ctx (x.setHeader 0 64) else .ok ((), s)) with
          | .error (.fault code st addr detail, s) =>
            if c.runs then some (s.juRaise bind hearth d.ce d.slot c d.trig true code st addr detail)
            else some (s.modJoin hearth c.ctx fun j => { j with draining := none, memo := [], want := none, epoch := none })
          | .error (_, s) => some s
          | .ok ((), s) =>
            let s := (s.clearSlots hearth j).modJoin hearth c.ctx fun j =>
              { j with draining := none, epoch := none, drains := j.drains + 1 }
            some (s.advanceEngine bind j.dtl (s.engineRel bind j.dtl .m hearth j.vec))
      | _, _ => none

/-- JDRO_DRAIN_DONE (R266). -/
def execJdroDrainDone (bind hearth : Nat) (s : State) : Host.Outcome State Fault Refusal :=
  finish s ((drainDone bind hearth s).map fun t => t.touch bind)

end Sys2Proof.Machine
end

