-- ==== Sys2Proof/Machine/Index.lean ====
section
/-!
DEFINITION. Sys2Proof/Machine/Index.lean: the index engine: IWALK (R271) and IBAL (R272).
-/

namespace Sys2Proof.Machine

/-- The parameter quad of a word's context (R271). -/
def State.quad (s : State) (F : Fire) (g : Nat) : List (BitVec 32) :=
  (List.range 4).map fun k => BitVec.ofNat 32 (s.param F.hearth F.ce F.ctx (g + k) 32)

/-- Each position queued at the index engine, with the quad as it stands when the firing starts. -/
def ieFiring (w : WordX) (s : State) : Option State :=
  match startFiring s with
  | none => none
  | some (F, s) =>
    let quad := s.quad F w.pidx.toNat
    let walks : List Walk := F.f.pos.map fun q =>
      let v := (q.l.getD 0).toNat
      { bind := F.cc.bind, ce := F.ce, slot := F.slot, iter := q.iter, e0 := BitVec.ofNat 32 v, e1 := BitVec.ofNat 32 (v / 2 ^ 32),
        quad := quad, region := w.region.toNat, epoch := F.ch.epoch, cycle := s.cycle, parked := false, bubble := q.l.isNone, memo := [], want := none }
    some (s.modHearth F.hearth fun x => { x with ie := x.ie ++ walks })

/-- IWALK (R271). -/
def execIwalk (w : WordX) (s : State) : Host.Outcome State Fault Refusal := finish s (ieFiring w s)

/-- The positions of an IBAL, which the index engine balances in their turn. -/
def ibalFiring (w : WordX) (s : State) : Option State := ieFiring w s

/-- IBAL (R272). -/
def execIbal (w : WordX) (s : State) : Host.Outcome State Fault Refusal := finish s (ibalFiring w s)

/-! ## Reads -/

/-- Who reads: the walk, its charge, hearth and region. -/
structure IeRun where
  h : Nat
  w : Walk
  c : Charge
  r : Region
  deriving DecidableEq, Repr

/-- The state in which a walk reads: what it has read before it last stopped and has not met again, all that it has read, the machine
address of the read with which it waits, and what the event says that the home shows of its first read. -/
structure IeSt where
  s    : State
  left : List Nat
  memo : List Nat
  want : Option Nat
  phys : Option Phys
  deriving DecidableEq, Repr

/-- A read made. -/
def IeSt.took (x : IeSt) (v : Nat) (s : State) : IeSt := { s := s, left := [], memo := x.memo ++ [v], want := none, phys := none }

/-- What the home shows of the next read: the event says it of its first one, the world of the others. A read that has waited misses. -/
def IeSt.shown (x : IeSt) : Phys × State :=
  match x.phys with
  | some p => ({ p with miss := p.miss || x.want.isSome }, x.s)
  | none =>
    let (k, s) := x.s.nextCheck
    let (m, s) := s.nextMiss
    ({ check := k, miss := m, evict := [] }, s)

/-- One n32 element of the walk's region (R191, R271), read anew only where the walk has not read it before. An error carries the
state, in which a mismatch has been noted. -/
def IeRun.read (x : IeRun) (e : Nat) (y : IeSt) : Except (JStop × IeSt) (Nat × IeSt) :=
  match y.left with
  | v :: rest => .ok (v, { y with left := rest })
  | [] =>
    let (phys, s) := y.shown
    let stop (k : JStop) (s : State) : Except (JStop × IeSt) (Nat × IeSt) := .error (k, { y with s := s })
    let off := x.r.base + 4 * e
    let va := x.c.vaddr x.r off
    let pol := Machine.policyOf 0
    let settle (ma addr : Nat) (res : Except (Stop × State) (Val × Bool × State)) : Except (JStop × IeSt) (Nat × IeSt) :=
      match res with
      | .ok (v, _, s) => .ok (v.toNat, y.took v.toNat s)
      | .error (.waits, s) => .error (.waits, { y with s := s, want := some ma })
      | .error (.fault code st d, s) => stop (.fault code st (if code = 8 then d.headD 0 else addr) d) s
    if !(x.r.inBounds e 4) then stop (.fault 7 false va [e]) s
    else match s.place x.c x.h x.r off true false with
      | .error f => stop (.fault f.code f.stageW f.addr []) s
      | .ok .waits => stop .waits s
      | .ok (.mem ma z) =>
        settle ma va (s.accessMem z (x.c.actor x.w.epoch) (ieId x.h) x.c.vdev va ma 4 .load 0 pol .n32 0 0 phys (s.fundedAt (ieId x.h)))
      | .ok (.pad g ma) =>
        if s.passes x.h g then settle ma ma (s.accessPad ma 4 .load pol .n32 0 0 phys.check) else stop .damped (s.countDamper 1)
      | .ok (.window g win o) =>
        if s.passes x.h g then
          let v := s.readWindow g x.c.ctx win o 4
          .ok (v, y.took v s)
        else stop .damped (s.countDamper 1)
      | .ok (.remote ..) => stop .waits s

def IeRun.param (x : IeRun) (k : Nat) : Nat := (x.w.quad.getD k 0).toNat

/-- rowptr(r). -/
def IeRun.rowptr (x : IeRun) (r : Nat) (y : IeSt) : Except (JStop × IeSt) (Nat × IeSt) := x.read (x.param 0 + r) y

/-- The binary search of R271: the row that holds element `e0`. -/
def IeRun.search (x : IeRun) (e0 : Nat) : Nat → Nat → Nat → IeSt → Except (JStop × IeSt) (Nat × IeSt)
  | 0, lo, _, s => .ok (lo, s)
  | fuel + 1, lo, hi, s =>
    if hi - lo ≤ 1 then .ok (lo, s)
    else
      let mid := (lo + hi) / 2
      match x.rowptr mid s with
      | .error e => .error e
      | .ok (v, s) => if v ≤ e0 then IeRun.search x e0 fuel mid hi s else IeRun.search x e0 fuel lo mid s

/-- r raised while the next row starts at or before `e`. -/
def IeRun.advance (x : IeRun) (e : Nat) : Nat → Nat → IeSt → Except (JStop × IeSt) (Nat × IeSt)
  | 0, r, s => .ok (r, s)
  | fuel + 1, r, s =>
    if r < x.param 2 - 1 then
      match x.rowptr (r + 1) s with
      | .error e => .error e
      | .ok (v, s) => if v ≤ e then IeRun.advance x e fuel (r + 1) s else .ok (r, s)
    else .ok (r, s)

/-- Rows and columns of `n` elements from `e` on. -/
def IeRun.elements (x : IeRun) : Nat → Nat → Nat → IeSt → Except (JStop × IeSt) (List (Nat × Nat) × IeSt)
  | 0, _, _, s => .ok ([], s)
  | n + 1, e, r, s =>
    match x.advance e (x.param 2 - r) r s with
    | .error e => .error e
    | .ok (r, s) => match x.read (x.param 1 + e) s with
      | .error e => .error e
      | .ok (c, s) => match IeRun.elements x n (e + 1) r s with
        | .error e => .error e
        | .ok (l, s) => .ok ((r, c) :: l, s)

/-- The walk of a range (R271): its rows and columns, with their tags. -/
def IeRun.walk (x : IeRun) (s : IeSt) : Except (JStop × IeSt) ((List Emit × List Emit) × IeSt) :=
  match x.rowptr (x.param 2) s with
  | .error e => .error e
  | .ok (nnz, s) =>
    let e0 := x.w.e0.toNat
    let e1 := min x.w.e1.toNat nnz
    if e1 ≤ e0 then .ok (([], []), s)
    else match x.search e0 33 0 (x.param 2) s with
      | .error e => .error e
      | .ok (r, s) => match x.elements (e1 - e0) e0 r s with
        | .error e => .error e
        | .ok (l, s) =>
          let run (f : Nat × Nat → Nat) : List Emit := l.zipIdx.map fun (p, i) =>
            { iter := BitVec.ofNat 24 (x.param 3 % 2 ^ 24 + e0 + i), val := some (BitVec.ofNat 128 (f p)) }
          .ok ((run (·.1), run (·.2)), s)

/-- The range and first row of participant q of P (R272). -/
def IeRun.balance (x : IeRun) (s : IeSt) : Except (JStop × IeSt) ((List Emit × List Emit) × IeSt) :=
  match x.rowptr (x.param 2) s with
  | .error e => .error e
  | .ok (nnz, s) =>
    let q := x.w.e0.toNat % 256
    let p := x.w.e0.toNat / 256 % 256 + 1
    let e0 := if p ≤ q then nnz else q * nnz / p
    let e1 := if p ≤ q then nnz else (q + 1) * nnz / p
    match x.search e0 33 0 (x.param 2) s with
    | .error e => .error e
    | .ok (r, s) =>
      let one (n : Nat) : List Emit := [{ iter := x.w.iter, val := some (BitVec.ofNat 128 n) }]
      .ok ((one (e0 + e1 * 2 ^ 32), one r), s)

/-! ## IE_WALK -/

/-- IE_WALK (R271, R272): the next walk goes on to its end, or to a read that waits or faults; there it stands, parked by a fault. -/
def ieWalk (hearth : Nat) (phys : Phys) (s : State) : Option State :=
  match s.nextWalk hearth with
  | none => none
  | some w =>
    match s.charge? w.bind, s.unitWord w.bind hearth w.ce w.slot with
    | some c, some (blk, b, word) =>
      match c.region? w.region with
      | none => none
      | some r =>
        let x : IeRun := { h := hearth, w := w, c := c, r := r }
        let drop (s : State) : State := s.modHearth hearth fun y => { y with ie := y.ie.erase w }
        let give (s : State) (l : List Emit × List Emit) : State :=
          let cap := if wordOp word = 0xBB then 16 else 32
          (s.sendAll w.bind blk w.slot 0 (rawCons word 0) cap l.1).sendAll w.bind blk w.slot 1 (rawCons word 1) 32 l.2
        if w.bubble then
          some (give (drop s) ([{ iter := w.iter, val := none }], [{ iter := w.iter, val := none }]))
        else
          let y : IeSt := { s := s.tryKey w.bind (ieKey hearth), left := w.memo, memo := w.memo, want := w.want, phys := some phys }
          let stand (y : IeSt) (p : Bool) : State := y.s.modHearth hearth fun x =>
            { x with ie := modifyFirst (fun v => v == w) (fun v => { v with parked := p, memo := y.memo, want := y.want }) x.ie }
          match (if wordOp word = 0xBB then x.balance y else x.walk y) with
          | .ok (l, y) => some (give (drop y.s) l)
          | .error (.waits, y) => some (stand y false)
          | .error (.yields, y) => some (stand y false)
          | .error (.damped, y) => some (stand y true)
          | .error (.fault code st addr detail, y) =>
            let s := ((stand y true).raceRaised c code).parkKey w.bind (ieKey hearth)
            some (s.raiseFault w.bind { s.faultRec w.bind code hearth with
              stageW := st, tag := faultTag c.ctx w.iter, address := BitVec.ofNat 64 addr, block := b.id, slot := w.slot,
              ce := w.ce, unit := 4, detail := detail })
    | _, _ => none

/-- IE_WALK (R271). -/
def execIeWalk (hearth : Nat) (phys : Phys) (s : State) : Host.Outcome State Fault Refusal := 
  finish s ((ieWalk hearth phys s).map fun t => t.touchAll ((s.hearth hearth).ie.map (·.bind)))

end Sys2Proof.Machine
end

