-- ==== Sys2Proof/Machine/Image.lean ====
section
/-!
DEFINITION. Sys2Proof/Machine/Image.lean: a charge image read and validated completely, in the order of R93: header and
directory (R73, R74), shape and blocks (R75, R78, R79, R373), edges (R76), sections 4 to 12 (R127, R189, R193, R199 to R203,
R228, R234, R240, R273, R274) and the conditions across blocks (R24, R44, R61, R199, R244, R256).
-/

namespace Sys2Proof.Machine

/-- A refusal record (R94). -/
structure Refused where
  code  : Nat
  block : Nat
  slot  : Nat
  bit   : Nat
  deriving DecidableEq, Repr

/-- A failure outside a block whose record names `bit`. -/
def outside (code bit : Nat) : Refused := { code := code, block := 0xFFFFFFFF, slot := 0xFF, bit := bit }

def inBlock (id slot code bit : Nat) : Refused := { code := code, block := id, slot := slot, bit := bit }

/-- The refusal field of a completion record (R332). -/
def Refused.field (r : Refused) : Nat :=
  r.code % 256 + r.block % 2 ^ 32 * 2 ^ 8 + r.slot % 256 * 2 ^ 40 + r.bit % 256 * 2 ^ 48

/-- The first condition of a list that holds, with what it is refused for. -/
def refuseIf : List (Bool × Refused) → Except Refused Unit
  | [] => .ok ()
  | (bad, r) :: rest => if bad then .error r else refuseIf rest

/-- Conditions that name fields of one structure, listed from bit 127 down: code and bit. -/
def refuseAt (block slot : Nat) (l : List (Bool × Nat × Nat)) : Except Refused Unit :=
  refuseIf (l.map fun (bad, code, bit) => (bad, inBlock block slot code bit))

/-- The first refusal that a list of checks gives. -/
def eachOk {α : Type} (f : α → Except Refused Unit) : List α → Except Refused Unit
  | [] => .ok ()
  | x :: xs => match f x with
    | .ok () => eachOk f xs
    | .error r => .error r

/-- The same, with the elements before each one. -/
def eachAfter {α : Type} (f : List α → α → Except Refused Unit) (before : List α) : List α → Except Refused Unit
  | [] => .ok ()
  | x :: xs => match f before x with
    | .ok () => eachAfter f (before ++ [x]) xs
    | .error r => .error r

/-! ## Header and directory (R73, R74) -/

/-- A directory entry. -/
structure Section where
  type   : Nat
  offset : Nat
  length : Nat
  count  : Nat
  deriving DecidableEq, Repr

/-- Bytes of one entry of a section with entries of one size; 0 for sections 2 and 5. -/
def entrySize (t : Nat) : Nat :=
  match t with
  | 1 => 4 | 3 => 16 | 4 => 16 | 6 => 8 | 7 => 4 | 8 => 1024 | 9 => 8 | 10 => 32 | 11 => 16 | 12 => 16 | _ => 0

/-- A charge image's bytes with its directory. -/
structure RawImage where
  bytes    : List Byte
  sections : List Section
  deriving DecidableEq, Repr

def byteField (l : List Byte) (off n : Nat) : Nat := leNat ((l.drop off).take n)

def RawImage.section? (m : RawImage) (t : Nat) : Option Section := m.sections.find? fun s => s.type == t

/-- Bytes of a section; none where the image has none. -/
def RawImage.body (m : RawImage) (t : Nat) : List Byte :=
  match m.section? t with
  | some s => (m.bytes.drop s.offset).take s.length
  | none => []

/-- Whether a section's length is its entry size times its count. -/
def RawImage.lengthOk (m : RawImage) (t : Nat) : Bool :=
  match m.section? t with
  | some s => s.length == entrySize t * s.count
  | none => true

/-- The entries of a section of fixed entries that it counts and holds whole, as numbers. -/
def RawImage.entries (m : RawImage) (t : Nat) : List Nat :=
  let l := m.body t
  (List.range (min (((m.section? t).map (·.count)).getD 0) (l.length / entrySize t))).map fun i => byteField l (entrySize t * i) (entrySize t)

def badHeader (code : Nat) : Refused := outside code 0xFF

/-- The header's fields (R73); the last is the check over `size` bytes with the check field zero. -/
def checkHeader (b : List Byte) : Except Refused Unit :=
  let size := byteField b 8 4
  refuseIf [
    (byteField b 0 4 ≠ 0x4A4B4348 || byteField b 4 2 ≠ 1, badHeader 0x01),
    (byteField b 6 2 = 0 || 16 < byteField b 6 2, badHeader 0x04),
    (size % 16 ≠ 0, badHeader 0x04),
    (65536 < byteField b 0xC 4, badHeader 0x04),
    (byteField b 0x10 1 = 0xF || 0xF < byteField b 0x10 1, badHeader 0x14),
    (byteField b 0x12 2 = 0 || 168 < byteField b 0x12 2, badHeader 0x04),
    (byteField b 0x14 2 = 0 || 8064 < byteField b 0x14 2, badHeader 0x04),
    (255 < byteField b 0x16 2, badHeader 0x04),
    (byteField b 0x18 38 ≠ 0, badHeader 0x04),
    (crc16 ((b.take 0x3E) ++ [0, 0] ++ (b.take size).drop 0x40) ≠ byteField b 0x3E 2, badHeader 0x02)]

/-- Whether two sections share a byte. A section without bytes whose offset lies inside another is taken to overlap it: R74 leaves
that open (assumption entry 84). -/
def Section.overlaps (a b : Section) : Bool := a.offset < b.offset + b.length && b.offset < a.offset + a.length

/-- The directory as it lies in the image. -/
def directoryOf (b : List Byte) : List Section :=
  (List.range (byteField b 6 2)).map fun i =>
    let e := 0x40 + 16 * i
    { type := byteField b e 2, offset := byteField b (e + 4) 4, length := byteField b (e + 8) 4,
      count := byteField b (e + 12) 4 }

/-- The directory (R74) and the counts of sections 1, 2, 3 and 9. R74 and R95 name no code for a nonzero reserved field of an entry
nor, in the header, for an image_size that is no multiple of 16: the model gives both 0x04, the reserved field before the other
checks of its entry (assumption entry 85). -/
def checkDirectory (b : List Byte) (d : List Section) : Except Refused Unit := do
  let size := byteField b 8 4
  refuseIf [(size < 0x40 + 16 * d.length, badHeader 0x03)]
  eachAfter (fun before (i, s) =>
    refuseIf [
      (byteField b (0x42 + 16 * i) 2 ≠ 0, badHeader 0x04),
      (s.type = 0 || 12 < s.type || before.any (fun x => x.2.type == s.type) || s.offset % 16 ≠ 0 ||
        size < s.offset + s.length || before.any (fun x => x.2.overlaps s), badHeader 0x03)])
    [] (d.zipIdx.map fun (s, i) => (i, s))
  let m : RawImage := { bytes := b, sections := d }
  refuseIf [
    ((m.section? 1).isNone || (m.section? 2).isNone, badHeader 0x03),
    (!(m.lengthOk 1) || ((m.section? 1).map (·.count)) != some (byteField b 0x12 2), badHeader 0x03),
    (((m.section? 2).map (·.count)) != some (byteField b 0x14 2), badHeader 0x03),
    (!(m.lengthOk 3) || !(m.lengthOk 9), badHeader 0x03)]

/-! ## Shape and blocks (R75, R78) -/

/-- The shape's entries (R75). No rule names the bit of a shape-entry refusal: the model gives 0xFF (assumption entry 86). -/
def checkShape (m : RawImage) : Except Refused Unit :=
  eachAfter (fun before v =>
    refuseIf [(v / 2 ^ 24 ≠ 0 || before.contains v || (before.isEmpty && v ≠ 0), outside 0x05 0xFF)])
    [] (m.entries 1)

/-- A block record as it lies in section 2. -/
structure RawBlock where
  place  : Nat
  header : Nat
  bytes  : List Byte
  words  : List (BitVec 64)
  deriving DecidableEq, Repr

def RawBlock.id (b : RawBlock) : Nat := bitsOf b.header 95 64
def RawBlock.shape (b : RawBlock) : Nat := bitsOf b.place 7 0
def RawBlock.first (b : RawBlock) : Nat := bitsOf b.place 15 8
def RawBlock.span (b : RawBlock) : Nat := bitsOf b.header 112 111 + 1
def RawBlock.params (b : RawBlock) : Nat := bitsOf b.header 105 100

/-- Whether the block holds a CE of a hearth of the shape. -/
def RawBlock.holds (b : RawBlock) (shape ce : Nat) : Bool :=
  b.shape == shape && b.first ≤ ce && ce < b.first + b.span

/-- The records of section 2, `n` of them, as far as the section holds them, and the bytes left after the last. -/
def splitBlocks : Nat → List Byte → List RawBlock × List Byte
  | 0, l => ([], l)
  | n + 1, l =>
    let h := byteField l 8 16
    let k := bitsOf h 119 113 + 1
    if l.length < 24 + 8 * k then ([], l)
    else
      let b : RawBlock :=
        { place := byteField l 0 8, header := h, bytes := (l.drop 8).take (16 + 8 * k)
          words := (List.range k).map fun i => BitVec.ofNat 64 (byteField l (24 + 8 * i) 8) }
      let (bs, rest) := splitBlocks n (l.drop (24 + 8 * k))
      (b :: bs, rest)

def slotOp (b : RawBlock) (j : Nat) : Option Nat := (b.words[j]?).map wordOp

/-- What every check of an image consults: its sections as they lie there. -/
structure ImageEnv where
  raw      : RawImage
  tagsel   : Nat
  shapes   : Nat
  blocks   : List RawBlock
  edges    : List Nat
  policies : List Nat
  tables   : Nat
  regions  : List Nat
  timelines : List Nat
  streams  : List Nat
  tiles    : List Nat
  joins    : List Nat
  ags      : List Nat
  mts      : List Nat
  pilots   : List Nat
  tracks   : List Nat
  deriving DecidableEq, Repr

/-- Entries of section 5 (R200) as far as it holds them: kind and bytes; the bytes left, and whether kind 3 stopped it. -/
def splitPrograms : Nat → List Byte → List (Nat × Nat) × List Byte × Bool
  | 0, l => ([], l, false)
  | n + 1, l =>
    let k := byteField l 0 1 % 4
    let size := if k = 0 then 96 else if k = 1 then 32 else 16
    if l.length = 0 then ([], [0], false)
    else if k = 3 then ([], l, true)
    else if l.length < size then ([], l, false)
    else
      let (es, rest, bad) := splitPrograms n (l.drop size)
      ((k, byteField l 0 size) :: es, rest, bad)

def programsOf (m : RawImage) : List (Nat × Nat) × List Byte × Bool :=
  splitPrograms (((m.section? 5).map (·.count)).getD 0) (m.body 5)

def ofKind (k : Nat) (l : List (Nat × Nat)) : List Nat := (l.filter fun x => x.1 == k).map (·.2)

def imageEnv (m : RawImage) : ImageEnv :=
  let progs := (programsOf m).1
  { raw := m
    tagsel := byteField m.bytes 0x10 1
    shapes := byteField m.bytes 0x12 2
    blocks := (splitBlocks (((m.section? 2).map (·.count)).getD 0) (m.body 2)).1
    edges := m.entries 3
    policies := if (m.section? 7).isSome then m.entries 7 else [0]
    tables := (m.entries 8).length
    regions := m.entries 10
    timelines := (m.entries 11).filter fun e => bitsOf e 3 0 == 0
    streams := (m.entries 11).filter fun e => bitsOf e 3 0 == 1
    tiles := m.entries 6
    joins := m.entries 12
    ags := ofKind 0 progs
    mts := ofKind 1 progs
    pilots := ofKind 2 progs
    tracks := m.entries 4 }

def ImageEnv.region (E : ImageEnv) (n : Nat) : Option Nat := E.regions.find? fun r => bitsOf r 5 0 == n

def ImageEnv.timelineKind (E : ImageEnv) (n : Nat) : Option Nat :=
  (E.timelines.find? fun e => bitsOf e 15 8 == n).map fun e => bitsOf e 19 16

def ImageEnv.stream (E : ImageEnv) (n : Nat) : Option Nat := E.streams.find? fun e => bitsOf e 15 8 == n

def ImageEnv.block (E : ImageEnv) (id : Nat) : Option RawBlock := E.blocks.find? fun b => b.id == id

def ImageEnv.edge (E : ImageEnv) (id slot k : Nat) : Option Nat :=
  E.edges.find? fun e => bitsOf e 31 0 == id && bitsOf e 70 64 == slot && bitsOf e 71 71 == k

/-- The block that consumer `k` (0 or 1) of a word leads to, an unknown one being found in step 4. -/
def ImageEnv.target (E : ImageEnv) (b : RawBlock) (slot k : Nat) : Option RawBlock :=
  match E.edge b.id slot k with
  | some e => E.block (bitsOf e 63 32)
  | none => some b

/-- What the check of the word in slot `j` of a block needs (Admit.lean). -/
def ImageEnv.wordEnv (E : ImageEnv) (b : RawBlock) (j : Nat) : WordEnv where
  tagsel := E.tagsel
  params := b.params
  ovfList := bitOf b.header 110
  target k := match E.target b j (k - 1) with
    | some d => (d.words.length, fun s => ((d.words[s]?).map wordArity).getD 3)
    | none => (128, fun _ => 3)
  region n := (E.region n).map fun r =>
    { space := bitsOf r 19 16, window := bitsOf r 39 36, rd := bitOf r 24, wr := bitOf r 25, atom := bitOf r 26 }
  timeline n := (E.timelineKind n).isSome
  stream n := (E.stream n).isSome
  pilot n := E.pilots.any fun p => bitsOf p 15 8 == n
  tile n := (E.tiles.find? fun t => bitsOf t 21 15 == n && bitsOf t 7 0 == b.shape).map fun t =>
    Fmt.ofCode (bitsOf t 29 26)

/-- The header fields of a block, from bit 127 down (R78), with the blocks before it. -/
def ImageEnv.checkBlockHeader (E : ImageEnv) (before : List RawBlock) (b : RawBlock) : Except Refused Unit := do
  let h := b.header
  let n := b.words.length
  let slotBad (v : Nat) : Bool := v ≠ 0xFF && n ≤ v
  refuseAt b.id 0xFE [(2 ^ 16 ≤ b.place, 0x21, 63)]
  refuseAt b.id 0xFF [
    (bitsOf h 127 120 ≠ 1, 0x10, 127),
    (b.span ≠ (n + 31) / 32, 0x12, 112),
    (E.policies.length ≤ bitsOf h 109 106, 0x16, 109),
    (bitsOf h 99 96 = 0xF || bitsOf h 99 96 ≠ E.tagsel, 0x14, 99),
    (b.id = 0xFFFFFFFF || before.any (fun x => x.id == b.id), 0x17, 95),
    (16 < bitsOf h 39 32, 0x15, 39),
    (slotBad (bitsOf h 31 24), 0x13, 31),
    (slotBad (bitsOf h 23 16), 0x13, 23),
    (crc16 ([0, 0] ++ b.bytes.drop 2) ≠ bitsOf h 15 0, 0x11, 15)]
  refuseAt b.id 0xFE [(48 < b.first + b.span, 0x12, 15), (E.shapes ≤ b.shape, 0x12, 7)]

/-- The slots of a block that hold one of some opcodes. -/
def RawBlock.slotsOf (b : RawBlock) (ops : List Nat) : List Nat :=
  (List.range b.words.length).filter fun j => ops.contains ((slotOp b j).getD 256)

/-- The conditions of R373. -/
def checkBlockWide (b : RawBlock) : Except Refused Unit :=
  let heads := b.slotsOf [0x10, 0x11]
  let exit := bitsOf b.header 23 16
  let stray := (b.slotsOf [0x12, 0x13]).filter fun j => heads.isEmpty || j ≠ exit
  let at_ (bad : Bool) (slot bit : Nat) : Bool × Refused := (bad, inBlock b.id slot 0x18 bit)
  refuseIf [
    at_ (1 < heads.length) (heads.getD 1 0) 63,
    at_ (bitsOf b.header 63 40 ≠ 0 && (b.slotsOf [0x11]).isEmpty) 0xFF 63,
    at_ (!heads.isEmpty && exit = 0xFF) 0xFF 23,
    at_ (!heads.isEmpty && slotOp b exit ≠ some 0x12 && slotOp b exit ≠ some 0x13) exit 63,
    at_ (!stray.isEmpty) (stray.headD 0) 63]

/-- One block record (R93, step 3). -/
def ImageEnv.checkBlock (E : ImageEnv) (before : List RawBlock) (b : RawBlock) : Except Refused Unit := do
  E.checkBlockHeader before b
  eachOk (fun (w, j) =>
    match checkWord (some (E.wordEnv b j)) w with
    | some f => .error (inBlock b.id j f.code f.bit)
    | none => .ok ()) b.words.zipIdx
  checkBlockWide b

def ImageEnv.checkBlocks (E : ImageEnv) : Except Refused Unit := do
  eachAfter E.checkBlock [] E.blocks
  let n := ((E.raw.section? 2).map (·.count)).getD 0
  refuseIf [(E.blocks.length < n || (splitBlocks n (E.raw.body 2)).2.length ≠ 0, badHeader 0x03)]

/-! ## Edges (R76, R61) -/

/-- The edges. A source_slot beyond the source block's words has no consumer field and is refused as one whose field is none, with bit 71;
R76 names no field for a repeated edge, for which the model gives bit 71 too (assumption entry 87). -/
def ImageEnv.checkEdges (E : ImageEnv) : Except Refused Unit :=
  eachAfter (fun before e =>
    let src := bitsOf e 31 0
    let slot := bitsOf e 70 64
    match E.block src with
    | none => .error (outside 0x33 31)
    | some b =>
      let lo := if bitOf e 71 then 29 else 38
      let word := (b.words[slot]?).map (·.toNat)
      let cons := match word with | some w => bitsOf w (lo + 8) lo | none => 3
      let dst := E.block (bitsOf e 63 32)
      let task := match dst with | some d => slotOp d (cons / 4) = some 0x0B | none => true
      refuseAt src slot [
        (2 ^ 73 ≤ e, 0x33, 127),
        (cons % 4 = 3 || before.any (fun x => x % 2 ^ 32 == src && bitsOf x 71 64 == bitsOf e 71 64), 0x33, 71),
        (dst.isNone, 0x33, 63),
        (bitOf e 72 && !task, 0x27, 72)]) [] E.edges

/-! ## Sections 4 to 6 (R199 to R203, R193) -/

def wholeSection (m : RawImage) (t code : Nat) : Except Refused Unit :=
  refuseIf [(!(m.lengthOk t), outside code 0xFF)]

/-- A timeline named by a program or stream: declared, and of the kind that it advances (R228, R240). -/
def ImageEnv.advances (E : ImageEnv) (tl kind bit : Nat) : List (Bool × Nat × Nat) :=
  [(tl ≠ 0xFF && (E.timelineKind tl).isNone, 0x60, bit),
   (tl ≠ 0xFF && (E.timelineKind tl).isSome && E.timelineKind tl ≠ some kind, 0x61, bit)]

/-- Endpoints of a track (R199); a CE that holds no block of the charge is absent. -/
def ImageEnv.endpointBad (E : ImageEnv) (shape e : Nat) : Bool :=
  if e < 48 then shape < E.shapes && !(E.blocks.any fun b => b.holds shape e)
  else !((64 ≤ e && e < 80) || (96 ≤ e && e < 112) || (128 ≤ e && e < 132) || e = 136 || e = 137)

def ImageEnv.checkTracks (E : ImageEnv) : Except Refused Unit := do
  wholeSection E.raw 4 0x40
  eachAfter (fun before t =>
    refuseAt 0xFFFFFFFF 0xFF [
      (2 ^ 64 ≤ t, 0x42, 127),
      (before.any (fun x => bitsOf x 63 56 == bitsOf t 63 56), 0x42, 63),
      (bitsOf t 51 50 = 3, 0x42, 51),
      (bitsOf t 35 32 ≠ 0, 0x42, 35),
      (E.endpointBad (bitsOf t 23 16) (bitsOf t 31 24), 0x41, 31),
      (E.shapes ≤ bitsOf t 23 16, 0x41, 23),
      (E.endpointBad (bitsOf t 7 0) (bitsOf t 15 8), 0x41, 15),
      (E.shapes ≤ bitsOf t 7 0, 0x41, 7)]) [] E.tracks

/-- Level `l` of an AG program of 96 bytes: its 128 bits. -/
def agLevel (e l : Nat) : Nat := e / 2 ^ (8 * (32 + 16 * l)) % 2 ^ 128

def ImageEnv.trackKnown (E : ImageEnv) (n : Nat) : Bool := E.tracks.any fun t => bitsOf t 63 56 == n

def ImageEnv.checkAg (E : ImageEnv) (before : List (Nat × Nat)) (e : Nat) : Except Refused Unit := do
  let reg := E.region (bitsOf e 37 32)
  refuseAt 0xFFFFFFFF 0xFF (E.advances (bitsOf e 55 48) 1 55 ++ [
    (!(E.trackKnown (bitsOf e 47 40)), 0x4A, 47),
    (match reg with | some r => !(bitOf r (if bitOf e 22 then 25 else 24)) | none => true, 0x4A, 37),
    (bitsOf e 28 25 = 15, 0x4B, 28),
    (bitOf e 23 && bitOf e 22, 0x4B, 23),
    (before.any (fun x => x.1 = 0 && bitsOf x.2 21 10 == bitsOf e 21 10), 0x48, 21),
    (E.shapes ≤ bitsOf e 17 10, 0x48, 17)])
  eachOk (fun l =>
    let v := agLevel e l
    let count := v % 2 ^ 32
    let at_ (bit : Nat) : Refused := outside 0x49 (8 * (32 + 16 * l) + bit)
    refuseIf (if l ≤ bitsOf e 39 38 then [(count = 0 || 2 ^ 24 ≤ count, at_ 31)]
      else [(v / 2 ^ 64 ≠ 0, at_ 127), (bitsOf v 63 32 ≠ 0, at_ 63), (count ≠ 0, at_ 31)])) [0, 1, 2, 3]

def ImageEnv.checkMt (E : ImageEnv) (e : Nat) : Except Refused Unit :=
  refuseAt 0xFFFFFFFF 0xFF (E.advances (bitsOf e 36 29) 1 36 ++ [
    (!(E.trackKnown (bitsOf e 28 21)), 0x4D, 28),
    (bitsOf e 9 2 < E.shapes && !(E.tiles.any fun t =>
      bitsOf t 7 0 == bitsOf e 9 2 && bitsOf t 25 22 == bitsOf e 13 10 && bitsOf t 21 15 == bitsOf e 20 14), 0x4D, 20),
    (E.shapes ≤ bitsOf e 9 2, 0x4D, 9)])

/-- A pilot route (R203): the unit exists, and an AG or MT named there runs a program. -/
def ImageEnv.checkPilot (E : ImageEnv) (before : List (Nat × Nat)) (e : Nat) : Except Refused Unit :=
  let unit := bitsOf e 47 40
  let kind := bitsOf e 39 38
  let shape := bitsOf e 37 30
  let lost := match kind with
    | 0 => !(E.ags.any fun a => bitsOf a 17 10 == shape && bitsOf a 21 18 == unit)
    | 1 => !(E.mts.any fun a => bitsOf a 9 2 == shape && bitsOf a 13 10 == unit)
    | _ => 48 ≤ unit
  refuseAt 0xFFFFFFFF 0xFF [
    (lost && kind ≠ 3 && shape < E.shapes, 0x4C, 47),
    (kind = 3, 0x4C, 39),
    (E.shapes ≤ shape, 0x4C, 37),
    (E.shapes ≤ bitsOf e 23 16, 0x4C, 23),
    (before.any (fun x => x.1 = 2 && bitsOf x.2 15 8 == bitsOf e 15 8), 0x4C, 15)]

/-- A PSTRM lies in the hearth and CE of its route's source (R203). -/
def ImageEnv.checkPstrm (E : ImageEnv) (b : RawBlock) : Except Refused Unit :=
  eachOk (fun (w, j) =>
    if wordOp w = 0x18 then
      match E.pilots.find? fun p => bitsOf p 15 8 == bitsOf w.toNat 7 0 with
      | some p => refuseIf [
          (bitsOf p 29 24 ≠ b.first + j / 32, outside 0x4C 29),
          (bitsOf p 23 16 ≠ b.shape, outside 0x4C 23)]
      | none => .ok ()
    else .ok ()) b.words.zipIdx

def ImageEnv.checkPrograms (E : ImageEnv) : Except Refused Unit := do
  let (es, rest, reserved) := programsOf E.raw
  refuseIf [(reserved, outside 0x48 1), (rest.length ≠ 0, outside 0x40 0xFF)]
  eachAfter (fun before (k, e) =>
    match k with
    | 0 => E.checkAg before e
    | 1 => E.checkMt e
    | _ => E.checkPilot before e) [] es
  eachOk E.checkPstrm E.blocks

def ImageEnv.checkTiles (E : ImageEnv) : Except Refused Unit := do
  wholeSection E.raw 6 0x40
  eachAfter (fun before t =>
    refuseAt 0xFFFFFFFF 0xFF [
      (2 ^ 32 ≤ t, 0x52, 63),
      (bitsOf t 31 30 = 3, 0x52, 31),
      (bitsOf t 29 26 = 15, 0x52, 29),
      (8 ≤ (before.filter fun x => bitsOf x 7 0 == bitsOf t 7 0 && bitsOf x 25 22 == bitsOf t 25 22).length, 0x51, 25),
      (before.any (fun x => bitsOf x 7 0 == bitsOf t 7 0 && bitsOf x 21 15 == bitsOf t 21 15), 0x50, 21),
      (bitsOf t 14 8 ≠ 0, 0x52, 14),
      (E.shapes ≤ bitsOf t 7 0, 0x52, 7)]) [] E.tiles

/-! ## Sections 7 to 9 (R115, R112, R86, R127) -/

/-- Whether a word has cb2 among its formats. -/
def namesCb2 (w : BitVec 64) : Bool :=
  bitsOf w.toNat 55 52 = 14 || (0xA0 ≤ wordOp w && wordOp w ≤ 0xBF && bitsOf w.toNat 51 48 = 14)

def ImageEnv.checkTables (E : ImageEnv) : Except Refused Unit := do
  let count (t : Nat) : Nat := ((E.raw.section? t).map (·.count)).getD 1
  let shells := E.raw.body 8
  refuseIf [
    (!(E.raw.lengthOk 7) || count 7 = 0 || 16 < count 7, outside 0xA0 0xFF),
    (E.policies.any (fun p => 64 ≤ p), outside 0xA1 0xFF),
    (!(E.raw.lengthOk 8) || count 8 = 0 || 4 < count 8, outside 0xA2 0xFF),
    (shells.any (fun x => bitOf x.toNat 3 || bitOf x.toNat 7), outside 0xA3 0xFF)]
  eachOk (fun b =>
    match b.words.findIdx? namesCb2 with
    | some j => refuseIf [(E.tables ≤ bitsOf (E.policies.getD (bitsOf b.header 109 106) 0) 5 4, inBlock b.id j 0xA4 55)]
    | none => .ok ()) E.blocks

/-- Initial parameter values (R86). -/
def ImageEnv.checkParams (E : ImageEnv) : Except Refused Unit :=
  eachOk (fun v =>
    let b := E.blocks.find? fun b => b.holds (bitsOf v 7 0) (bitsOf v 15 8)
    let id := (b.map (·.id)).getD 0xFFFFFFFF
    refuseAt id 0xFF [
      (bitsOf v 31 22 ≠ 0, 0x21, 31),
      (match b with | some b => b.params < bitsOf v 21 16 | none => false, 0x2A, 21),
      (b.isNone, 0x2A, if E.shapes ≤ bitsOf v 7 0 then 7 else 15)]) (E.raw.entries 9)

/-! ## Section 10 (R189, R192) -/

/-- Frames of the scratchpad allocation of a charge (R192). -/
def allocationFrames (regions : List Nat) : Nat :=
  roundFrames ((regions.filter fun r => bitsOf r 19 16 == 0).foldl (fun m r => max m (bitsOf r 127 64 + bitsOf r 191 128)) 0)

/-- Frames that a charge needs on the hearth of a shape entry beside its tiles' (R192, R59). -/
def hearthFrames (overflow : Nat) (hasBlock hasMt : Bool) : Nat :=
  (if hasBlock then roundFrames (160 * overflow) else 0) + (if hasMt then 1 else 0)

def ImageEnv.checkRegions (E : ImageEnv) : Except Refused Unit := do
  wholeSection E.raw 10 0x40
  eachAfter (fun before r =>
    let space := bitsOf r 19 16
    let bind := bitsOf r 47 40
    let bindBad := if 2 ≤ space ∧ space ≤ 5 then 15 < bind else if space = 1 then E.shapes ≤ bind else bind ≠ 0
    refuseAt 0xFFFFFFFF 0xFF [
      (2 ^ 192 ≤ r, 0x59, 255),
      (bitsOf r 191 128 = 0 || bitsOf r 191 128 % 256 ≠ 0, 0x5B, 191),
      (bitsOf r 127 64 % 256 ≠ 0, 0x5B, 127),
      (bitsOf r 63 48 ≠ 0, 0x59, 63),
      (space ≤ 6 && bindBad, 0x5A, 47),
      ((if space = 1 then 4 else 0) < bitsOf r 39 36, 0x59, 39),
      (bitsOf r 35 27 ≠ 0, 0x59, 35),
      (bitsOf r 23 20 ≠ 0, 0x59, 23),
      (6 < space, 0x59, 19),
      (bitsOf r 15 6 ≠ 0, 0x59, 15),
      (before.any (fun x => bitsOf x 5 0 == bitsOf r 5 0), 0x58, 5)]) [] E.regions
  let exceeds := (List.range E.shapes).any fun k =>
    2048 < allocationFrames E.regions +
      hearthFrames (byteField E.raw.bytes 0xC 4) (E.blocks.any fun b => b.shape == k)
        (E.mts.any fun e => bitsOf e 9 2 == k) +
      (E.tiles.filter fun t => bitsOf t 7 0 == k).length
  refuseIf [(exceeds, outside 0x5D 0xFF)]

/-! ## Sections 11 and 12 (R228, R234, R273) -/

/-- Kind of the timeline that a word advances (R228), with its index. -/
def advancedBy (w : BitVec 64) : Option (Nat × Nat) :=
  match wordOp w with
  | 0x94 => some (bitsOf w.toNat 7 0, 0)
  | 0x90 => some (bitsOf w.toNat 7 0, 2)
  | 0x91 => some (bitsOf w.toNat 15 8, 3)
  | _ => none

/-- Role of the stream that a word needs (R234), with its index. -/
def streamRole (w : BitVec 64) : Option (Nat × Nat) :=
  match wordOp w with
  | 0x98 => some (bitsOf w.toNat 7 0, 0)
  | 0x99 => some (bitsOf w.toNat 7 0, 1)
  | 0x9A => some (bitsOf w.toNat 7 0, 2)
  | _ => none

def ImageEnv.checkCounters (E : ImageEnv) : Except Refused Unit := do
  wholeSection E.raw 11 0x40
  eachAfter (fun before e =>
    let dup := before.any fun x => bitsOf x 3 0 == bitsOf e 3 0 && bitsOf x 15 8 == bitsOf e 15 8
    match bitsOf e 3 0 with
    | 0 => refuseAt 0xFFFFFFFF 0xFF [
        (2 ^ 20 ≤ e, 0x61, 127),
        (5 < bitsOf e 19 16, 0x61, 19),
        (dup || byteField E.raw.bytes 0x16 2 ≤ bitsOf e 15 8, 0x60, 15)]
    | 1 => refuseAt 0xFFFFFFFF 0xFF ((decide (2 ^ 57 ≤ e), 0x62, 127) :: E.advances (bitsOf e 55 48) 5 55 ++ [
        (bitsOf e 23 21 = 2 && bitsOf e 39 32 < bitsOf e 47 40, 0x62, 47),
        (bitsOf e 23 21 = 2 && bitsOf e 39 32 = 0, 0x62, 39),
        (2 < bitsOf e 23 21, 0x62, 23),
        (dup, 0x62, 15)])
    | _ => .error (outside 0x61 3)) [] (E.raw.entries 11)
  eachOk (fun b => eachOk (fun w =>
    refuseIf [
      (match advancedBy w with | some (n, k) => E.timelineKind n ≠ some k | none => false, outside 0x61 19),
      (match streamRole w with
       | some (n, k) => (E.stream n).map (fun e => bitsOf e 23 21) ≠ some k
       | none => false, outside 0x62 23)]) b.words) E.blocks

def ImageEnv.checkJoins (E : ImageEnv) : Except Refused Unit := do
  wholeSection E.raw 12 0x80
  eachAfter (fun before e =>
    let ashBad := match E.region (bitsOf e 29 24) with
      | some r => !([0, 2, 3, 4].contains (bitsOf r 19 16)) || !(bitOf r 24) || !(bitOf r 25) || bitsOf r 191 128 < 4096
      | none => true
    if bitsOf e 3 0 ≠ 0 then .error (outside 0x80 3)
    else refuseAt 0xFFFFFFFF 0xFF [
      (2 ^ 40 ≤ e, 0x81, 127),
      (E.timelineKind (bitsOf e 39 32) ≠ some 4, 0x83, 39),
      (bitsOf e 31 30 ≠ 0, 0x81, 31),
      (ashBad, 0x82, 29),
      (bitsOf e 23 21 ≠ 0, 0x81, 23),
      (5 < bitsOf e 14 12, 0x81, 14),
      (before.any (fun x => bitsOf x 11 4 == bitsOf e 11 4) || E.shapes ≤ bitsOf e 11 4, 0x81, 11)]) [] E.joins

/-! ## Conditions across blocks (R93, step 6) -/

/-- Slots in the body of some HNDL of a block (R244). -/
def RawBlock.bodies (b : RawBlock) : List Nat :=
  (b.words.zipIdx.map fun (w, j) => if wordOp w = 0x0B then (List.range (bitsOf w.toNat 2 0)).map (· + j + 1) else []).flatten

def isMatrixOp (op : Nat) : Bool := 0xA0 ≤ op && op ≤ 0xA6

def ImageEnv.checkPlacement (E : ImageEnv) (region : List Nat) : Except Refused Unit := do
  eachAfter (fun before b =>
    refuseIf [(before.any fun a => (List.range b.span).any fun k => a.holds b.shape (b.first + k),
      inBlock b.id 0xFE 0x30 15)]) [] E.blocks
  eachOk (fun b => refuseIf [
    (2 ≤ region.getD b.shape 0 % 14 && !(b.slotsOf [0x98, 0x99, 0x9A]).isEmpty,
      inBlock b.id ((b.slotsOf [0x98, 0x99, 0x9A]).headD 0) 0x31 63)]) E.blocks
  eachOk (fun b => eachOk (fun (w, j) =>
    let n := bitsOf w.toNat 2 0 + 1
    refuseIf [(wordOp w = 0x0B && (32 < j % 32 + n || b.words.length < j + n), inBlock b.id j 0x32 20)]) b.words.zipIdx)
    E.blocks
  eachOk (fun b => eachOk (fun (w, j) =>
    let into (k : Nat) : Bool :=
      let lo := if k = 0 then 38 else 29
      bitsOf w.toNat (lo + 1) lo ≠ 3 &&
      (match E.target b j k with | some d => d.bodies.contains (bitsOf w.toNat (lo + 8) (lo + 2)) | none => false)
    refuseIf [(into 0, inBlock b.id j 0x32 46), (into 1, inBlock b.id j 0x32 37)]) b.words.zipIdx) E.blocks

/-- Formats on which the matrix words of a block in one CE must agree (R244). -/
def agreeB (w : BitVec 64) : Nat × Nat := (bitsOf w.toNat 51 48, bitsOf w.toNat 26 24)
def agreeA (w : BitVec 64) : Option (Nat × Bool) :=
  if 0xA2 ≤ wordOp w ∧ wordOp w ≤ 0xA5 then some (bitsOf w.toNat 55 52, bitOf w.toNat 47) else none

/-- Matrix words of one CE of a block against those before them. -/
def checkAgree (b : RawBlock) (k : Nat) : Except Refused Unit :=
  eachAfter (fun before ((w, j) : BitVec 64 × Nat) =>
    let clash (x : BitVec 64 × Nat) : Bool :=
      agreeB x.1 != agreeB w || ((agreeA x.1).isSome && (agreeA w).isSome && agreeA x.1 != agreeA w)
    refuseIf [(before.any clash, inBlock b.id j 0x86 55)]) []
    (b.words.zipIdx.filter fun (w, j) => j / 32 == k && isMatrixOp (wordOp w))

/-- The scales that an HNDL body captures (R256). -/
def checkCapture (b : RawBlock) (slot n : Nat) : Except Refused Unit :=
  eachAfter (fun before ((w, j) : BitVec 64 × Nat) =>
    let cap (x : BitVec 64) : Bool × Nat := (wordOp x == 0xA3, bitsOf x.toNat 23 22)
    refuseIf [(before.any fun x => cap x.1 != cap w, inBlock b.id j 0x88 23)]) []
    (b.words.zipIdx.filter fun (w, j) =>
      slot < j && j ≤ slot + n && isMatrixOp (wordOp w) && bitsOf w.toNat 23 22 != 0)

/-- The join entry's table format: 12 or 13 (R273). -/
def ImageEnv.joinFmt (E : ImageEnv) (shape : Nat) : Option Nat :=
  (E.joins.find? fun e => bitsOf e 11 4 == shape).map fun e => 12 + bitsOf e 15 15

/-- The conditions of R244, R243, R249 and R256 on the words of a block (R274). -/
def ImageEnv.checkMatrix (E : ImageEnv) (b : RawBlock) : Except Refused Unit := do
  eachOk (fun (w, j) =>
    let op := wordOp w
    let jf := E.joinFmt b.shape
    let fb := bitsOf w.toNat 51 48
    let body := b.bodies.contains j
    refuseIf ((if body then !(isMatrixOp op) && op != 0x00 else isMatrixOp op, inBlock b.id j 0x85 63) ::
      ((checkPair w.toNat).map fun f => (true, inBlock b.id j f.code f.bit)) ++ [
      (0xB0 ≤ op && op ≤ 0xB9 && jf.isNone, inBlock b.id j 0x84 63),
      ((0xB5 ≤ op && op ≤ 0xB7 && jf ≠ some fb) || (op = 0xB2 && fb = 13 && jf = some 12), inBlock b.id j 0x89 51)]))
    b.words.zipIdx
  eachOk (checkAgree b) (List.range b.span)
  eachOk (fun (w, j) => if wordOp w = 0x0B then checkCapture b j (bitsOf w.toNat 2 0) else .ok ()) b.words.zipIdx

/-! ## Runs and tracks (R199, code 0x43) -/

/-- The longest run that each consumer of a word can be sent, from the longest that each port receives (R130, R141, R173,
R176, R180, R209, R232, R252, R253, R263 and the word's own rule). -/
def runBound (w : BitVec 64) (credit : Nat) (port : Nat → Nat) : Nat × Nat :=
  let op := wordOp w
  let m := max (port 0) (max (port 1) (port 2))
  let both (n : Nat) : Nat × Nat := (min 32 n, min 32 n)
  let r := match op with
    | 0x10 | 0x11 => both (2 ^ min credit 5)
    | 0x06 => (port 0, port 1)
    | 0x08 | 0x0A | 0x18 | 0x70 | 0x71 | 0x72 | 0x73 | 0x74 | 0x7C | 0x90 | 0x91 | 0xC3 | 0xC4 | 0xC6 => (1, 1)
    | 0x16 | 0x17 => (32, m)
    | 0x61 | 0x62 => (m, 1)
    | 0x64 => both (m * (64 / (2 * (max 8 (wordFmt w).bits))))
    | 0x67 => both (8 * m)
    | 0x77 | 0x88 | 0x8E | 0x99 | 0x9A | 0xB6 | 0xB7 | 0xBA => (32, 32)
    | 0x8C => (32, 1)
    | 0x81 | 0x83 | 0x87 => (1, 1)
    | 0x84 => if bitOf w.toNat 0 then (m, m) else (1, 1)
    | 0x93 => if wordArity w = 2 then (port 1, port 1) else (1, 1)
    | 0xA3 | 0xA4 => both (2 ^ bitsOf w.toNat 26 24)
    | 0xB2 | 0xB3 => (1, m)
    | _ => both m
  if 0x80 ≤ op ∧ op ≤ 0x9A ∧ bitOf w.toNat 21 then (r.1, 1) else r

/-- A consumer route of a word: its word and consumer, and where it leads. -/
structure Route where
  src  : Nat
  slot : Nat
  k    : Nat
  dst  : Nat
  dslot : Nat
  port : Nat
  deriving DecidableEq, Repr

/-- Every consumer route, blocks named by their place in section 2. -/
def ImageEnv.routes (E : ImageEnv) : List Route :=
  (E.blocks.zipIdx.map fun (b, i) =>
    (b.words.zipIdx.map fun (w, j) =>
      ([0, 1].map fun k =>
        let lo := if k = 0 then 38 else 29
        let port := bitsOf w.toNat (lo + 1) lo
        match E.target b j k with
        | some d =>
          if port = 3 then []
          else [{ src := i, slot := j, k := k, dst := E.blocks.findIdx (fun x => x.id == d.id),
                  dslot := bitsOf w.toNat (lo + 8) (lo + 2), port := port : Route }]
        | none => []).flatten).flatten).flatten

/-- Longest runs by port: key (128 × block + slot) × 4 + port; an unlisted port receives scalars. -/
def portKey (b slot port : Nat) : Nat := (128 * b + slot) * 4 + port

def ImageEnv.routeRun (E : ImageEnv) (t : Table Nat) (r : Route) : Nat :=
  match E.blocks[r.src]? with
  | some b =>
    match b.words[r.slot]? with
    | some w =>
      let n := runBound w (bitsOf b.header 39 32) fun p => Table.getD t (portKey r.src r.slot p) 1
      if r.k = 0 then n.1 else n.2
    | none => 1
  | none => 1

/-- One pass over the routes: each port's bound raised to what its routes bring. -/
def ImageEnv.raiseBounds (E : ImageEnv) (rs : List Route) (t : Table Nat) : Table Nat :=
  rs.foldl (fun t r =>
    let k := portKey r.dst r.dslot r.port
    let n := E.routeRun t r
    if Table.getD t k 1 < n then Table.put t k n else t) t

/-- Passes repeated until nothing rises; a bound rises at most 31 times. -/
def ImageEnv.fixBounds (E : ImageEnv) (rs : List Route) : Nat → Table Nat → Table Nat
  | 0, t => t
  | n + 1, t =>
    let u := E.raiseBounds rs t
    if u = t then t else E.fixBounds rs n u

/-- Runs of 32 positions that tracks bring to ports from units. -/
def ImageEnv.trackRuns (E : ImageEnv) : Table Nat :=
  E.tracks.foldl (fun t x =>
    if 48 ≤ bitsOf x 15 8 ∧ bitsOf x 31 24 < 48 then
      let b := E.blocks.findIdx fun b => b.holds (bitsOf x 23 16) (bitsOf x 31 24)
      Table.put t (portKey b (bitsOf x 49 43) (bitsOf x 51 50)) 32
    else t) []

/-- Whether a track carries a route (R199). -/
def ImageEnv.tracked (E : ImageEnv) (r : Route) : Bool :=
  match E.blocks[r.src]?, E.blocks[r.dst]? with
  | some a, some d =>
    E.tracks.any fun t =>
      bitsOf t 7 0 == a.shape && bitsOf t 15 8 == a.first + r.slot / 32 && bitsOf t 42 36 == r.slot &&
      bitsOf t 23 16 == d.shape && bitsOf t 31 24 == d.first + r.dslot / 32 && bitsOf t 49 43 == r.dslot &&
      bitsOf t 51 50 == r.port
  | _, _ => false

def ImageEnv.checkRoutes (E : ImageEnv) : Except Refused Unit :=
  let rs := E.routes
  let t := E.fixBounds rs (32 * rs.length + 1) E.trackRuns
  eachOk (fun r =>
    refuseIf [(1 < E.routeRun t r && !(E.tracked r),
      inBlock (((E.blocks[r.src]?).map (·.id)).getD 0) r.slot 0x43 (if r.k = 0 then 46 else 37))]) rs

/-! ## The whole image -/

/-- The image as the running charge uses it. -/
def ImageEnv.image (E : ImageEnv) : Image where
  overflow := byteField E.raw.bytes 0xC 4
  tagsel := E.tagsel
  cid := BitVec.ofNat 8 (byteField E.raw.bytes 0x11 1)
  timelineCount := byteField E.raw.bytes 0x16 2
  shape := (E.raw.entries 1).map (BitVec.ofNat 32)
  blocks := E.blocks.map fun b =>
    { shape := b.shape, first := b.first, header := BitVec.ofNat 128 b.header, words := b.words }
  edges := E.edges.map (BitVec.ofNat 128)
  tracks := E.tracks.map (BitVec.ofNat 128)
  ags := E.ags.map (leBytes 96)
  mts := E.mts.map (leBytes 32)
  pilots := E.pilots.map (BitVec.ofNat 128)
  tiles := E.tiles.map (BitVec.ofNat 64)
  policies := E.policies.map (BitVec.ofNat 32)
  shells := (E.raw.entries 8).map fun v => (List.range 256).map fun i => BitVec.ofNat 32 (v / 2 ^ (32 * i))
  params := (E.raw.entries 9).map (BitVec.ofNat 64)
  regions := E.regions.map fun r =>
    (BitVec.ofNat 64 r, BitVec.ofNat 64 (r / 2 ^ 64), BitVec.ofNat 64 (r / 2 ^ 128))
  timelines := E.timelines.map (BitVec.ofNat 128)
  streams := E.streams.map (BitVec.ofNat 128)
  joins := E.joins.map (BitVec.ofNat 128)

/-! ## Tracks (R199, code 0x34) -/

/-- Tracks of 64 bits in each switch-box direction (R13). -/
def tracksPerDirection : Nat := 32

/-- The path chosen for a bundle of `n` tracks: the first of those it may take on which every direction has `n` tracks left. -/
def pickPath (used : Nat → Nat) (n : Nat) (paths : List (List Nat)) : Option (List Nat) :=
  paths.find? fun p => p.all fun d => used d + n ≤ tracksPerDirection

/-- The paths of a charge's tracks, chosen in the order of section 4, each with its width; none where some track has no path. `used`
gives the tracks in use in each direction. -/
def allocTracks (region : List Nat) : (Nat → Nat) → List (BitVec 128) → Option (List (Nat × List Nat))
  | _, [] => some []
  | used, t :: ts =>
    let w := t.toNat
    let n := bitsOf w 55 52 + 1
    match pickPath used n (Config.trackPaths (region.getD (bitsOf w 7 0) 0) (bitsOf w 15 8) (region.getD (bitsOf w 23 16) 0)
        (bitsOf w 31 24)) with
    | none => none
    | some p => (allocTracks region (fun d => used d + if p.contains d then n else 0) ts).map ((n, p) :: ·)

/-- VALIDATION: the bytes of an image, for a charge on the hearths `region` in shape order (R93); `used` gives the tracks in use in
each switch-box direction. The record of a track that cannot be allocated names bit 0xFF (assumption entry 88). -/
def validate (b : List Byte) (region : List Nat) (used : Nat → Nat) : Except Refused Image := do
  checkHeader b
  let bytes := b.take (byteField b 8 4)
  let m : RawImage := { bytes := bytes, sections := directoryOf bytes }
  checkDirectory bytes m.sections
  checkShape m
  let E := imageEnv m
  E.checkBlocks
  E.checkEdges
  E.checkTracks
  E.checkPrograms
  E.checkTiles
  E.checkTables
  E.checkParams
  E.checkRegions
  E.checkCounters
  E.checkJoins
  E.checkPlacement region
  eachOk E.checkMatrix E.blocks
  E.checkRoutes
  refuseIf [((allocTracks region used E.image.tracks).isNone, outside 0x34 0xFF)]
  .ok E.image

/-- The shape entries of an image before it is validated, as far as its directory shows them (assumption entry 70). -/
def shapeOf (b : List Byte) : List (BitVec 32) :=
  match checkHeader b, checkDirectory b (directoryOf b) with
  | .ok (), .ok () => ({ bytes := b, sections := directoryOf b : RawImage }.entries 1).map (BitVec.ofNat 32)
  | _, _ => []

end Sys2Proof.Machine
end

