-- ==== Sys2Proof/Machine/Stoker.lean ====
section
/-!
DEFINITION. Sys2Proof/Machine/Stoker.lean: the stoker's own operations: reading through an address space, completion records
(R332), packets and their checks (R330, R333), regions (R66), contexts held (R45, R335), and the registration of a splice
(R67, R100, R334).
-/

namespace Sys2Proof.Machine

/-! ## Stoker reads -/

/-- `n` bytes from `va`, taken whole or not at all: page by page with r permission; a poisoned beat is unreadable. -/
def State.vread (s : State) (aspace va n : Nat) : Option (List Byte) :=
  (List.range ((va % 65536 + n + 65535) / 65536)).foldl (init := some []) fun acc i =>
    match acc with
    | none => none
    | some l =>
      let lo := max va ((va / 65536 + i) * 65536)
      let k := min (va + n) ((va / 65536 + i + 1) * 65536) - lo
      match s.stokerAddr aspace lo true false with
      | some ma => if s.anyPoison ma k then none else some (l ++ s.bytesHome ma k)
      | none => none

/-- The walk fault of the first of `n` bytes that the stoker cannot read: its code, stage and address (R305). -/
def State.readStop (s : State) (aspace va n : Nat) : Option (Nat × Bool × Nat) :=
  (List.range ((va % 65536 + n + 65535) / 65536)).findSome? fun i =>
    let lo := max va ((va / 65536 + i) * 65536)
    let k := min (va + n) ((va / 65536 + i + 1) * 65536) - lo
    match (s.walkPage (s.aspace aspace) none 0 lo).grant true false with
    | .error (f, w) => some (walkCode f, w, walkAddr f lo)
    | .ok x => if s.anyPoison (x.machine lo) k then some (8, false, x.machine lo) else none

/-! ## Rights (R324, R325) -/

def rightBind : Nat := 5
def rightRate : Nat := 4
def rightMigrate : Nat := 3
def rightReset : Nat := 2
def rightObserve : Nat := 1
def rightDelegate : Nat := 0

/-- Whether a partition holds a right, and whether a device holds it: a right clear at one level is clear beneath it. -/
def State.partHolds (s : State) (p bit : Nat) : Bool := p < 168 && (s.part p).rights.getLsbD bit

def State.vdevHolds (s : State) (v bit : Nat) : Bool :=
  s.partHolds (s.vdev v).partition.toNat bit && (s.vdev v).rights.getLsbD bit

/-- Whether an agent may act on device `v` with a right. -/
def State.mayDevice (s : State) (a : Agent) (v bit : Nat) : Bool :=
  match a with
  | .wholesaler => true
  | .reseller p => (s.vdev v).partition.toNat == p && s.partHolds p bit
  | .tenant w => w == v && s.vdevHolds v bit
  | .core _ => false

/-! ## Launches -/

def Launch.id (l : Launch) : Nat := pktField l.packet 0x30 8
def Launch.image (l : Launch) : Nat := pktField l.packet 0x08 8
def Launch.bindings (l : Launch) : Nat := pktField l.packet 0x10 8
def Launch.bindingCount (l : Launch) : Nat := pktField l.packet 0x05 1
def Launch.params (l : Launch) : Nat := pktField l.packet 0x18 8
def Launch.tpage (l : Launch) : Nat := pktField l.packet 0x20 8
def Launch.flags (l : Launch) : Nat := pktField l.packet 0x03 1
def Launch.priority (l : Launch) : Nat := pktField l.packet 0x02 1
def Launch.pred (l : Launch) : Nat := pktField l.packet 0x38 8
def Launch.waitCount (l : Launch) : Nat := pktField l.packet 0x04 1
/-- Address and threshold of wait `i`. -/
def Launch.wait (l : Launch) (i : Nat) : Nat × Nat := (pktField l.packet (0x40 + 16 * i) 8, pktField l.packet (0x48 + 16 * i) 8)
def Launch.isSplice (l : Launch) : Bool := bitOf l.flags 0

/-- The check of a packet (R330, R77). -/
def packetCheckOk (p : List Byte) : Bool := crc16 (p.take 0x7E ++ [0, 0]) == pktField p 0x7E 2

/-- Reasons 1 to 4 of R333, the first that applies; `pcap` is the queue's. The bindings table is aligned to its entries. The table
gives no reason for a pred without the splice flag or for a wait entry beyond wait_count that is not zero. -/
def packetReject (l : Launch) (pcap : Nat) : Option Nat :=
  let n := min l.waitCount 3
  if pktField l.packet 0 2 ≠ 1 ∨ 4 ≤ l.flags ∨ pktField l.packet 6 2 ≠ 0 ∨ pktField l.packet 0x70 14 ≠ 0 then some 1
  else if 3 < l.waitCount ∨ 16 < l.bindingCount then some 2
  else if l.image % 256 ≠ 0 ∨ l.bindings % 8 ≠ 0 ∨ l.params % 16 ≠ 0 ∨ l.tpage % 4096 ≠ 0 ∨
      ([0, 1, 2].filter (· < n)).any (fun i => (l.wait i).1 % 8 != 0) then some 3
  else if pcap < l.priority then some 4
  else none

/-- The running charge of the packet's device that a splice packet names, without a successor yet (R333, reason 5). -/
def State.spliceTarget (s : State) (l : Launch) : Option Nat :=
  (s.fab.charges.find? fun (_, c) =>
    c.vdev == l.vdev && c.launchId == l.pred && c.successor.isNone && (c.phase == .running || c.phase == .freezing)).map (·.1)

/-! ## Completion records (R332, R292) -/

def statusDone : Nat := 0
def statusRefused : Nat := 1
def statusHalted : Nat := 2
def statusAborted : Nat := 3
def statusCancelled : Nat := 4
def statusRejected : Nat := 5

/-- A completing charge's vector in the completion table, most recently written last. -/
def putComplVec (l : List (Nat × Vec)) (k : Nat) (v : Vec) : List (Nat × Vec) :=
  match l.find? fun x => x.1 == k with
  | some (_, old) => (l.filter fun x => x.1 != k) ++ [(k, old.merge 8 v)]
  | none => (if l.length < 256 then l else l.drop 1) ++ [(k, v)]

/-- A launch completed: bytes 8 to 39 of its record, then its counter, as a release at `.m`. A record that is misaligned or cannot be
reached is left unwritten. -/
def State.writeCompletion (s : State) (l : Launch) (status detail refusal : Nat) (v : Option Vec) : State :=
  if l.record % 64 ≠ 0 then s
  else match s.stokerAddr l.aspace l.record false true with
  | none => s
  | some ma =>
    let s := s.stokerStoreVia l.aspace l.record (ma + 8)
      (leBytes 4 status ++ leBytes 4 detail ++ leBytes 8 l.id ++ leBytes 8 refusal ++ leBytes 8 s.cycle)
    let s := s.stokerStoreVia l.aspace l.record ma (leBytes 8 (s.loadHome ma 8 + 1))
    match v with
    | some v => s.setAdm { s.adm with complVecs := putComplVec s.adm.complVecs ma v }
    | none => s

/-- A bound charge as the launch that it runs. -/
def Charge.launch (c : Charge) : Launch :=
  { packet := c.packet, vec := .empty, vdev := c.vdev, queue := c.queue, aspace := c.packetAspace, record := c.record }

/-! ## Queue faults (R329) -/

/-- A queue faulted with a cause; the record goes to the reseller (R348, code 0x25). -/
def State.queueFault (s : State) (v q cause : Nat) : State :=
  let s := s.modQueue v q fun x => { x with state := 2, cause := BitVec.ofNat 3 cause }
  let p := (s.vdev v).partition.toNat
  s.post { s.faultRec 1024 0x25 0 with partition := p, vdev := v, unit := 0, detail := [cause] }

/-! ## Regions (R65, R66) -/

/-- Signed byte `i` of a shape entry. -/
def shapeByte (e : BitVec 32) (i : Nat) : Int := signedOf 8 (bitsOf e.toNat (8 * i + 7) (8 * i))

/-- The hearth at an offset from the origin, with no wrap in stove, column or row. -/
def hearthAt (origin : Nat) (e : BitVec 32) : Option Nat :=
  let st : Int := stoveOf origin + shapeByte e 0
  let col : Int := logicalOf origin / 2 + shapeByte e 1
  let row : Int := logicalOf origin % 2 + shapeByte e 2
  if 0 ≤ st ∧ st < 12 ∧ 0 ≤ col ∧ col < 7 ∧ 0 ≤ row ∧ row < 2 then
    some (hearthOf st.toNat (2 * col.toNat + row.toNat))
  else none

/-- Hearths of a region in shape order, if every one lies in the module. -/
def regionAt (origin : Nat) : List (BitVec 32) → Option (List Nat)
  | [] => some []
  | e :: es => match hearthAt origin e, regionAt origin es with
    | some h, some hs => some (h :: hs)
    | _, _ => none

/-- An enabled hearth that is neither vacant nor being retired nor marked (R21, R66, R365). -/
def State.hearthEnabled (s : State) (h : Nat) : Bool :=
  match physicalOf (s.stove (stoveOf h)).hearthMap (logicalOf h) with
  | some p => h < hearthCount && (s.stove (stoveOf h)).hearthEnable.getLsbD p && !(s.hearth h).retiring &&
      (s.hearth h).marked.isEmpty
  | none => false

/-- The image bytes that a launch names, as long as its header says. -/
def State.imageBytes (s : State) (l : Launch) : Option (List Byte) :=
  match s.vread l.aspace l.image 64 with
  | some h => s.vread l.aspace l.image (max 64 (byteField h 8 4))
  | none => none

/-- The reads of a launch's image, bindings and parameters, checked and counted as they are made (R318, R363). -/
def State.noteImage (s : State) (l : Launch) : State :=
  let s := s.noteRead l.aspace l.image 64
  match s.vread l.aspace l.image 64 with
  | some h => s.noteRead l.aspace l.image (max 64 (byteField h 8 4))
  | none => s
def State.noteTables (s : State) (l : Launch) : State :=
  let s := if l.bindingCount = 0 then s else s.noteRead l.aspace l.bindings (8 * l.bindingCount)
  if l.params = 0 then s
  else
    let s := s.noteRead l.aspace l.params 8
    match s.vread l.aspace l.params 8 with
    | some h => s.noteRead l.aspace (l.params + 8) (16 * leNat h)
    | none => s

/-- The region that a launch asks for from an origin, as far as its image shows one. -/
def State.regionOfLaunch (s : State) (l : Launch) (origin : Nat) : Option (List Nat) :=
  match s.imageBytes l with
  | some b => regionAt origin (shapeOf b)
  | none => some []

/-! ## Context numbers (R45, R335) -/

/-- Launches of records that have been dispatched and are not yet bound: slot-table index and launch. -/
def State.requested (s : State) : List (Nat × Launch) :=
  s.adm.binds.filterMap fun (i, r) =>
    if r.state = 1 then
      match r.launch with
      | some n => (Table.get? s.adm.listed n).map fun l => (i, l)
      | none => none
    else none

/-- Whether a context number is held on some hearth of a region by a record other than `i`: by a bound charge that is not
swapped out, a splice successor, or a dispatched launch. -/
def State.ctxHeld (s : State) (i ctx : Nat) (region : List Nat) : Bool :=
  (s.fab.charges.any fun (b, c) =>
    b != i && c.ctx == ctx && c.phase != .swapping && c.phase != .swapped && c.region.any region.contains) ||
  (s.adm.spliced.any fun (b, _) =>
    b != i && (s.bindRec b).ctx.toNat == ctx &&
    (s.fab.charges.any fun (_, c) => c.successor == some b && c.region.any region.contains)) ||
  (s.requested.any fun (b, l) =>
    b != i && (s.bindRec b).ctx.toNat == ctx &&
    (match s.regionOfLaunch l (s.bindRec b).origin.toNat with
     | some hs => hs.any region.contains
     | none => false))

/-! ## Splices (R67, R100, R334) -/

/-- The lowest slot-table index that is free or completed and not in use. -/
def State.freeRecord (s : State) : Option Nat :=
  (List.range 1024).find? fun i =>
    ((s.bindRec i).state == 0 || (s.bindRec i).state == 6) && (s.charge? i).isNone && (Table.get? s.adm.spliced i).isNone

/-- The successor of charge `b` registered: status of R100, the record used being the stoker's choice. R100 names no status for a
packet whose image cannot be read nor for a slot table without a free record: the model gives 3, as for another shape, and 5,
as for no context number (assumption entry 89). -/
def State.registerSplice (s : State) (b : Nat) (l : Launch) : Nat × State :=
  match s.charge? b with
  | none => (1, s)
  | some c =>
    if c.successor.isSome then (1, s)
    else
      let s := s.noteImage l
      match s.imageBytes l with
      | none => (3, s)
      | some img =>
        if shapeOf img ≠ c.image.shape then (3, s)
        else
          match (List.range 16).find? (fun k => !(s.ctxHeld 1024 k c.region)), s.freeRecord with
          | some k, some j =>
            let r := s.bindRec b
            let s := s.modBind j fun _ =>
              { r with entry := 0, vdev := BitVec.ofNat 10 l.vdev, ctx := BitVec.ofNat 4 k,
                       priority := BitVec.ofNat 3 l.priority, preempt := r.preempt && !(bitOf l.flags 1), expired := false,
                       state := 2, launch := none, since := s.cycle }
            let s := s.setAdm { s.adm with spliced := Table.put s.adm.spliced j l }
            (0, s.modCharge b fun c => { c with successor := some j })
          | _, _ => (5, s)

end Sys2Proof.Machine
end

