-- ==== Sys2Proof/Machine/Tile.lean ====
section
/-!
DEFINITION. Sys2Proof/Machine/Tile.lean: tiles and their states (R193 to R198) and the words TLD, TST, TQRY, TCLR, CRD, CWR and
ZBMP (R219 to R221).
-/

namespace Sys2Proof.Machine

/-! ## Tiles (R193 to R198) -/

def tileEmpty : BitVec 2 := 0
def tileFilling : BitVec 2 := 1
def tileReady : BitVec 2 := 2
def tileDraining : BitVec 2 := 3

def State.modTile (s : State) (h t : Nat) (f : TileEntry → TileEntry) : State :=
  s.modHearth h fun x => { x with tiles := Table.modify x.tiles t f }

/-- Entry number of a charge's tile on a hearth. -/
def State.tileOf (s : State) (b h tile : Nat) : Option Nat :=
  ((s.hearth h).tiles.find? fun (_, x) => x.mapped && x.bind == b && x.tile == tile).map (·.1)

/-- Bytes of a tile element, and elements of a tile (R193). -/
def tileBytes (f : Fmt) : Nat := max 1 (f.bits / 8)
def tileCount (f : Fmt) : Nat := 4096 / tileBytes f

/-- Machine address of element `e` of entry `t` (R186, R193): entry t belongs to MT t div 8. -/
def tileAddr (h t : Nat) (x : TileEntry) (e : Nat) : Nat :=
  padAddr h (t / 8 * 0x80000 + x.frame.toNat * 0x1000 + e * tileBytes x.fmt)

def State.tileElem (s : State) (h t : Nat) (x : TileEntry) (e : Nat) : Nat := s.nat (tileAddr h t x e) (tileBytes x.fmt)

/-- Whether an element counts as nonzero (R198). -/
def nonzeroElem (f : Fmt) (v : Nat) : Bool := if f.isFloat then v % 2 ^ (f.bits - 1) != 0 else v % 2 ^ f.bits != 0

/-- The tile sealed (R195): the zero bitmap is computed where the seal has bitmap mode. -/
def State.sealTile (s : State) (h t : Nat) (bitmap : Bool) : State :=
  let x := s.tile h t
  let bm := if bitmap then
      (List.range (tileCount x.fmt)).foldl (fun n e =>
        if nonzeroElem x.fmt (s.tileElem h t x e) then n + 2 ^ e else n) 0
    else x.bitmap
  s.modTile h t fun x => { x with state := tileReady, bmv := bitmap, bitmap := bm }

/-- A position of TST or CWR arrives at an EMPTY or FILLING tile: the first makes every element 0 (R195). -/
def State.openTile (s : State) (h t : Nat) : State :=
  let x := s.tile h t
  if x.state = tileEmpty then
    (s.store (tileAddr h t x 0) (List.replicate 4096 0)).modTile h t fun x =>
      { x with state := tileFilling, fill := 0, bmv := false }
  else s

/-- An element written, and the tile sealed when its fill mask is full (R195, R220). -/
def State.writeTile (s : State) (h t : Nat) (it : Iter) (v : Val) (bitmap : Bool) : State :=
  let x := s.tile h t
  let e := it.toNat % tileCount x.fmt
  let s := s.store (tileAddr h t x e) (leBytes (tileBytes x.fmt) v.toNat)
  let fill := x.fill ||| 2 ^ e
  let s := s.modTile h t fun x => { x with fill := fill }
  if fill = 2 ^ tileCount x.fmt - 1 then s.sealTile h t bitmap else s

/-- Positions written in ascending order until one seals the tile; the rest are left over. -/
def writePositions (h t : Nat) (bitmap binary : Bool) : State → List FPos → State × List FPos
  | s, [] => (s, [])
  | s, q :: rest =>
    let s := s.openTile h t
    let s := match q.l, (if binary then q.r.isSome else true) with
      | some v, true => s.writeTile h t q.iter v bitmap
      | _, _ => s
    let s := match q.r with
      | some r =>
        if binary && bitOf r.toNat 0 && (s.tile h t).state == tileFilling then s.sealTile h t bitmap else s
      | none => s
    if (s.tile h t).state = tileFilling then writePositions h t bitmap binary s rest else (s, rest)

/-- TST and CWR (R220). Positions after one that seals wait as a firing of their own. -/
def tileWrite (w : WordM) (s : State) : Option State :=
  match startFiring s with
  | none => none
  | some (F, s) =>
    match s.tileOf F.cc.bind F.hearth (w.aux.toNat / 512) with
    | none => none
    | some t =>
      let st := (s.tile F.hearth t).state
      if st = tileReady ∨ st = tileDraining then none
      else
        let (s, rest) := writePositions F.hearth t (bitOf w.aux.toNat 8) (w.arity = 2) s F.f.pos
        some (if rest.isEmpty then s
          else s.modCtx F.hearth F.ce F.ctx fun x => { x with ready := { F.f with pos := rest } :: x.ready })

/-- A poisoned beat under a tile being read freezes the charge, and the read stays ready (R223). -/
def State.tilePoisoned (s : State) (h t : Nat) : Bool := s.anyPoison (tileAddr h t (s.tile h t) 0) 4096

/-- The reads of a firing counted in the tile's busy field, with one record each (R219). -/
def State.startReads (s : State) (b h t n : Nat) : State :=
  let id := s.fab.nextId
  let recs : List TileRead := (List.range n).map fun i => { id := id + i, hearth := h, entry := t, bind := b }
  (s.setFab { s.fab with nextId := id + n, tileReads := s.fab.tileReads ++ recs }).modTile h t fun x =>
    { x with busy := x.busy + BitVec.ofNat 6 n }

/-- A tile-reading firing: it waits for READY; each DATA position reads the whole tile with `out`. -/
def tileRead (w : WordM) (out : State → Nat → TileEntry → List (Nat × Nat)) (counts : Bool) (s : State) : Option State :=
  let s0 := s
  match startFiring s with
  | none => none
  | some (F, s) =>
    match s.tileOf F.cc.bind F.hearth (w.aux.toNat / 512) with
    | none => none
    | some t =>
      let x := s.tile F.hearth t
      let n := (F.f.pos.filter fun q => q.l.isSome).length
      if x.state ≠ tileReady ∨ 63 < x.busy.toNat + n then none
      else if n ≠ 0 ∧ s.tilePoisoned F.hearth t then
        some (s0.raiseFault F.cc.bind { s0.faultRec F.cc.bind 8 F.hearth with
          tag := faultTag F.ctx F.tag0, block := F.blk.id, slot := F.slot, ce := F.ce,
          address := BitVec.ofNat 64 (tileAddr F.hearth t x 0), detail := [t] })
      else
        let elems := out s t x
        let cap := w.fmt.maxRun
        let per (q : FPos) : List Emit := match q.l with
          | none => [{ iter := q.iter, val := none }]
          | some b => elems.map fun (i, v) => { iter := b.extractLsb' 0 24 + BitVec.ofNat 24 i, val := some (BitVec.ofNat 128 v) }
        let count (q : FPos) : Emit := { iter := q.iter, val := q.l.map fun _ => BitVec.ofNat 128 elems.length }
        let s := s.startReads F.cc.bind F.hearth t n
        let s := F.f.pos.foldl (init := s) fun s q =>
          let s := s.sendAligned F.cc.bind F.cc.block F.slot 0 w.cons1 cap (per q)
          if counts then s.sendAll F.cc.bind F.cc.block F.slot 1 w.cons2 1 [count q]
          else s.sendAligned F.cc.bind F.cc.block F.slot 1 w.cons2 cap (per q)
        some s

/-- Elements by TLD. -/
def tldOut (h : Nat) (s : State) (t : Nat) (x : TileEntry) : List (Nat × Nat) :=
  (List.range (tileCount x.fmt)).map fun e => (e, s.tileElem h t x e)

/-- Nonzero elements by CRD. -/
def crdOut (h : Nat) (s : State) (t : Nat) (x : TileEntry) : List (Nat × Nat) :=
  (tldOut h s t x).filter fun (_, v) => nonzeroElem x.fmt v

/-- Bitmap words by ZBMP. -/
def zbmpOut (_s : State) (_t : Nat) (x : TileEntry) : List (Nat × Nat) :=
  (List.range (tileCount x.fmt / 32)).map fun k => (k, if x.bmv then x.bitmap / 2 ^ (32 * k) % 2 ^ 32 else 0xFFFFFFFF)

/-- The hearth of the firing that the step runs. -/
def selHearth (s : State) : Nat := match s.sel with
  | some (.firing h _ _ _) => h
  | some (.entry h _ _ _) => h
  | none => 0

/-- TQRY (R221). -/
def tqryFiring (w : WordM) (s : State) : Option State :=
  match startFiring s with
  | none => none
  | some (F, s) =>
    let v := match s.tileOf F.cc.bind F.hearth (w.aux.toNat / 512) with
      | some t => (s.tile F.hearth t).word
      | none => 0
    some (s.emitBoth F w.cons1 w.cons2 32
      (F.f.pos.map fun q => { iter := q.iter, val := q.l.map fun _ => BitVec.ofNat 128 v }))

/-- TCLR (R221). -/
def tclrFiring (w : WordM) (s : State) : Option State :=
  match startFiring s with
  | none => none
  | some (F, s) =>
    match s.tileOf F.cc.bind F.hearth (w.aux.toNat / 512) with
    | none => none
    | some t =>
      if (F.f.pos.all fun q => q.l.isNone) ∨ (s.tile F.hearth t).state = tileEmpty then
        some (s.emitBoth F w.cons1 w.cons2 32 F.runL)
      else
        let s := s.modTile F.hearth t fun x => { x with state := tileDraining }
        some (s.setFab { s.fab with
          tclrs := s.fab.tclrs ++ [{ bind := F.cc.bind, hearth := F.hearth, ce := F.ce, slot := F.slot, entry := t,
                                     tile := w.aux.toNat / 512, pos := F.f.pos }] })

/-! ## Events -/

/-- Words of a charge that write a tile on a hearth, with their CE and slot: TST and CWR (R195). -/
def Charge.tileWriters (c : Charge) (h tile : Nat) : List (Nat × Nat × Nat × BitVec 64) :=
  (c.image.blocks.zipIdx.map fun (b, i) =>
    if c.region.getD b.shape hearthCount = h then
      b.words.zipIdx.filterMap fun (w, j) =>
        if (wordOp w = 0x89 ∨ wordOp w = 0x8D) ∧ bitsOf w.toNat 15 9 = tile then some (i, b.first + j / 32, j, w) else none
    else []).flatten

/-- TILE_SEAL_EOS (R195): EOS held by every writing word seals a FILLING tile; the held EOS tokens are discarded. -/
def tileSealEos (bind hearth tile : Nat) (s : State) : Option State :=
  match s.charge? bind, s.tileOf bind hearth tile with
  | some c, some t =>
    let ws := c.tileWriters hearth tile
    let held (x : Nat × Nat × Nat × BitVec 64) : Bool :=
      match s.ctx? hearth x.2.1 c.ctx, c.block? x.1 with
      | some cc, some b => s.eosReady hearth x.2.1 c.ctx cc c b x.2.2.1
      | _, _ => false
    if !c.runs ∨ (s.tile hearth t).state ≠ tileFilling ∨ ws.isEmpty ∨ !(ws.all held) then none
    else
      let s := s.sealTile hearth t (ws.any fun x => bitOf x.2.2.2.toNat 8)
      some (ws.foldl (init := s) fun s x => s.modCtx hearth x.2.1 c.ctx fun cc =>
        { cc with entries := cc.entries.filter fun y => !(y.slot == x.2.2.1 && y.kind == .eos) })
  | _, _ => none

/-- TILE_READ_DONE (R219): a read has emitted its last position. -/
def tileReadDone (id : Nat) (s : State) : Option State :=
  match s.fab.tileReads.find? fun r => r.id == id with
  | none => none
  | some r =>
    some ((s.setFab { s.fab with tileReads := s.fab.tileReads.erase r }).modTile r.hearth r.entry fun x =>
      { x with busy := x.busy - 1 })

/-- TILE_DRAIN_DONE (R195): a DRAINING tile that no read keeps busy becomes EMPTY, and the firings that wait for it emit
(R221). -/
def tileDrainDone (hearth entry : Nat) (s : State) : Option State :=
  let x := s.tile hearth entry
  if !x.mapped ∨ x.state ≠ tileDraining ∨ x.busy ≠ 0 then none
  else
    match s.charge? x.bind with
    | none => some (s.modTile hearth entry fun x => { x with state := tileEmpty, bmv := false })
    | some c =>
      if !c.serves then none
      else
        let mine := s.fab.tclrs.filter fun y => y.hearth == hearth && y.entry == entry
        let s := s.modTile hearth entry fun x => { x with state := tileEmpty, bmv := false }
        let s := s.setFab { s.fab with tclrs := s.fab.tclrs.filter fun y => !(y.hearth == hearth && y.entry == entry) }
        some (mine.foldl (init := s) fun s y =>
          match (s.ctx? y.hearth y.ce c.ctx).bind fun cc => (c.block? cc.block).map fun b => (cc.block, b) with
          | some (k, b) =>
            let w := b.words.getD y.slot 0
            let l : List Emit := y.pos.map fun q => { iter := q.iter, val := q.l }
            (s.sendAll y.bind k y.slot 0 (rawCons w 0) 32 l).sendAll y.bind k y.slot 1 (rawCons w 1) 32 l
          | none => s)

/-! ## Meanings -/

/-- TLD (R219). -/
def execTld (w : WordM) (s : State) : Host.Outcome State Fault Refusal :=
  finish s (tileRead w (tldOut (selHearth s)) false s)

/-- TST (R220). -/
def execTst (w : WordM) (s : State) : Host.Outcome State Fault Refusal := finish s (tileWrite w s)

/-- TQRY (R221). -/
def execTqry (w : WordM) (s : State) : Host.Outcome State Fault Refusal := finish s (tqryFiring w s)

/-- TCLR (R221). -/
def execTclr (w : WordM) (s : State) : Host.Outcome State Fault Refusal := finish s (tclrFiring w s)

/-- CRD (R219). -/
def execCrd (w : WordM) (s : State) : Host.Outcome State Fault Refusal :=
  finish s (tileRead w (crdOut (selHearth s)) true s)

/-- CWR (R220). -/
def execCwr (w : WordM) (s : State) : Host.Outcome State Fault Refusal := finish s (tileWrite w s)

/-- ZBMP (R219). -/
def execZbmp (w : WordM) (s : State) : Host.Outcome State Fault Refusal := finish s (tileRead w zbmpOut false s)

/-- TILE_SEAL_EOS (R195). -/
def execTileSealEos (bind hearth tile : Nat) (s : State) : Host.Outcome State Fault Refusal :=
  finish s (tileSealEos bind hearth tile s)

/-- TILE_READ_DONE (R219). -/
def execTileReadDone (id : Nat) (s : State) : Host.Outcome State Fault Refusal := finish s (tileReadDone id s)

/-- TILE_DRAIN_DONE (R195). -/
def execTileDrainDone (hearth entry : Nat) (s : State) : Host.Outcome State Fault Refusal :=
  finish s (tileDrainDone hearth entry s)

end Sys2Proof.Machine
end

