-- ==== Sys2Proof/Machine/Stream.lean ====
section
/-!
DEFINITION. Sys2Proof/Machine/Stream.lean: chained counters and pilots (R62), AG and MT programs (R200 to R203), and
HOME_ACCESS (R218).
-/

namespace Sys2Proof.Machine

/-! ## Chains (R62) -/

/-- A chain starts: its counters at 0, its agent's epoch and its charge's acquire table taken (R292). -/
def State.startChain (s : State) (k : Chain) : State :=
  match s.charge? (chainBind k) with
  | none => s
  | some c =>
    let tl := c.chainTl k
    s.modChain k fun g =>
      { g with running := true, index := 0, starts := g.starts + 1, ended := false, buffer := [], since := s.fab.nextId, began := s.cycle,
               vec := if tl = 0xFF then c.acquired else c.engineVec,
               epoch := if tl = 0xFF then c.epoch else ((c.timelines[tl]?).map fun t => t.value.toNat).getD 0 }

/-- Destination of a pilot route. -/
def Charge.routeChain (c : Charge) (b n : Nat) : Option Chain :=
  (c.image.route? n).bind fun e =>
    let h := c.region.getD (e.extractLsb' 30 8).toNat 0
    let u := (e.extractLsb' 40 8).toNat
    match (e.extractLsb' 38 2).toNat with
    | 0 => some (.ag h u b)
    | 1 => some (.mt h u b)
    | 2 => some (.mx h u b)
    | _ => none

/-- The chain to which a pilot goes. -/
def State.pilotChain (s : State) (p : Pilot) : Option Chain := (s.charge? p.bind).bind fun c => c.routeChain p.bind p.route

/-- Whether an earlier pilot from the same CE to the same chain is still on its way: pilots between one source and one destination
arrive in the order sent (R62). -/
def State.pilotBefore (s : State) (index : Nat) (p : Pilot) : Bool :=
  (s.fab.pilots.take index).any fun q => q.bind == p.bind && q.hearth == p.hearth && q.ce == p.ce &&
    (q.route == p.route || s.pilotChain q == s.pilotChain p)

/-- CHAIN_START (R62): a start pilot reaches its chain. -/
def chainStart (index : Nat) (s : State) : Option State :=
  match s.fab.pilots[index]? with
  | none => none
  | some p =>
    if s.pilotBefore index p then none
    else
      let s := s.setFab { s.fab with pilots := s.fab.pilots.take index ++ s.fab.pilots.drop (index + 1) }
      match s.charge? p.bind with
      | none => some (s.countExited 1)
      | some c =>
        match c.routeChain p.bind p.route with
        | none => some (s.countExited 1)
        | some k =>
          if !(s.passes p.hearth (chainHearth k)) then some (s.countDamper 1)
          else
            let src := (p.hearth, p.ce, p.slot)
            match s.chain? k with
            | none => some (s.countExited 1)
            | some g =>
              if !g.running then some ((s.startChain k).modChain k fun g => { g with routes := g.routes ++ [src] })
              else if 255 ≤ g.pending then
                some (s.raiseFault p.bind { s.faultRec p.bind 0x14 p.hearth with
                  slot := p.slot, ce := p.ce, unit := 0, detail := [p.route],
                  block := ((s.blockOf c p.hearth p.ce).map Block.id).getD 0xFFFFFFFF })
              else some (s.modChain k fun g => { g with pending := g.pending + 1, routes := g.routes ++ [src] })

/-- CHAIN_START (R62). -/
def execChainStart (index : Nat) (s : State) : Host.Outcome State Fault Refusal := finish s (chainStart index s)

/-- A done pilot sent back to the PSTRM of the oldest start (R62, R146), with what the operation has released (R283). -/
def State.sendDone (s : State) (k : Chain) (c : Charge) (rels : List Rel) : State :=
  match s.chain? k with
  | none => s
  | some g =>
    match g.routes with
    | [] => s
    | (h, e, slot) :: rest =>
      let s := s.modChain k fun g => { g with routes := rest }
      if !(s.passes (chainHearth k) h) then s.countDamper 1
      else s.modCtx h e c.ctx fun x => { x with pdone := Table.update x.pdone slot [] fun l => l ++ [rels] }

/-- Cycles that a matrix sequencer's chain takes: the product of its trip counts, which the spec says are fixed in a configuration that it
does not lay out (assumption entry 35). -/
def sequencerLength (c : Charge) (h e : Nat) : Nat :=
  (Config.sequencerTrips c.imageMa (c.shapeOf h) e).foldl (fun n t => n * t.toNat) 1

/-- CHAIN_DONE (R62): a chain whose outermost counter has completed reruns for a pending start. A matrix sequencer sends its
done pilot here; an AG's or MT's is sent by STREAM_DONE. -/
def chainDone (k : Chain) (s : State) : Option State :=
  match s.charge? (chainBind k), s.chain? k with
  | some c, some g =>
    let finished := match k with
      | .mx h e _ => g.began + sequencerLength c h e ≤ s.cycle
      | _ => g.ended
    if !c.engines ∨ !g.running ∨ !finished then none
    else
      let s := match k with
        | .mx _ _ _ => s.sendDone k c []
        | _ => s
      some (if g.pending = 0 then s.modChain k fun g => { g with running := false }
        else (s.modChain k fun g => { g with pending := g.pending - 1 }).startChain k)
  | _, _ => none

/-- CHAIN_DONE (R62). -/
def execChainDone (chain : Chain) (s : State) : Host.Outcome State Fault Refusal := finish s (chainDone chain s)

/-! ## Delivery on tracks (R199, R201) -/

/-- A run of positions delivered on track `n` to its destination. -/
def State.deliverTrack (s : State) (b : Nat) (c : Charge) (src : List Nat) (n : Nat) (r : List Emit) (words : Nat) : State :=
  match c.image.tracks.find? fun t => (t.extractLsb' 56 8).toNat == n, r with
  | some t, e :: _ =>
    let dend := (t.extractLsb' 24 8).toNat
    let shape := (t.extractLsb' 16 8).toNat
    if dend < 48 then
      let slot := (t.extractLsb' 43 7).toNat
      let blk := c.image.blocks.findIdx fun k => k.shape == shape && k.first ≤ dend && dend < k.first + k.span
      let d : Dest := { blk := blk, slot := slot, port := portOf (t.extractLsb' 50 2).toNat,
                        task := (c.block? blk).any fun k => k.isHndl slot }
      s.sendTo b c src d (if e.val.isNone then .bubble else .data) e.iter (r.map fun y => y.val.getD 0) false [] words
    else if 64 ≤ dend ∧ dend < 80 then s.sendAg b c src (c.region.getD shape 0) (dend - 64) words r
    else s
  | _, _ => s

/-- Whether a position continues the run gathered so far. -/
def joinsRun (cap : Nat) (buf : List (Iter × Option Val)) (it : Iter) (v : Option Val) : Bool :=
  match buf.getLast? with
  | none => true
  | some (j, u) => it == j + 1 && it.toNat % 32 != 0 && buf.length < cap && u.isNone == v.isNone

def bufferRun (buf : List (Iter × Option Val)) : List Emit := buf.map fun (it, v) => { iter := it, val := v }

/-- A position gathered for delivery on a track; the last one of a stream empties the buffer. -/
def State.gather (s : State) (k : Chain) (b : Nat) (c : Charge) (track cap : Nat) (it : Iter) (v : Option Val) (last : Bool) :
    State :=
  match s.chain? k with
  | none => s
  | some g =>
    let src := [1, b, track]
    let (s, buf) :=
      if joinsRun cap g.buffer it v then (s, g.buffer)
      else (s.deliverTrack b c src track (bufferRun g.buffer) (runWords cap), [])
    let buf := buf ++ [(it, v)]
    if last then
      (s.deliverTrack b c src track (bufferRun buf) (runWords cap)).modChain k fun g => { g with buffer := [] }
    else s.modChain k fun g => { g with buffer := buf }

/-! ## AG elements (R201) -/

/-- The record of a fault at an AG: unit 2, no word. -/
def State.agRec (s : State) (c : Charge) (b h code : Nat) (stageW : Bool) (remote : Bool) (addr : Nat) (it : Iter)
    (detail : List Nat) : FaultRec :=
  { s.faultRec b code h with
    stageW := stageW, remote := remote, tag := faultTag c.ctx it, address := BitVec.ofNat 64 addr, unit := 2,
    detail := detail }

/-- An AG's write after its access takes its position from the FIFO. -/
def State.agDone (s : State) (k : Chain) : State := s.modChain k fun g => { g with index := g.index + 1, fifo := g.fifo.drop 1 }

/-- The request of a read AG's next element: it takes a place in its region's port, of which the AG is a member (R201, R205). An element
below the region's first is beyond its last. -/
def AgProg.request (p : AgProg) (s : State) (h n b : Nat) (g : ChainSt) : Req :=
  let (x, it) := p.point g.index
  { id := s.fab.nextId, flight := s.fab.nextId, bind := b, hearth := h, ce := 0xFF, slot := 0xFF, unit := .ag n, index := g.index,
    iter := it, op := .load, fmt := p.fmt, wide := false, region := p.region, elem := (x % 2 ^ 64).toNat, r := 0, p := 0,
    scope := scopeOf p.scope, bubbleOk := p.bubbleOk, live := true, owes := true, epoch := g.epoch, done := false,
    reply := none, wrote := false, parked := false, left := false, cycle := s.cycle, tagged := p.tagged }

/-- A read AG issues its next element, where its port has room (R205). -/
def agIssue (h n b : Nat) (p : AgProg) (g : ChainSt) (s : State) : Option State :=
  if s.portFull b h p.region 1 then none
  else
    let q := p.request s h n b g
    let s := s.setFab { s.fab with nextId := s.fab.nextId + 1, reqs := s.fab.reqs ++ [q] }
    some (s.modChain (.ag h n b) fun g => { g with index := g.index + 1 })

/-- Whether an AG has elements in its port. -/
def State.agHolds (s : State) (h n b : Nat) : Bool := s.fab.reqs.any fun q => q.bind == b && q.hearth == h && q.unit == .ag n

/-- PORT_REPLY_LEAVE (R208) of a read AG's element: on an ordered channel the ordered replies before it have left. It is gathered for its
track. -/
def agReplyLeave (id : Nat) (s : State) : Option State :=
  match s.req? id with
  | none => none
  | some q =>
    match q.unit, s.charge? q.bind with
    | .ag n, some c =>
      match c.agAt q.hearth n with
      | none => none
      | some p =>
        let before := s.fab.reqs.takeWhile fun x => x.id != id
        if !q.done ∨ !c.serves ∨ (!q.tagged ∧ before.any fun x => x.bind == q.bind && x.hearth == q.hearth &&
            x.region == q.region && x.owes && !x.tagged) then none
        else
          let k : Chain := .ag q.hearth n q.bind
          let s := s.dropReqs [id]
          let last := match s.chain? k with
            | some g => p.total ≤ g.index
            | none => true
          some (s.gather k q.bind c p.track p.fmt.maxRun q.iter q.reply (last && !(s.agHolds q.hearth n q.bind)))
    | _, _ => none

/-- PORT_REPLY_LEAVE (R208). -/
def replyLeave (id count : Nat) (s : State) : Option State :=
  match s.req? id with
  | none => none
  | some q => match q.unit with
    | .ag _ => agReplyLeave id s
    | _ => portReplyLeave id count s

/-- PORT_REPLY_LEAVE (R208). -/
def execPortReplyLeave (id count : Nat) (s : State) : Host.Outcome State Fault Refusal := finish s (replyLeave id count s)

/-- A write AG's next element, in counter order (R201): the position that has waited longest. -/
def agWrite (h n b : Nat) (c : Charge) (p : AgProg) (r : Region) (g : ChainSt) (v : Option Val) (phys : Phys) (s : State) :
    Option State :=
  let k : Chain := .ag h n b
  let (x, it) := p.point g.index
  let size := elemBytes p.fmt false
  let off := r.base + x.toNat * size
  let va := c.vaddr r off
  let s := s.tryKey b (agKey h n)
  let fault (s : State) (code : Nat) (w remote : Bool) (addr : Nat) (detail : List Nat) : State :=
    let s := s.raceRaised c code
    let (bub, s) := s.accessFault b p.bubbleOk (s.agRec c b h code w remote addr it detail) 0xFF it x.toNat
    if bub then s.agDone k else (s.modChain k fun g => { g with parked := true }).parkKey b (agKey h n)
  let settle (addr : Nat) (remote : Bool) (res : Except (Stop × State) (Val × Bool × State)) : Option State :=
    match res with
    | .ok (_, _, s) => some (s.agDone k)
    | .error (.waits, s) => some s
    | .error (.fault code w detail, s) => some (fault s code w remote (if code = 8 then detail.headD 0 else addr) detail)
  match v with
  | none => some (s.agDone k)
  | some val =>
    if x < 0 ∨ !(r.inBounds x.toNat size) then some (fault s 7 false false va [x.toNat])
    else match s.place c h r off false true with
      | .error f => some (fault s f.code f.stageW f.remote f.addr [])
      | .ok .waits => none
      | .ok (.mem ma x') =>
        settle va false (s.accessMem x' (c.streamActor k g g.epoch) (agId h n b) c.vdev va ma size .store 1 (Machine.policyOf 0)
          p.fmt val 0 phys (s.fundedAt (agId h n b)))
      | .ok (.pad g' ma) =>
        if !(s.passes h g') then some ((s.countDamper 1).modChain k fun g => { g with parked := true })
        else settle ma false (s.accessPad ma size .store (Machine.policyOf 0) p.fmt val 0 phys.check)
      | .ok (.window g' w o) =>
        if !(s.passes h g') then some ((s.countDamper 1).modChain k fun g => { g with parked := true })
        else if s.windowHeld g' c.ctx w o size then none
        else some ((s.writeWindow g' c.ctx w o size (val.toNat % 256 ^ size)).agDone k)
      | .ok (.remote m rva) =>
        if m = s.mod.number.toNat then
          settle rva true (s.accessDomain c.aspace c.image.cid rva size .store (Machine.policyOf 0) p.fmt val 0 phys)
        else match refusalOf phys with
          | some code => some (fault s code false true rva [])
          | none => some (s.agDone k)

/-- The next element of an AG program: a read enters its port, a write is performed. -/
def agAccess (h n b : Nat) (phys : Phys) (s : State) : Option State :=
  match s.charge? b, s.chain? (.ag h n b) with
  | some c, some g =>
    match c.agAt h n with
    | none => none
    | some p =>
      match c.region? p.region with
      | none => none
      | some r =>
        if !c.engines ∨ !g.running ∨ g.parked ∨ p.total ≤ g.index ∨ !(c.mayTry (agKey h n)) then none
        else if !p.write then agIssue h n b p g s
        else match g.fifo.head? with
          | none => none
          | some v => agWrite h n b c p r g v phys s
  | _, _ => none

/-! ## MT elements (R202) -/

/-- The next element of an MT program: the first waits for READY and counts as a read of the tile. -/
def mtAccess (h n b : Nat) (phys : Phys) (s : State) : Option State :=
  let k : Chain := .mt h n b
  match s.charge? b, s.chain? k with
  | some c, some g =>
    match c.mtAt h n with
    | none => none
    | some p =>
      match s.tileOf b h p.tile with
      | none => none
      | some t =>
        let x := s.tile h t
        let total := tileCount x.fmt
        if !c.engines ∨ !g.running ∨ g.parked ∨ !(c.mayTry (mtKey h n)) ∨ total ≤ g.index ∨ (g.index = 0 ∧ (x.state ≠ tileReady ∨ x.busy = 63)) then
          none
        else
          let ma := tileAddr h t x g.index
          let s := (s.tryKey b (mtKey h n)).checkBeat ma phys.check
          let it := p.tag0 + BitVec.ofNat 24 ((g.starts - 1) * total + g.index)
          if s.anyPoison ma (tileBytes x.fmt) then
            some (((s.modChain k fun g => { g with parked := true }).parkKey b (mtKey h n)).raiseFault b
              { s.faultRec b 8 h with tag := faultTag c.ctx it, address := BitVec.ofNat 64 ma, unit := 6, detail := [t] })
          else
            let s := if g.index = 0 then s.modTile h t fun x => { x with busy := x.busy + 1 } else s
            let v : Val := BitVec.ofNat 128 (s.tileElem h t x g.index)
            some ((s.gather k b c p.track x.fmt.maxRun it (some v) (g.index + 1 = total)).modChain k fun g =>
              { g with index := g.index + 1 })
  | _, _ => none

/-- Whether a running program has made its last access, and no reply of it is still in its port. -/
def State.streamOver (s : State) (c : Charge) (k : Chain) (g : ChainSt) : Bool :=
  match k with
  | .ag h n b => (match c.agAt h n with | some p => p.total ≤ g.index && !(s.agHolds h n b) | none => false)
  | .mt h n b => (match (c.mtAt h n).bind fun p => s.tileOf b h p.tile with
    | some t => tileCount (s.tile h t).fmt ≤ g.index
    | none => false)
  | .mx _ _ _ => false

/-- STREAM_DONE (R201): the stream advances its timeline as a release (R282) and sends its done pilot. -/
def streamDone (k : Chain) (s : State) : Option State :=
  match s.charge? (chainBind k), s.chain? k with
  | some c, some g =>
    if !c.engines ∨ !g.running ∨ g.ended ∨ !(s.streamOver c k g) then none
    else
      let tl := c.chainTl k
      let b := chainBind k
      let sc := match k with
        | .ag h n _ => ((c.agAt h n).map fun p => scopeOf p.scope).getD .m
        | _ => .m
      let rel := s.engineRel b tl sc (chainHearth k) g.vec
      let s := if tl = 0xFF then s else s.advanceEngine b tl rel
      let s := match k with
        | .mt h n b => (match (c.mtAt h n).bind fun p => s.tileOf b h p.tile with
          | some t => s.modTile h t fun x => { x with busy := x.busy - 1 }
          | none => s)
        | _ => s
      some ((s.sendDone k c (if tl = 0xFF then [] else [rel])).modChain k fun g => { g with ended := true })
  | _, _ => none

/-- STREAM_DONE (R201). -/
def execStreamDone (chain : Chain) (s : State) : Host.Outcome State Fault Refusal := 
  finish s ((streamDone chain s).map fun t => t.touch (chainBind chain))

end Sys2Proof.Machine
end

