-- ==== Sys2Proof/Machine/Load.lean ====
section
/-!
DEFINITION. Sys2Proof/Machine/Load.lean: a launch loaded (R336 step 3): its resources (R44, R192, R193, R242, R258, R368),
its bindings and parameters (R86, R191, R306, R331), its charge; the load of a splice successor (R67); and the end of a
launch (R68, R98, R332).
-/

namespace Sys2Proof.Machine

/-! ## Free units of a hearth (R44, R192, R193, R241, R258) -/

/-- The first `n` free consecutive numbers below `limit`, not below `lo`. -/
def fitFrom (lo limit n : Nat) (used : List Nat) : Option Nat :=
  (lo :: (used.map (· + 1)).filter (lo ≤ ·)).foldl (init := none) fun best c =>
    if c + n ≤ limit ∧ used.all (fun u => u < c || c + n ≤ u) then
      (match best with
       | some b => if b ≤ c then some b else some c
       | none => some c)
    else best

/-- The fold of a step that can fail. -/
def foldOpt {α β : Type} (f : β → α → Option β) : β → List α → Option β
  | b, [] => some b
  | b, x :: xs => match f b x with
    | some b => foldOpt f b xs
    | none => none

/-- The fold of a step that can fail and say where. -/
def foldExc {α β : Type} (f : β → α → Except Nat β) : β → List α → Except Nat β
  | b, [] => .ok b
  | b, x :: xs => match f b x with
    | .ok b => foldExc f b xs
    | .error e => .error e

/-- Scratchpad frames of a hearth in use: 128 × MT + frame (R186). A swapped charge keeps its frames until they are
written (R370). -/
def State.usedFrames (s : State) (h : Nat) : List Nat :=
  ((s.hearth h).tiles.filterMap fun (t, x) => if x.mapped then some (128 * (t / 8) + x.frame.toNat) else none) ++
  (s.fab.charges.map fun (_, c) =>
    match Table.get? c.alloc h with
    | some a => (List.range c.image.allocFrames).map (a / 4096 + ·)
    | none => []).flatten ++
  (s.fab.charges.map fun (_, c) => Table.getD c.frames h []).flatten

/-- A tile of the charge mapped to a free entry and a free frame of its MT; which ones is the stoker's choice (R193). -/
def State.mapTile (s : State) (i ctx h pick : Nat) (t : BitVec 64) : Option State :=
  let w := t.toNat
  let mt := bitsOf w 25 22
  let entries := (List.range 8).filter fun k => !(Table.getD (s.hearth h).tiles (8 * mt + k) TileEntry.reset).mapped
  let used := s.usedFrames h
  let frames := ((List.range 128).filter fun f => !(used.contains (128 * mt + f))).reverse
  match entries[pick % max 1 entries.length]?, frames[pick % max 1 frames.length]? with
  | some k, some f =>
    let entry : TileEntry := { TileEntry.reset with
      frame := BitVec.ofNat 7 f, fmt := Fmt.ofCode (bitsOf w 29 26), owner := BitVec.ofNat 4 ctx,
      mapped := true, bind := i, tile := bitsOf w 21 15 }
    some (s.modHearth h fun x => { x with tiles := Table.put x.tiles (8 * mt + k) entry })
  | _, _ => none

/-- The join partition of a charge on a hearth (R258, R273). -/
def State.takeJoin (s : State) (i ctx h : Nat) (e : BitVec 128) : Option State :=
  let w := e.toNat
  let q := bitsOf w 14 12 + 6
  let used := (s.hearth h).joins.map fun (_, j) => (j.abase, 2 ^ j.q)
  match (List.range (2048 / 2 ^ q)).find? (fun k => used.all fun (a, n) => a + n ≤ k * 2 ^ q || k * 2 ^ q + 2 ^ q ≤ a) with
  | some k =>
    let j : Join := {
      bind := i, abase := k * 2 ^ q, q := q, wide := bitOf w 15, limit := bitsOf w 20 16 + 1, ash := bitsOf w 29 24,
      dtl := bitsOf w 39 32, wlo := 0, whi := BitVec.allOnes 64, flags := 0, spills := 0, rejects := 0, longest := 0,
      drains := 0, draining := none, memo := [], want := none, begun := [], since := 0, vec := .empty, epoch := none, parked := none }
    some (s.modHearth h fun x => { x with joins := Table.put x.joins ctx j })
  | none => none

/-- A matrix context of a CE (R242). -/
def State.takeMatrix (s : State) (i h e : Nat) : Option State :=
  let c := s.ce h e
  if c.mx0.owner.isNone then some (s.modCe h e fun c => { c with mx0 := { MCtx.reset with owner := some i } })
  else if c.mx1.owner.isNone then some (s.modCe h e fun c => { c with mx1 := { MCtx.reset with owner := some i } })
  else none

/-- Words of part `p` of a block: its slots 32p to 32p + 31. -/
def Block.partWords (b : Block) (p : Nat) : List (BitVec 64) := (b.words.drop (32 * p)).take 32

/-- The first of `n` consecutive slots of a CE for context `ctx`: those that its predecessor in a splice has left to it, where they
suffice, and otherwise the lowest free ones, its own among them (R44). -/
def Ce.slotBase (x : Ce) (ctx n : Nat) : Option Nat :=
  let kept := x.slots.filter fun y => y.2.ctx == ctx
  match kept with
  | y :: _ => if n ≤ kept.length then some y.1 else fitFrom 0 32 n ((x.slots.filter fun y => y.2.ctx != ctx).map (·.1))
  | [] => fitFrom 0 32 n (x.slots.map (·.1))

/-- A block's words placed in consecutive free slots of a CE (R44): the context there. -/
def State.placePart (s : State) (ctx h e p : Nat) (b : Block) (cc : CeCtx) : Option State :=
  let ws := b.partWords p
  match (s.ce h e).slotBase ctx ws.length with
  | some base =>
    let s := s.modCe h e fun c =>
      let other := c.slots.filter fun y => y.2.ctx != ctx
      { c with slots := ws.zipIdx.foldl (fun t (w, j) => Table.put t (base + j) { ctx := ctx, word := w }) other }
    some (s.setFab { s.fab with ctxs := Table.put s.fab.ctxs (ctxKey h e ctx) { cc with base := base, loaded := true } })
  | none => none

/-- A context whose words are not there yet (R67). -/
def State.emptyPart (s : State) (ctx h e : Nat) (cc : CeCtx) : State :=
  s.setFab { s.fab with ctxs := Table.put s.fab.ctxs (ctxKey h e ctx) { cc with loaded := false } }

/-- One CE of a block taken: a matrix context where it holds matrix words, and its slots. -/
def State.takePart (s : State) (i ctx h p : Nat) (b : Block) (slots : Bool) (cc : CeCtx) : Option State :=
  let e := b.first + p
  let s? := if (b.partWords p).any (fun w => isMatrixOp (wordOp w)) then s.takeMatrix i h e else some s
  match s? with
  | some s => if slots then s.placePart ctx h e p b cc else some (s.emptyPart ctx h e cc)
  | none => none

/-- Units that a charge takes on one hearth: tiles, then the scratchpad allocation, then its other frames, then its join
partition. -/
def State.takeHearth (s : State) (i ctx pick : Nat) (img : Image) (h k : Nat) :
    Option (State × Nat × List Nat) :=
  match foldOpt (fun s t => s.mapTile i ctx h pick t) s (img.tiles.filter fun t => bitsOf t.toNat 7 0 == k) with
  | none => none
  | some s =>
    let n := img.allocFrames
    let used := s.usedFrames h
    match fitFrom 0 2048 n used with
    | none => none
    | some a =>
      let m := hearthFrames img.overflow (img.blocks.any fun b => b.shape == k)
        (img.mts.any fun e => bitsOf (leNat (e.take 8)) 9 2 == k)
      let taken := used ++ (List.range n).map (a + ·)
      let free := if m = 0 then [] else ((List.range 2048).filter fun f => !(taken.contains f)).take m
      if free.length < m then none
      else
        match foldOpt (fun s e => s.takeJoin i ctx h e) s (img.joins.filter fun e => bitsOf e.toNat 11 4 == k) with
        | some s => some (s, a * 4096, free)
        | none => none

/-- Every unit that a charge takes on its region, `slots` saying whether its words are placed now: the state, the
allocations and the other frames by module hearth; or the first hearth that lacks a unit. -/
def State.takeUnits (s : State) (i ctx pick : Nat) (img : Image) (region : List Nat) (slots : Bool) :
    Except Nat (State × Table Nat × Table (List Nat)) :=
  let onHearths := foldExc (fun (acc : State × Table Nat × Table (List Nat)) ((h, k) : Nat × Nat) =>
      match acc.1.takeHearth i ctx pick img h k with
      | some (s, a, fs) =>
        .ok (s, (if img.allocFrames = 0 then acc.2.1 else Table.put acc.2.1 h a), Table.put acc.2.2 h fs)
      | none => .error h)
    (s, [], []) region.zipIdx
  match onHearths with
  | .error h => .error h
  | .ok (s, alloc, frames) =>
    let onCes := foldExc (fun (s : State) ((b, n) : Block × Nat) =>
      let h := region.getD b.shape 0
      match foldOpt (fun (s : State) p => s.takePart i ctx h p b slots (CeCtx.reset i n p 0)) s (List.range b.span) with
      | some s => .ok s
      | none => .error h) s img.blocks.zipIdx
    match onCes with
    | .error h => .error h
    | .ok s => .ok (s, alloc, frames)

/-! ## Units given back -/

/-- The slots of charge `c` in a CE left to the charge that holds context `ctx` there: its successor in a splice takes them (R44, R67). -/
def State.passSlots (s : State) (c : Charge) (ctx h e : Nat) : State :=
  s.modCe h e fun y => { y with slots := y.slots.map fun (n, w) => (n, if w.ctx = c.ctx then { w with ctx := ctx } else w) }

/-- The same in every CE where the successor of charge `b` waits for its words, as `b` ends. -/
def State.passAllSlots (s : State) (b : Nat) (c : Charge) : State :=
  match c.successor.bind fun j => (s.charge? j).map fun d => (j, d) with
  | none => s
  | some (j, d) =>
    s.fab.ctxs.foldl (init := s) fun s (k, x) =>
      if x.bind = j ∧ !x.loaded ∧ (s.ctx? (k / 768) (k / 16 % 48) c.ctx).any (fun y => y.bind == b) then
        s.passSlots c d.ctx (k / 768) (k / 16 % 48)
      else s

/-- Every unit of charge `b` returned, on every hearth (R44, R196, R242, R336). -/
def State.freeUnits (s : State) (b : Nat) (c : Charge) : State :=
  let mine (q : Nat) : Bool := q == b
  let freeMx (m : MCtx) : MCtx := if m.owner = some b then MCtx.reset else m
  let here (h e : Nat) : Bool := (s.ctx? h e c.ctx).any fun x => x.bind == b
  let freeHearth (h : Nat) (x : Hearth) : Hearth :=
    if c.region.contains h then
      { x with
        shadow := if x.shadow = some b then none else x.shadow
        ces := x.ces.map fun (e, y) =>
          (e, { y with slots := y.slots.filter (fun (_, w) => w.ctx != c.ctx || !(here h e)), mx0 := freeMx y.mx0, mx1 := freeMx y.mx1 })
        tiles := x.tiles.filter fun (_, t) => !(mine t.bind && t.mapped)
        joins := x.joins.filter fun (_, j) => !(mine j.bind)
        ie := x.ie.filter fun w => !(mine w.bind)
        ags := x.ags.filter fun (k, _) => !(mine (k % 1024))
        mts := x.mts.filter fun (k, _) => !(mine (k % 1024))
        mxs := x.mxs.filter fun (k, _) => !(mine (k % 1024)) }
    else x
  let f := s.fab
  s.setFab { f with
    hearths := f.hearths.map fun (h, x) => (h, freeHearth h x)
    ctxs := f.ctxs.filter fun (_, x) => !(mine x.bind)
    pilots := f.pilots.filter fun x => !(mine x.bind)
    reqs := f.reqs.filter fun x => !(mine x.bind)
    flights := f.flights.filter fun x => !(mine x.bind)
    pending := f.pending.filter fun x => !(mine x.bind)
    waits := f.waits.filter fun x => !(mine x.bind)
    copies := f.copies.filter fun x => !(mine x.bind)
    nmcs := f.nmcs.filter fun x => !(mine x.bind)
    fetches := f.fetches.filter fun x => !(mine x.bind)
    tileReads := f.tileReads.filter fun x => !(mine x.bind)
    tclrs := f.tclrs.filter fun x => !(mine x.bind) }

/-! ## Ports of streams (R234) -/

/-- Whether every chimney word's port belongs to the stove of its hearth and runs in chimney mode. -/
def State.streamsOk (s : State) (img : Image) (region : List Nat) : Bool :=
  img.blocks.all fun b => b.words.all fun w =>
    match streamRole w with
    | none => true
    | some (n, _) =>
      match img.streams.find? fun e => (e.extractLsb' 8 8).toNat == n with
      | some e =>
        let p := (streamOf e).port
        p / 2 == stoveOf (region.getD b.shape 0) && ((s.mod.ports.getD p .reset).mode == 1) &&
          !(s.mod.flash.retired.contains (.uet p)) && !(s.mod.retiring.contains (.uet p))
      | none => true

/-! ## Bindings and parameters (R191, R331) -/

/-- The binding table of a launch. -/
def State.readBindings (s : State) (l : Launch) : Option (List (BitVec 64)) :=
  if l.bindingCount = 0 then some []
  else (s.vread l.aspace l.bindings (8 * l.bindingCount)).map fun bs =>
    (List.range l.bindingCount).map fun i => BitVec.ofNat 64 (byteField bs (8 * i) 8)

/-- The regions checked against the bindings (R191). -/
def checkBindings (img : Image) (table : Option (List (BitVec 64))) : Except Refused Unit :=
  eachOk (fun r =>
    if 2 ≤ r.space ∧ r.space ≤ 5 then
      match table.bind fun t => t[r.bind]? with
      | none => .error (outside 0x70 0xFF)
      | some a => refuseIf [(a.toNat % 256 ≠ 0, outside 0x71 0xFF)]
    else .ok ()) (img.regions.map regionOf)

/-- An entry of the parameter block. -/
structure ParamEntry where
  block : Nat
  part  : Nat
  reg   : Nat
  value : Nat
  deriving DecidableEq, Repr

/-- The parameter block of a launch; none where it cannot be read. -/
def State.readParams (s : State) (l : Launch) : Option (List ParamEntry) :=
  if l.params = 0 then some []
  else
    match s.vread l.aspace l.params 8 with
    | none => none
    | some h =>
      let n := leNat h
      (s.vread l.aspace (l.params + 8) (16 * n)).map fun bs =>
        (List.range n).map fun i =>
          { block := byteField bs (16 * i) 4, part := byteField bs (16 * i + 4) 1, reg := byteField bs (16 * i + 5) 1,
            value := byteField bs (16 * i + 8) 4 }

/-- Whether an entry names a register that its block allocates (R333, reason 6). -/
def ParamEntry.ok (p : ParamEntry) (img : Image) : Bool :=
  match img.blocks.find? fun b => b.id.toNat == p.block with
  | some b => p.part < b.span && p.reg ≤ b.paramTop
  | none => false

/-- One parameter register written. -/
def State.putParam (s : State) (h e ctx g v : Nat) : State := s.store (paramAddr h e ctx g) (leBytes 4 v)

/-- The parameter registers at load: zeros, then section 9, then the parameter block (R86, R331). -/
def State.loadParams (s : State) (img : Image) (region : List Nat) (ctx : Nat) (ps : List ParamEntry) : State :=
  let s := img.blocks.foldl (init := s) fun s b =>
    (List.range b.span).foldl (init := s) fun s p =>
      s.store (paramAddr (region.getD b.shape 0) (b.first + p) ctx 0) (List.replicate (4 * (b.paramTop + 1)) 0)
  let s := img.params.foldl (init := s) fun s v =>
    let w := v.toNat
    s.putParam (region.getD (bitsOf w 7 0) 0) (bitsOf w 15 8) ctx (bitsOf w 21 16) (bitsOf w 63 32)
  ps.foldl (init := s) fun s p =>
    match img.blocks.find? fun b => b.id.toNat == p.block with
    | some b => s.putParam (region.getD b.shape 0) (b.first + p.part) ctx p.reg p.value
    | none => s

/-! ## The charge -/

/-- Agent numbers in use: of bound charges and of their engine contexts (R276). -/
def State.agents (s : State) : List Nat :=
  (s.fab.charges.map fun (_, c) => c.agent.toNat :: c.timelines.map fun t => t.agent.toNat).flatten

/-- Consecutive free agent numbers, tried from the last ones assigned. -/
def State.newAgents (s : State) (n : Nat) : Nat :=
  match fitFrom s.fab.nextAgent 65536 n s.agents with
  | some a => a
  | none => (fitFrom 0 65536 n s.agents).getD 0

/-- A counter record idle at bind. -/
def Hearth.addChains (x : Hearth) (i k h : Nat) (img : Image) (region : List Nat) : Hearth :=
  let ags := img.ags.foldl (fun t e =>
    let p := agProg e
    if p.shape = k then Table.put t (chainKey p.ag i) ChainSt.reset else t) x.ags
  let mts := img.mts.foldl (fun t e =>
    let p := mtProg e
    if p.shape = k then Table.put t (chainKey p.mt i) ChainSt.reset else t) x.mts
  let mxs := img.pilots.foldl (fun t e =>
    if e.extractLsb' 38 2 = 2 ∧ region.getD (e.extractLsb' 30 8).toNat 0 = h then
      Table.put t (chainKey (e.extractLsb' 40 8).toNat i) ChainSt.reset else t) x.mxs
  { x with ags := ags, mts := mts, mxs := mxs }

/-- Hearth `h` given to virtual device `v` of partition `p`: its dampers on borders with other hearths open (R15, R65). -/
def Hearth.openFor (x : Hearth) (h p v : Nat) : Hearth :=
  { x with dampers := innerDampers h, owner := some p, tenant := some v }

/-! ## Tracks (R199) -/

/-- Tracks that bound charges use in switch-box direction `d`. A swapped charge uses none; a direction marked by a lasting fault has none
left (R365). -/
def State.tracksUsed (s : State) (d : Nat) : Nat :=
  if s.mod.markedDirs.contains d then tracksPerDirection
  else (s.fab.charges.flatMap fun (_, c) => if c.phase = .swapped then [] else c.paths).foldl
    (fun n (w, p) => if p.contains d then n + w else n) 0

/-- Entry triggers of a charge's blocks (R46). -/
def State.sendTriggers (s : State) (i : Nat) (c : Charge) : State :=
  c.image.blocks.zipIdx.foldl (init := s) fun s (b, n) =>
    if b.entrySlot < 128 then
      s.sendTo i c [3, i, n] { blk := n, slot := b.entrySlot, port := .L, task := b.isHndl b.entrySlot } .data 0 [0] false
    else s

/-- What the load of a launch has found. -/
structure Loaded where
  image    : Image
  region   : List Nat
  bindings : List (BitVec 64)
  params   : List ParamEntry
  deriving DecidableEq, Repr

/-- How a load ends: refused, rejected with a reason, waiting for what its region lacks, or found good. -/
inductive LoadEnd where
  | refused (r : Refused)
  | rejected (reason : Nat)
  | waits
  /-- a table of the launch cannot be read: code, stage and address of the walk's fault (R305) -/
  | stalled (x : Loaded) (fault : Nat × Bool × Nat)
  | good (x : Loaded)
  deriving DecidableEq, Repr

/-- What a load has taken before it is checked further: its image's bytes with the region they ask for (R336 steps 1 and 2), as far as
they show one. -/
inductive LoadStart where
  | unreadable
  | waits
  | on (bytes : List Byte) (region : List Nat)
  deriving DecidableEq, Repr

/-- Priority of a dispatched record over another that wants one of the same hearths (R336 step 2). -/
def Bind.before (a b : Bind) : Bool :=
  b.priority.toNat < a.priority.toNat || (a.priority == b.priority && a.order < b.order)

/-- Whether another dispatched record goes first for a hearth of the region. -/
def State.outranked (s : State) (i : Nat) (region : List Nat) : Bool :=
  s.requested.any fun (j, l) =>
    j != i && (s.bindRec j).before (s.bindRec i) &&
    (match s.regionOfLaunch l (s.bindRec j).origin.toNat with
     | some hs => hs.any region.contains
     | none => false)

/-- STEPS 1 AND 2 of R336: record `i` waits until its hearths are enabled, its context number is free on them and no other dispatched
record goes first. An image that names no region of the module has none to wait for. -/
def State.startLoad (s : State) (i : Nat) (l : Launch) : LoadStart :=
  match s.imageBytes l with
  | none => .unreadable
  | some bs =>
    match regionAt (s.bindRec i).origin.toNat (shapeOf bs) with
    | none => .on bs []
    | some region =>
      if region.any (fun h => !(s.hearthEnabled h)) || s.ctxHeld i (s.bindRec i).ctx.toNat region || s.outranked i region then
        .waits
      else .on bs region

/-- Whether the units of a valid image and its context frames can be had on its region now (R336 step 1). -/
def State.unitsFree (s : State) (i pick : Nat) (img : Image) (region : List Nat) (slots : Bool) : Bool :=
  match s.takeUnits i (s.bindRec i).ctx.toNat pick img region slots, s.takeContextFrames (framesNeeded img) with
  | .ok _, some _ => true
  | _, _ => false

/-- The walk fault that the launch's binding table or parameter block meets (R305). -/
def State.tablesStop (s : State) (l : Launch) : Option (Nat × Bool × Nat) :=
  (if l.bindingCount = 0 then none else s.readStop l.aspace l.bindings (8 * l.bindingCount)).orElse fun _ =>
    if l.params = 0 then none
    else (s.readStop l.aspace l.params 8).orElse fun _ =>
      match s.vread l.aspace l.params 8 with
      | some h => s.readStop l.aspace (l.params + 8) (16 * leNat h)
      | none => none

/-- STEP 3 of R336 over an image found valid: the bindings (R191), the streams' ports (R234), the parameter block (R331, reason 6) and
the timeline page (R228, reason 10), the reasons in the order of R333's table. A walk fault at the tables binds the charge, which then
freezes before its first firing (R305). -/
def State.checkLaunch (s : State) (l : Launch) (img : Image) (region : List Nat) : LoadEnd :=
  let table := s.readBindings l
  match s.tablesStop l, checkBindings img table with
  | some f, _ => .stalled { image := img, region := region, bindings := [], params := [] } f
  | none, .error r => .refused r
  | none, .ok () =>
    if !(s.streamsOk img region) then .refused (outside 0x63 0xFF)
    else
      match s.readParams l with
      | none => .rejected 6
      | some ps =>
        if !(ps.all fun p => p.ok img) then .rejected 6
        else if !img.timelines.isEmpty ∧ (s.stokerAddr l.aspace l.tpage false true).isNone then .rejected 10
        else .good { image := img, region := region, bindings := table.getD [], params := ps }

/-- THE LOAD'S CHECKS, in the order of R336: hearths, image (R93), units, then the launch's own tables. A region that cannot be had is
waited for. -/
def State.checkLoad (s : State) (i pick : Nat) (l : Launch) (slots : Bool) : LoadEnd :=
  match s.startLoad i l with
  | .unreadable => .refused (outside 0x01 0xFF)
  | .waits => .waits
  | .on bs region =>
    match validate bs region s.tracksUsed with
    | .error r => .refused r
    | .ok img => if region.isEmpty || !(s.unitsFree i pick img region slots) then .waits else s.checkLaunch l img region

/-- The reads of a load: the image, and where it is valid the launch's tables, checked and counted as they are made (R318, R363). -/
def State.noteLoad (s : State) (i : Nat) (l : Launch) : State :=
  if s.env.checks = [] ∧ s.env.misses = [] then s
  else
    let s := s.noteImage l
    match s.startLoad i l with
    | .on bs region => match validate bs region s.tracksUsed with
      | .ok _ => s.noteTables l
      | .error _ => s
    | _ => s

/-- The launch that a record loads: a dispatched one, or a splice successor. -/
def State.launchOf (s : State) (i : Nat) : Option Launch :=
  let r := s.bindRec i
  if r.state = 1 then r.launch.bind fun n => Table.get? s.adm.listed n
  else if r.state = 2 then Table.get? s.adm.spliced i
  else none

/-- The launch leaves the list or the splices. -/
def State.takeLaunch (s : State) (i : Nat) : State :=
  let a := s.adm
  s.setAdm { a with
    listed := match (s.bindRec i).launch with | some n => Table.erase a.listed n | none => a.listed
    spliced := Table.erase a.spliced i
    binds := Table.update a.binds i .reset fun r => { r with launch := none } }

/-- Tokens parked for a record that will not hold a charge: they are tokens for an exited charge (R69). -/
def State.dropInbox (s : State) (i : Nat) : State :=
  let l := Table.getD s.adm.inbox i []
  (l.foldl (fun s t => s.dropExited t) s).setAdm { s.adm with inbox := Table.erase s.adm.inbox i }

/-- A launch that never ran completes with a status, and its record is completed (R335, R336, R340). -/
def State.endLaunch (s : State) (i : Nat) (l : Launch) (status detail refusal : Nat) : State :=
  let s := s.writeCompletion l status detail refusal none
  let s := (s.takeLaunch i).dropInbox i
  let s := s.setFab { s.fab with charges := s.fab.charges.map fun (b, c) =>
    (b, if c.successor = some i then { c with successor := none } else c) }
  s.modBind i fun r => { r with state := 6 }

/-- The fault of a stoker walk at dispatch (R305). -/
def State.stallFault (s : State) (i : Nat) (c : Charge) (f : Nat × Bool × Nat) : State :=
  s.raiseFault i { s.faultRec i f.1 (c.region.headD 0) with
    stageW := f.2.1, shape := 0xFF, unit := 6, address := BitVec.ofNat 64 f.2.2 }

/-- The charge bound to its region: units taken, parameters loaded, extents walked, tokens delivered (R336 step 3); with `stop`, before its
launch's tables could be read. -/
def State.bindCharge (s : State) (i pick : Nat) (l : Launch) (x : Loaded) (pred : Option Nat)
    (stop : Option (Nat × Bool × Nat)) : Option State :=
  let r := s.bindRec i
  let ctx := r.ctx.toNat
  match s.takeUnits i ctx pick x.image x.region pred.isNone, s.takeContextFrames (framesNeeded x.image) with
  | .ok (t, alloc, frames), some (fs, s') =>
    let s := t.setAdm s'.adm
    let n := x.image.timelineCount
    let a := s.newAgents (n + 1)
    let part := (s.vdev l.vdev).partition.toNat
    let c : Charge :=
      { image := x.image, ctx := ctx, aspace := r.aspace.toNat, vdev := l.vdev, part := part, packet := l.packet,
        queue := l.queue, bindings := x.bindings, region := x.region
        timelines := (List.range n).map fun k =>
          { value := 0, rels := [], agent := BitVec.ofNat 16 (a + 1 + k), skipped := false }
        acks := 0, phase := .running, preempting := false, haltFrom := none, retry := [], loading := stop.isSome, faults := [], holds := 0, bubbleHolds := 0, bubbled := [],
        bubbles := [], pass := 0, repairing := false, unrepaired := false, occupancy := [], oldest := none, inbox := [], successor := none, predecessor := pred, extents := [],
        agent := BitVec.ofNat 16 a, epoch := 0, acquired := Vec.merge 64 .empty l.vec, ctxFrames := fs, listEntry := r.entry
        imageMa := (s.stokerAddr l.aspace l.image true false).getD 0
        lastActive := s.cycle, alloc := alloc, frames := frames
        paths := (allocTracks x.region s.tracksUsed x.image.tracks).getD [], packetAspace := l.aspace
        record := l.record, saved := [], savedWalks := [], savedMx := [], savedTiles := [], savedJoins := [], savedPad := []
        savedParams := [], savedChains := [] }
    let c := { c with extents := s.allExtents c }
    let s := s.setFab { s.fab with
      charges := Table.put s.fab.charges i c
      nextAgent := (a + n + 1) % 65536
      chimneys := x.image.streams.foldl (fun t e =>
        Table.put t (256 * i + (e.extractLsb' 8 8).toNat) { Chimney.reset with credit := Config.linkWindow + 1 })
        (s.fab.chimneys.filter fun (k, _) => k / 256 != i) }
    let s := x.region.zipIdx.foldl (init := s) fun s (h, k) =>
      s.modHearth h fun y => (y.addChains i k h x.image x.region).openFor h part l.vdev
    let s := (s.loadParams x.image x.region ctx x.params).takeLaunch i
    let s := s.modBind i fun r =>
      { r with state := 3, expired := false, preempt := r.preempt && !(bitOf l.flags 1) }
    let s := (s.writeFrame c).putExtents i
    let waiting := Table.getD s.adm.inbox i []
    let s := s.setAdm { s.adm with inbox := Table.erase s.adm.inbox i }
    if waiting.any fun t => t.kind == .abort then some (s.beginStop i .aborting)
    else
      let s := s.setFab { s.fab with transit := waiting ++ s.fab.transit }
      match stop with
      | some f => some (s.stallFault i c f)
      | none => some (if pred.isSome then s else s.sendTriggers i c)
  | _, _ => none

/-- Resets that have nothing left to end are done: a device without charges is active again, and so is a partition whose
devices are (R341). -/
def State.settleResets (s : State) : State :=
  let s := s.setAdm { s.adm with vdevs := s.adm.vdevs.map fun (v, x) =>
    (v, if x.state = 2 ∧ s.fab.charges.all (fun (_, c) => c.vdev != v) then { x with state := 1 } else x) }
  s.setAdm { s.adm with parts := s.adm.parts.map fun (p, x) =>
    (p, if x.state = 2 ∧ s.adm.vdevs.all (fun (_, v) => v.partition.toNat != p || v.state != 2) then { x with state := 1 }
        else x) }

/-- Whether bound charge `c` came from queue `q` of device `v`. -/
def Charge.ofQueue (c : Charge) (v q : Nat) : Bool := c.vdev == v && c.queue == q

/-- Queues that are being destroyed and of which no charge is left return to state 0 (R339). -/
def State.settleQueues (s : State) : State :=
  s.setAdm { s.adm with queues := s.adm.queues.map fun (k, x) =>
    (k, if x.state = 3 ∧ s.fab.charges.all (fun (_, c) => !(c.ofQueue (k / 256) (k % 256))) then { x with state := 0 } else x) }

/-- Charge `b` leaves the module: its units and frames are freed, and its record is completed (R336 step 4). Tokens of it
still in transit are tokens of an exited charge. -/
def State.removeCharge (s : State) (b : Nat) (c : Charge) : State :=
  let s := (((s.passAllSlots b c).endSplice b).dropHolds b).freeUnits b c
  let s := s.setFab { s.fab with
    charges := (Table.erase s.fab.charges b).map fun (j, d) =>
      (j, if d.successor = some b then { d with successor := none } else d)
    transit := s.fab.transit.map fun t => if t.bind = b then { t with bind := 1024 } else t }
  ((s.freeContextFrames (c.ctxFrames ++ c.extFrames ++ c.inboxFrames)).modBind b fun r => { r with state := 6, expired := false }).settleResets.settleQueues

/-- The launch of charge `b` completes, as a release of the charge (R68, R282, R292, R332). -/
def State.completeCharge (s : State) (b status detail : Nat) : State :=
  match s.charge? b with
  | none => s
  | some c =>
    let v := releaseVec c.agent (c.epoch + 1) c.acquired
    (s.writeCompletion c.launch status detail 0 (some v)).removeCharge b c

/-- The load of a charge that a walk fault has stopped goes on, once the charge has resumed (R305, R336 step 3). -/
def State.goOnLoading (s : State) (i : Nat) (c : Charge) : Option State :=
  let l := c.launch
  if !c.loading ∨ c.phase ≠ .running ∨ c.faults ≠ [] ∨ c.preempting then none
  else
    let s := s.noteTables l
    match s.checkLaunch l c.image c.region with
    | .waits => none
    | .stalled _ f => some (s.stallFault i c f)
    | .refused r => some ((s.writeCompletion l statusRefused 0 r.field none).removeCharge i c)
    | .rejected n => some ((s.writeCompletion l statusRejected n 0 none).removeCharge i c)
    | .good x =>
      let c := { c with bindings := x.bindings, loading := false }
      let c := { c with extents := s.allExtents c }
      let s := ((s.modCharge i fun _ => c).putExtents i).loadParams c.image c.region c.ctx x.params
      some (if c.predecessor.isSome then s else s.sendTriggers i c)

/-- Whether the module loads charges: not while it recovers (R29, R30). -/
def State.loadsCharges (s : State) : Bool := s.mod.boot != .recoveryImage && s.mod.boot != .recoveryResponder

/-- CHARGE_LOAD (R93, R336): the launch of record `i` is refused, rejected or bound; it waits while a hearth of its region
or a unit there is not free. -/
def chargeLoad (i pick : Nat) (s : State) : Option State :=
  if !s.loadsCharges then none
  else if let some c := s.charge? i then s.goOnLoading i c
  else match s.launchOf i with
  | none => none
  | some l =>
    let s := s.noteLoad i l
    let pred := (s.fab.charges.find? fun (_, c) => c.successor == some i).map (·.1)
    match s.checkLoad i pick l pred.isNone with
    | .refused r => some (s.endLaunch i l statusRefused 0 r.field)
    | .rejected n => some (s.endLaunch i l statusRejected n 0)
    | .waits => none
    | .stalled x f => s.bindCharge i pick l x pred (some f)
    | .good x => s.bindCharge i pick l x pred none

/-- CHARGE_LOAD (R93). -/
def execChargeLoad (i pick : Nat) (s : State) : Host.Outcome State Fault Refusal := finish s (chargeLoad i pick s)

/-! ## Splice successors (R67) -/

/-- Whether the predecessor has left a CE: the exit of its block there has emitted EOS and no entry of it remains. -/
def State.leftCe (s : State) (b h e : Nat) : Bool :=
  match s.charge? b with
  | none => true
  | some p =>
    match s.ctx? h e p.ctx with
    | none => true
    | some cc =>
      match p.block? cc.block with
      | none => true
      | some blk =>
        cc.entries.isEmpty && cc.ready.isEmpty &&
        (blk.exitSlot = 0xFF ||
          (match s.ctx? h (blk.first + blk.exitSlot / 32) p.ctx with
           | some x => (Table.get? x.eosOut blk.exitSlot).isSome
           | none => true))

/-- The slots of predecessor `b` in a CE left to its successor, of context `ctx`. -/
def State.unloadCe (s : State) (b ctx h e : Nat) : State :=
  match s.charge? b with
  | some p => s.passSlots p ctx h e
  | none => s

/-- SPLICE_SUCCESSOR_LOAD (R67): a CE's words of charge `bind` are loaded once its predecessor has left the CE; its waiting
entries then match, and an entry trigger there is delivered. -/
def spliceSuccessorLoad (bind hearth ce : Nat) (s : State) : Option State :=
  match s.charge? bind with
  | none => none
  | some c =>
    match s.ctx? hearth ce c.ctx with
    | none => none
    | some cc =>
      let free := match c.predecessor with | some p => s.leftCe p hearth ce | none => true
      if cc.loaded || !free || !c.runs then none
      else
        let s := match c.predecessor with | some p => s.unloadCe p c.ctx hearth ce | none => s
        match c.block? cc.block with
        | none => none
        | some b =>
          match s.placePart c.ctx hearth ce cc.part b cc with
          | none => none
          | some s =>
            let s := s.rematch hearth ce c.ctx c
            some (if b.entrySlot < 128 ∧ b.entrySlot / 32 = cc.part then
                s.sendTo bind c [3, bind, cc.block] { blk := cc.block, slot := b.entrySlot, port := .L, task := b.isHndl b.entrySlot } .data 0
                  [0] false
              else s)

/-- SPLICE_SUCCESSOR_LOAD (R67). -/
def execSpliceSuccessorLoad (bind hearth ce : Nat) (s : State) : Host.Outcome State Fault Refusal :=
  finish s (spliceSuccessorLoad bind hearth ce s)

/-! ## The end of a launch (R68, R98, R336 step 4) -/

/-- Every SINK of the charge holds EOS; a successor's words are all loaded. -/
def State.sinksDone (s : State) (b : Nat) (c : Charge) : Bool :=
  s.fab.ctxs.all fun (_, x) => x.bind != b || (x.loaded &&
    (match c.block? x.block with
     | some blk => ((blk.partWords x.part).zipIdx).all fun (w, j) =>
         wordOp w != 0x07 || (heldEos x (32 * x.part + j) .L).isSome
     | none => true))

/-- Every engine operation that the charge has started has ended (R68): streams, copies, near-memory commands, join drains
and link sends. -/
def State.enginesDone (s : State) (b : Nat) (c : Charge) : Bool :=
  (c.region.all fun h =>
    let x := s.hearth h
    let idle (l : Table ChainSt) : Bool := l.all fun (k, g) => k % 1024 != b || (!g.running && g.pending == 0)
    idle x.ags && idle x.mts && idle x.mxs && (x.joins.all fun (_, j) => j.bind != b || j.draining.isNone)) &&
  (s.fab.pilots.all fun p => p.bind != b) && (s.fab.copies.all fun x => x.bind != b) &&
  (s.fab.nmcs.all fun x => x.bind != b) &&
  (s.fab.chimneys.all fun (k, x) => k / 256 != b || x.sentNo ≤ x.ackNo)

/-- Every run that the charge has handed to a link is acknowledged; those of a port that is down will not be (R25, R98). -/
def State.sendsDone (s : State) (b : Nat) (c : Charge) : Bool :=
  s.fab.chimneys.all fun (k, x) => k / 256 != b || x.sentNo ≤ x.ackNo ||
    ((c.stream? (k % 256)).any fun e => (s.port e.port).mode == 2)

/-- Whether a stream of a charge that is being stopped does not go on: it writes and no position of it is left, since the tokens have
been discarded; or it waits for a tile that is not READY. -/
def State.streamStuck (s : State) (b : Nat) (c : Charge) (h n : Nat) (mt : Bool) (g : ChainSt) : Bool :=
  if mt then
    g.index = 0 && !g.ended && (match (c.mtAt h n).bind fun p => s.tileOf b h p.tile with
      | some t => (s.tile h t).state != tileReady
      | none => true)
  else (c.agAt h n).any fun p => p.write && g.fifo.isEmpty && g.index < p.total

/-- The same for a charge that is being stopped (R98 step 3): every store-acknowledgement count is zero, and the firings, requests and
operations that have started have ended, those streams apart that cannot go on. -/
def State.stopDone (s : State) (b : Nat) (c : Charge) : Bool :=
  c.acks == 0 && (s.fab.reqs.all fun q => q.bind != b || q.done || !q.live) &&
  (c.region.all fun h =>
    let x := s.hearth h
    let idle (mt : Bool) (l : Table ChainSt) : Bool := l.all fun (k, g) =>
      k % 1024 != b || !g.running || g.parked || s.streamStuck b c h (k / 1024) mt g
    idle false x.ags && idle true x.mts && (x.joins.all fun (_, j) => j.bind != b || (j.draining.isNone && j.begun.isEmpty))) &&
  (s.fab.copies.all fun x => x.bind != b) && (s.fab.nmcs.all fun x => x.bind != b) &&
  (s.fab.pending.all fun p => p.bind != b || !(s.pendingMet p)) && s.sendsDone b c

/-- LAUNCH_COMPLETE (R68): a running charge at its completion point without bubbles completes DONE; a stopped one completes
with its own status once nothing of it is in progress. -/
def launchComplete (bind : Nat) (s : State) : Option State :=
  match s.charge? bind with
  | none => none
  | some c =>
    match c.phase with
    | .running =>
      if c.runs && !c.repairing && c.bubbles.isEmpty && s.sinksDone bind c && c.acks == 0 && s.enginesDone bind c then
        some (s.completeCharge bind statusDone 0)
      else none
    | .halting code => if s.stopDone bind c && !(s.haltsNow c) then some (s.completeCharge bind statusHalted code) else none
    | .aborting => if s.stopDone bind c then some (s.completeCharge bind statusAborted 0) else none
    | _ => none

/-- LAUNCH_COMPLETE (R68). -/
def execLaunchComplete (bind : Nat) (s : State) : Host.Outcome State Fault Refusal := finish s (launchComplete bind s)

end Sys2Proof.Machine
end

