-- ==== Sys2Proof/Machine/Queue.lean ====
section
/-!
DEFINITION. Sys2Proof/Machine/Queue.lean: queues and their doorbells (R326 to R329, R339), launch packets accepted and held
(R330, R333), the launch list (R334), and the cancelling of launches (R340).
-/

namespace Sys2Proof.Machine

/-! ## Doorbell writes (R327) -/

/-- Whether an agent's level reaches the queues of device `v`. -/
def State.reachesQueue (s : State) (a : Agent) (v : Nat) : Bool :=
  match a with
  | .wholesaler => true
  | .reseller p => (s.vdev v).partition.toNat == p
  | .tenant w => w == v
  | .core _ => false

/-- A doorbell: tail is set in an open queue. -/
def doorbellRing (agent : Agent) (v q : Nat) (tail : BitVec 24) (s : State) : Option State :=
  if s.reachesQueue agent v && (s.queue v q).state == 1 then some (s.modQueue v q fun x => { x with tail := tail })
  else some s

/-- DOORBELL_RING (R327). -/
def execDoorbellRing (agent : Agent) (v q : Nat) (tail : BitVec 24) (s : State) : Host.Outcome State Fault Refusal :=
  finish s (doorbellRing agent v q tail s)

/-- The open queue that a descriptor describes (R326). -/
def queueOf (d : List Byte) : Queue :=
  { Queue.reset with
    state := 1, ring := BitVec.ofNat 64 (byteField d 0 8), lsize := byteField d 8 1, pcap := byteField d 9 1,
    aspace := byteField d 10 2 % 4096 }

/-- Whether a descriptor can be used by device `v` (R327). -/
def State.descriptorOk (s : State) (v : Nat) (d : List Byte) : Bool :=
  let x := queueOf d
  byteField d 12 20 == 0 && 4 ≤ x.lsize && x.lsize ≤ 16 && x.pcap ≤ 7 &&
  (s.aspace x.aspace).partition == (s.vdev v).partition && (s.vdev v).partition.toNat < 168

/-- cmd 1: an unused queue opened from its descriptor, or faulted with cause 4. -/
def queueOpen (agent : Agent) (v q : Nat) (s : State) : Option State :=
  if !(s.mayDevice agent v rightBind) || (s.queue v q).state != 0 then some s
  else
    let ma := (s.vdev v).qtable.toNat + 32 * q
    let s := s.noteReadAt ma 32 false 0xFF
    let d := s.bytesHome ma 32
    let t := s.modQueue v q fun _ => queueOf d
    if !(s.anyPoison ma 32) && s.descriptorOk v d then some t else some (t.queueFault v q 4)

/-- QUEUE_OPEN (R327). -/
def execQueueOpen (agent : Agent) (v q : Nat) (s : State) : Host.Outcome State Fault Refusal :=
  finish s (queueOpen agent v q s)

/-- cmd 3: a faulted queue open again, its head where it stood. -/
def queueClearFault (agent : Agent) (v q : Nat) (s : State) : Option State :=
  if s.mayDevice agent v rightBind && (s.queue v q).state == 2 then
    some (s.modQueue v q fun x => { x with state := 1, cause := 0 })
  else some s

/-- QUEUE_CLEAR_FAULT (R327). -/
def execQueueClearFault (agent : Agent) (v q : Nat) (s : State) : Host.Outcome State Fault Refusal :=
  finish s (queueClearFault agent v q s)

/-! ## Launches cancelled (R340) -/

/-- The record in state 1 that has dispatched listed launch `n`. -/
def State.recordOf (s : State) (n : Nat) : Option Nat :=
  (s.adm.binds.find? fun (_, r) => r.state == 1 && r.launch == some n).map (·.1)

/-- A listed launch completed CANCELLED; its record, where it has one, is completed. -/
def State.cancelListed (s : State) (n : Nat) (l : Launch) : State :=
  match s.recordOf n with
  | some i => s.endLaunch i l statusCancelled 0 0
  | none => (s.writeCompletion l statusCancelled 0 0 none).setAdm { s.adm with listed := Table.erase s.adm.listed n }

/-- Every listed, dispatched or spliced launch that `cover` names, cancelled. -/
def State.cancelLaunches (s : State) (cover : Launch → Bool) : State :=
  let s := s.adm.listed.foldl (init := s) fun s (n, l) => if cover l then s.cancelListed n l else s
  s.adm.spliced.foldl (init := s) fun s (i, l) => if cover l then s.endLaunch i l statusCancelled 0 0 else s

/-- Packets that a LAUNCH has written in the present cycle and that are not yet read: their queue's teardown takes effect
first, and they complete CANCELLED. -/
def State.cancelLaunched (s : State) (v q : Nat) : State :=
  let x := s.queue v q
  x.launched.foldl (init := s) fun s (n, d) =>
    if d.cycle = s.cycle ∧ (BitVec.ofNat 24 n - x.head).toNat < (x.tail - x.head).toNat then
      let s := s.noteRead x.aspace (x.ring.toNat + 128 * (n % 2 ^ x.lsize)) 128
      match s.vread x.aspace (x.ring.toNat + 128 * (n % 2 ^ x.lsize)) 128 with
      | some p =>
        s.writeCompletion { packet := p, vec := d.vec, vdev := v, queue := q, aspace := d.aspace, record := pktField p 0x28 8 }
          statusCancelled 0 0 none
      | none => s
    else s

/-- A queue destroyed: unread packets are discarded, packets held and launches not yet bound complete CANCELLED, and its charges,
running or swapped, are aborted (R339, R340). It is in state 3 until they have ended, and then in state 0. The ring stays known for a
packet that a LAUNCH sends in the same cycle. -/
def State.destroyQueue (s : State) (v q : Nat) : State :=
  let s := s.cancelLaunches fun l => l.vdev == v && l.queue == q
  let s := s.fab.charges.foldl (init := s) fun s (b, c) => if c.ofQueue v q then s.abortCharge b else s
  let s := (s.queue v q).held.foldl (init := s) fun s p => s.writeCompletion p.launch statusCancelled 0 0 none
  ((s.cancelLaunched v q).modQueue v q fun x =>
    { x with state := 3, cause := 0, held := [], launched := [], destroyed := some s.cycle }).settleQueues

/-- cmd 2. -/
def queueDestroy (agent : Agent) (v q : Nat) (s : State) : Option State :=
  let st := (s.queue v q).state
  if s.reachesQueue agent v && (st == 1 || st == 2) then some (s.destroyQueue v q) else some s

/-- QUEUE_DESTROY (R339). -/
def execQueueDestroy (agent : Agent) (v q : Nat) (s : State) : Host.Outcome State Fault Refusal :=
  finish s (queueDestroy agent v q s)

/-! ## Packets read (R328, R329) -/

/-- A packet read good: the queue faults where its completion record cannot be used; otherwise it is accepted, and rejected
or held (R329, R332, R333). -/
def State.acceptPacket (s : State) (v q : Nat) (p : List Byte) : State :=
  let x := s.queue v q
  let d := Table.get? x.launched x.head.toNat
  let l : Launch :=
    { packet := p, vec := (d.map (·.vec)).getD .empty, vdev := v, queue := q, aspace := (d.map (·.aspace)).getD x.aspace,
      record := pktField p 0x28 8 }
  if l.record % 64 ≠ 0 ∨ (s.stokerAddr l.aspace l.record false true).isNone then s.queueFault v q 5
  else
    let seq := s.adm.sched.seq + 1
    let s := s.setAdm { s.adm with sched := { s.adm.sched with seq := seq } }
    let s := s.modQueue v q fun x =>
      { x with head := x.head + 1, launched := Table.erase x.launched x.head.toNat }
    let bad := (packetReject l x.pcap).orElse fun _ => if l.isSplice ∧ (s.spliceTarget l).isNone then some 5 else none
    match bad with
    | some n => s.writeCompletion l statusRejected n 0 none
    | none => s.modQueue v q fun x => { x with held := x.held ++ [{ launch := l, seq := seq, met := l.waitCount == 0 }] }

/-- PACKET_READ (R328, R329): `check` is what the two reads show of the packet's check. -/
def packetRead (v q : Nat) (check : Check) (s : State) : Option State :=
  let x := s.queue v q
  if x.state ≠ 1 ∨ x.head = x.tail ∨ s.vdevHolds v rightBind = false then none
  else if 2 ^ x.lsize < (x.tail - x.head).toNat then some (s.queueFault v q 3)
  else
    let s := s.noteRead x.aspace (x.ring.toNat + 128 * (x.head.toNat % 2 ^ x.lsize)) 128
    match s.vread x.aspace (x.ring.toNat + 128 * (x.head.toNat % 2 ^ x.lsize)) 128 with
    | none => some (s.queueFault v q 2)
    | some p =>
      if check = .lasting ∨ packetCheckOk p = false then some (s.queueFault v q 1) else some (s.acceptPacket v q p)

/-- PACKET_READ (R329). -/
def execPacketRead (v q : Nat) (check : Check) (s : State) : Host.Outcome State Fault Refusal :=
  finish s (packetRead v q check s)

/-! ## Waits (R283, R292, R333) -/

/-- The machine address of a wait's word. -/
def State.waitAddr (s : State) (l : Launch) (i : Nat) : Option Nat := s.stokerAddr l.aspace (l.wait i).1 true false

/-- Whether wait `i` is met; a word that cannot be read meets nothing. -/
def State.waitMet (s : State) (l : Launch) (i : Nat) : Bool :=
  match s.waitAddr l i with
  | some ma => !(s.anyPoison ma 8) && (l.wait i).2 ≤ s.loadHome ma 8
  | none => false

/-- What an acquire of the word at `ma` brings: the completion table's entry, or the published counter's vector. A word of
neither may be a completion counter whose entry has been replaced once the table is full. -/
def State.wordVec (s : State) (ma : Nat) : Vec :=
  match (s.adm.complVecs.find? fun x => x.1 == ma).map (·.2), Table.get? s.adm.tlVecs ma with
  | some v, some w => v.merge 64 w
  | some v, none => v
  | none, some w => w
  | none, none => { Vec.empty with lossy := s.adm.complVecs.length == 256 }

/-- The launch with the vectors of its waits merged. -/
def State.acquireWaits (s : State) (l : Launch) : Launch :=
  (List.range l.waitCount).foldl (init := l) fun l i =>
    match s.waitAddr l i with
    | some ma => { l with vec := Vec.merge 64 l.vec (s.wordVec ma) }
    | none => l

/-- WAIT_REREAD (R333): the first held packet's waits are read again, and it is marked where they are met. -/
def waitReread (v q : Nat) (s : State) : Option State :=
  match (s.queue v q).held with
  | [] => none
  | p :: rest =>
    if p.met then none
    else
      let s := (List.range p.launch.waitCount).foldl (fun s i => s.noteRead p.launch.aspace (p.launch.wait i).1 8) s
      some (if (List.range p.launch.waitCount).all (s.waitMet p.launch) then
          s.modQueue v q fun x => { x with held := { p with launch := s.acquireWaits p.launch, met := true } :: rest }
        else s)

/-- WAIT_REREAD (R333). -/
def execWaitReread (v q : Nat) (s : State) : Host.Outcome State Fault Refusal := finish s (waitReread v q s)

/-! ## The launch list (R334) -/

/-- The 256 bytes of a launch-list entry. -/
def listEntry (l : Launch) (seq : BitVec 32) : List Byte :=
  l.packet ++ leBytes 2 l.vdev ++ [BitVec.ofNat 8 l.queue, 0] ++ leBytes 4 seq.toNat ++ List.replicate 120 0

/-- Entries of the launch list's ring. -/
def Sched.ring (x : Sched) : Nat := 2 ^ (x.lsize.toNat + 8)

/-- A launch appended to the list; none while the ring is full. -/
def State.appendLaunch (s : State) (l : Launch) (seq : BitVec 32) : Option State :=
  let x := s.adm.sched
  if x.ring ≤ (x.tail - x.head).toNat then none
  else
    let s := s.setAdm { s.adm with
      sched := { x with tail := x.tail + 1 }, listed := Table.put s.adm.listed seq.toNat l }
    some (s.stokerStore (x.base.toNat * 4096 + 256 * (x.tail.toNat % x.ring)) (listEntry l seq))

/-- A splice packet registered, or rejected with reason 5. -/
def State.splicePacket (s : State) (l : Launch) : State :=
  match s.spliceTarget l with
  | none => s.writeCompletion l statusRejected 5 0 none
  | some b =>
    let (n, t) := s.registerSplice b l
    if n = 0 then t else s.writeCompletion l statusRejected 5 0 none

/-- LAUNCH_LIST_APPEND (R334): the first held packet, its waits met, is listed or registered. -/
def launchListAppend (v q : Nat) (s : State) : Option State :=
  match (s.queue v q).held with
  | [] => none
  | p :: rest =>
    if !p.met then none
    else
      let s := s.modQueue v q fun x => { x with held := rest }
      if p.launch.isSplice then some (s.splicePacket p.launch) else s.appendLaunch p.launch p.seq

/-- LAUNCH_LIST_APPEND (R334). -/
def execLaunchListAppend (v q : Nat) (s : State) : Host.Outcome State Fault Refusal := finish s (launchListAppend v q s)

end Sys2Proof.Machine
end

