-- ==== Sys2Proof/Machine/System.lean ====
section
/-!
DEFINITION. Sys2Proof/Machine/System.lean: the system instructions (R97 to R103).
-/

namespace Sys2Proof.Machine

/-! ## TRAP and HALT (R97, R98) -/

/-- The positions of a firing whose predicate is 1 and that are not BUBBLE (R97). -/
def liveStop (w : WordS) (F : Fire) : List Opnd :=
  (operandsOf F).filter fun o => o.l.isSome && (w.arity ≠ 3 || o.p.isSome) && o.pred w.arity.toNat w.inv

/-- TRAP: the charge freezes with a program-trap fault that carries the trap record. -/
def trapFiring (w : WordS) (s : State) : Option State :=
  match startFiring s with
  | none => none
  | some (F, s) =>
    match (liveStop w F).head? with
    | none => some s
    | some o =>
      some (s.fireFault F 0x15 F.tag0
        [F.blk.id.toNat, F.slot, F.tag0.toNat, F.f.pos.length, w.code.toNat, (o.l.getD 0).toNat])

/-- TRAP (R97). -/
def execTrap (w : WordS) (s : State) : Host.Outcome State Fault Refusal := finish s (trapFiring w s)

/-- HALT: the stoker stops the charge and discards its tokens; the launch then ends HALTED (LAUNCH_COMPLETE). -/
def haltFiring (w : WordS) (s : State) : Option State :=
  match startFiring s with
  | none => none
  | some (F, s) =>
    if (liveStop w F).isEmpty then some s
    else
      match F.ch.haltFrom with
      | some (cy, h, e) =>
        if cy = s.cycle ∧ (F.hearth < h ∨ (F.hearth = h ∧ F.ce < e)) then
          some (s.modCharge F.cc.bind fun c =>
            { c with phase := .halting w.code.toNat, haltFrom := some (s.cycle, F.hearth, F.ce) })
        else some s
      | none =>
        some ((s.beginStop F.cc.bind (.halting w.code.toNat)).modCharge F.cc.bind fun c =>
          { c with haltFrom := some (s.cycle, F.hearth, F.ce) })

/-- HALT (R98). -/
def execHalt (w : WordS) (s : State) : Host.Outcome State Fault Refusal := finish s (haltFiring w s)

/-! ## YIELD (R99) -/

/-- Whether a dispatched record waits for one of a charge's hearths. -/
def State.wanted (s : State) (c : Charge) : Bool :=
  s.requested.any fun (b, l) =>
    match s.regionOfLaunch l (s.bindRec b).origin.toNat with
    | some hs => hs.any c.region.contains
    | none => false

/-- YIELD: the L run goes on unchanged; the quantum is marked expired, and the mark stands only while a record waits for
the charge's hearths. A second consumer gets nothing (DESIGN CHOICE, assumption entry 104). -/
def yieldFiring (w : WordS) (s : State) : Option State :=
  match startFiring s with
  | none => none
  | some (F, s) =>
    let s := s.emitKind F 0 w.cons1 F.f.kind w.fmt.maxRun F.runL
    some (s.modBind F.cc.bind fun r => { r with expired := s.wanted F.ch })

/-- YIELD (R99). -/
def execYield (w : WordS) (s : State) : Host.Outcome State Fault Refusal := finish s (yieldFiring w s)

/-! ## SPLICE and LAUNCH (R100, R101) -/

/-- What reading a packet of 128 bytes from a region gives. -/
inductive PacketRead where
  /-- the page waits on a shootdown -/
  | waits
  | fault (r : FaultRec)
  /-- the offset is no multiple of 128 or lies beyond the region -/
  | misplaced
  | bytes (l : List Byte)
  deriving DecidableEq, Repr

/-- The packet at byte offset `off` of a word's region. -/
def State.packetAt (s : State) (F : Fire) (region off : Nat) : PacketRead :=
  match F.ch.region? region with
  | none => .misplaced
  | some r =>
    if off % 128 ≠ 0 ∨ r.length < off + 128 then .misplaced
    else
      let rec_ (code : Nat) (stageW : Bool) (addr : Nat) : FaultRec :=
        { s.faultRec F.cc.bind code F.hearth with
          stageW := stageW, tag := faultTag F.ctx F.tag0, address := BitVec.ofNat 64 addr, block := F.blk.id, slot := F.slot,
          ce := F.ce, unit := 6 }
      match s.place F.ch F.hearth r (r.base + off) true false with
      | .error e => .fault { rec_ e.code e.stageW e.addr with remote := e.remote }
      | .ok .waits => .waits
      | .ok (.mem ma _) => if s.anyPoison (s.readAt ma) 128 then .fault (rec_ 8 false (s.readAt ma)) else .bytes (s.bytesHome ma 128)
      | .ok (.pad _ ma) => if s.anyPoison ma 128 then .fault (rec_ 8 false ma) else .bytes (s.bytesHome ma 128)
      | .ok _ => .misplaced

/-- The read of that packet, checked and counted (R318, R363). -/
def State.notePacket (s : State) (F : Fire) (region off : Nat) : State :=
  match F.ch.region? region with
  | none => s
  | some r =>
    if off % 128 ≠ 0 ∨ r.length < off + 128 then s
    else match s.place F.ch F.hearth r (r.base + off) true false with
      | .ok (.mem ma x) => s.noteReadAt ma 128 (x.ember && !x.xs) F.ch.part
      | .ok (.pad _ ma) => s.checkBeats ma 128
      | _ => s

/-- The launch that a charge makes with a packet: its addresses are of the charge's address space (R330). -/
def Fire.launchOf (F : Fire) (p : List Byte) (v : Vec) : Launch :=
  { packet := p, vec := v, vdev := F.ch.vdev, queue := F.ch.queue, aspace := F.ch.aspace, record := pktField p 0x28 8 }

/-- A word that reads a packet at position 0's offset and answers a status. A request that faults is parked: the firing
stands ready again, and the charge freezes (R354). SPLICE and LAUNCH send a second consumer nothing (DESIGN CHOICE, assumption entry
104). -/
def packetFiring (region : Nat) (c1 : Consumer) (act : Fire → List Byte → State → Nat × State) (misplaced : Nat)
    (s : State) : Option State :=
  match startFiring s with
  | none => none
  | some (F, t) =>
    match F.f.pos.head?.bind (·.l) with
    | none => some (t.emitOne F 0 c1 F.tag0 none)
    | some v =>
      let off := v.toNat % 2 ^ 64
      let t := t.notePacket F region off
      let answer (n : Nat) (t : State) : State := t.emitOne F 0 c1 F.tag0 (some (BitVec.ofNat 128 n))
      match t.packetAt F region off with
      | .waits => none
      | .fault r => some ((s.notePacket F region off).raiseFault F.cc.bind r)
      | .misplaced => some (answer misplaced t)
      | .bytes p =>
        let (n, t) := act F p t
        some (answer n t)

/-- SPLICE: a packet registered as the charge's successor; a mismatching packet is not. -/
def spliceAct (F : Fire) (p : List Byte) (s : State) : Nat × State :=
  if (s.charge? F.cc.bind).any (fun c => c.successor.isSome) then (1, s)
  else if !(packetCheckOk p) then (2, s)
  else s.registerSplice F.cc.bind (F.launchOf p .empty)

/-- SPLICE (R100). -/
def execSplice (w : WordS) (s : State) : Host.Outcome State Fault Refusal :=
  finish s (packetFiring w.region.toNat w.cons1 spliceAct 4 s)

/-- A packet sent into a queue that was destroyed in the same cycle: it takes the queue's next entry and completes CANCELLED
(R340). -/
def State.launchGone (s : State) (queue : Nat) (F : Fire) (p : List Byte) : State :=
  let v := F.ch.vdev
  let q := s.queue v queue
  let (vec, s) := s.chargeRelease F.cc.bind
  let s := match s.stokerAddr q.aspace (q.ring.toNat + 128 * (q.tail.toNat % 2 ^ q.lsize)) false true with
    | some ma => s.stokerStoreVia q.aspace (q.ring.toNat + 128 * (q.tail.toNat % 2 ^ q.lsize)) ma p
    | none => s
  (s.modQueue v queue fun q => { q with tail := q.tail + 1 }).writeCompletion (F.launchOf p vec) statusCancelled 0 0 none

/-- LAUNCH: the packet copied into the next entry of the queue, and its doorbell rung as a release of the charge. A ring
that cannot be written is a queue that the tenant does not hold. A launch in the cycle of the queue's destroy is cancelled
(R340). -/
def launchAct (queue : Nat) (F : Fire) (p : List Byte) (s : State) : Nat × State :=
  let v := F.ch.vdev
  let q := s.queue v queue
  if (q.state = 0 ∨ q.state = 3) ∧ q.destroyed = some s.cycle then (0, s.launchGone queue F p)
  else if q.state ≠ 1 then (2, s)
  else if 2 ^ q.lsize ≤ (q.tail - q.head).toNat then (1, s)
  else
    match s.stokerAddr q.aspace (q.ring.toNat + 128 * (q.tail.toNat % 2 ^ q.lsize)) false true with
    | none => (2, s)
    | some ma =>
      let (vec, s) := s.chargeRelease F.cc.bind
      let d : DevPacket := { vec := vec, aspace := F.ch.aspace, cycle := s.cycle }
      (0, (s.stokerStoreVia q.aspace (q.ring.toNat + 128 * (q.tail.toNat % 2 ^ q.lsize)) ma p).modQueue v queue fun q =>
        { q with tail := q.tail + 1, launched := Table.put q.launched q.tail.toNat d })

/-- LAUNCH (R101). -/
def execLaunch (w : WordS) (s : State) : Host.Outcome State Fault Refusal :=
  finish s (packetFiring w.region.toNat w.cons1 (launchAct w.queue.toNat) 3 s)

/-! ## RDCTL (R102) -/

/-- edge_mask of a stove (R19): which of logical indices 0 and 1 an enabled hearth holds. -/
def State.edgeMask (s : State) (n : Nat) : Nat :=
  let held (i : Nat) : Bool := match physicalOf (s.stove n).hearthMap i with
    | some p => (s.stove n).hearthEnable.getLsbD p
    | none => false
  boolNat (held 0) + 2 * boolNat (held 1)

/-- The stove fields of selectors 4 to 9. -/
def State.stoveField (s : State) (sel n : Nat) : Nat :=
  let x := s.stove n
  match sel with
  | 4 => x.stoveBudget.toNat
  | 5 => x.stackBudget.toNat
  | 6 => x.ratePoint.toNat
  | 7 => x.stackState.toNat
  | 8 => boolNat x.spareUsed * 2 ^ 15 + x.hearthEnable.toNat
  | _ => s.edgeMask n

/-- The value of the completion counter that a launch names (selector 10), free where its record cannot be read. -/
def State.completionCount (s : State) (l : Launch) : Nat × State :=
  match s.stokerAddr l.aspace l.record true false with
  | some ma => let s := s.noteRead l.aspace l.record 8; (s.loadHome ma 8, s)
  | none => let (v, s) := s.free; (v.toNat % 2 ^ 64, s)

/-- The result of a selector with argument `x`. -/
def State.rdctl (s : State) (F : Fire) (sel x : Nat) : Nat × State :=
  match sel with
  | 0 => (F.hearth, s)
  | 1 => (F.ctx, s)
  | 2 => (s.mod.number.toNat, s)
  | 3 => (s.cycle % 2 ^ 64, s)
  | 10 => s.completionCount F.ch.launch
  | _ =>
    if x < 12 ∧ s.fab.hearths.any (fun (h, y) => stoveOf h == x && y.owner == some F.ch.part) then (s.stoveField sel x, s)
    else (2 ^ 32 - 1, s)

/-- RDCTL for each position of a firing. -/
def rdctlPositions (F : Fire) (sel : Nat) : List FPos → State → List Emit × State
  | [], s => ([], s)
  | q :: rest, s =>
    match q.l with
    | none =>
      let (l, s) := rdctlPositions F sel rest s
      ({ iter := q.iter, val := none } :: l, s)
    | some v =>
      let (n, s) := s.rdctl F sel (v.toNat % 2 ^ 32)
      let (l, s) := rdctlPositions F sel rest s
      ({ iter := q.iter, val := some (BitVec.ofNat 128 n) } :: l, s)

/-- RDCTL: one result for each position, to both consumers where two are named (DESIGN CHOICE, assumption entry 104). -/
def rdctlFiring (w : WordS) (s : State) : Option State :=
  match startFiring s with
  | none => none
  | some (F, s) =>
    let (l, s) := rdctlPositions F w.code.toNat F.f.pos s
    some (s.emitBoth F w.cons1 w.cons2 w.fmt.maxRun l)

/-- RDCTL (R102). -/
def execRdctl (w : WordS) (s : State) : Host.Outcome State Fault Refusal := finish s (rdctlFiring w s)

/-! ## CKSUM (R103) -/

/-- CKSUM: the check of R77 over the elements' bytes; a BUBBLE position makes it BUBBLE. A second consumer gets
a copy (DESIGN CHOICE, assumption entry 104). -/
def cksumFiring (w : WordS) (s : State) : Option State :=
  match startFiring s with
  | none => none
  | some (F, s) =>
    let l := F.f.pos.map (·.l)
    let n := max 1 (w.fmt.bits / 8)
    let r := if l.any Option.isNone then none
      else some (BitVec.ofNat 128 (crc16 (l.map fun v => leBytes n (v.getD 0).toNat).flatten))
    some (s.emitBoth F w.cons1 w.cons2 1 [{ iter := F.tag0, val := r }])

/-- CKSUM (R103). -/
def execCksum (w : WordS) (s : State) : Host.Outcome State Fault Refusal := finish s (cksumFiring w s)

end Sys2Proof.Machine
end

