-- ==== Sys2Proof/Machine/Bind.lean ====
section
/-!
DEFINITION. Sys2Proof/Machine/Bind.lean: the slot table's commands (R335, R336), pre-emption by command, by quantum and by
the stoker (R337), and teardown of a record (R340).
-/

namespace Sys2Proof.Machine

/-- Whether a hart writes the slot table (R335). -/
def writesSlots (a : Agent) : Bool := a == .core 20 || a == .core 21

/-- The fields that a record's 32-byte store writes. -/
def Bind.stored (r : Bind) (w : BitVec 256) : Bind :=
  { r with
    entry := w.extractLsb' 192 64, aspace := w.extractLsb' 180 12, vdev := w.extractLsb' 170 10,
    origin := w.extractLsb' 162 8, ctx := w.extractLsb' 158 4, share := w.extractLsb' 150 8,
    quantum := w.extractLsb' 126 24, priority := w.extractLsb' 123 3, preempt := w.getLsbD 122 }

/-- A record stored over record `i`; the packet of its charge may forbid pre-emption (R337). -/
def State.storedBind (s : State) (i : Nat) (w : BitVec 256) : Bind :=
  let r := (s.bindRec i).stored w
  match s.charge? i with
  | some c => { r with preempt := r.preempt && !(bitOf c.launch.flags 1) }
  | none => r

def State.putBind (s : State) (i : Nat) (r : Bind) : State := s.modBind i fun _ => r

/-! ## Dispatch -/

/-- Whether R300 refuses an address space at dispatch. -/
def State.aspaceRefused (s : State) (n : Nat) : Bool :=
  let a := s.aspace n
  !a.enable || a.partition == 0xFF || a.wRoot != s.partRoot a.partition

/-- Reasons 7 to 9 for a dispatched record (R333, R335). -/
def State.dispatchReject (s : State) (i : Nat) (l : Launch) : Option Nat :=
  let r := s.bindRec i
  if r.share = 0 then some 7
  else if s.ctxHeld i r.ctx.toNat ((s.regionOfLaunch l r.origin.toNat).getD []) then some 8
  else if s.aspaceRefused r.aspace.toNat then some 9
  else none

/-- Acceptance number in the launch-list entry that a record names (R334). -/
def State.entrySeq (s : State) (entry : Nat) : Nat := leNat (s.bytesHome (entry + 132) 4)

/-- cmd 1: the listed launch of the entry is requested, or rejected. An entry whose launch is not listed, or has a record
already, is not dispatched. -/
def bindDispatch (agent : Agent) (i : Nat) (w : BitVec 256) (s : State) : Option State :=
  if !(writesSlots agent) then some s.countWindow
  else if (s.bindRec i).state ≠ 0 ∧ (s.bindRec i).state ≠ 6 then some s
  else
    let r := s.storedBind i w
    let n := s.entrySeq r.entry.toNat
    match Table.get? s.adm.listed n, s.recordOf n with
    | some l, none =>
      let (o, s) := ((s.noteReadAt (r.entry.toNat + 132) 4 false 0xFF).noteImage l).newStamp
      let s := s.putBind i { r with state := 1, expired := false, order := o, since := s.cycle, launch := some n }
      (match s.dispatchReject i l with
       | some k => some (s.endLaunch i l statusRejected k 0)
       | none => some s)
    | _, _ => some s

/-- BIND_DISPATCH (R336). -/
def execBindDispatch (agent : Agent) (i : Nat) (record : BitVec 256) (s : State) : Host.Outcome State Fault Refusal :=
  finish s (bindDispatch agent i record s)

/-! ## Pre-emption (R337) -/

/-- A charge to be pre-empted: it freezes, and is swapped out once frozen. A charge that ends is not pre-empted. -/
def State.startSwap (s : State) (i : Nat) : State :=
  s.modCharge i fun c =>
    match c.phase with
    | .running | .freezing | .frozen => { c with preempting := true }
    | _ => c

/-- cmd 2. -/
def bindPreempt (agent : Agent) (i : Nat) (w : BitVec 256) (s : State) : Option State :=
  let r := s.storedBind i w
  if !(writesSlots agent) then some s.countWindow
  else if ((s.bindRec i).state == 3 || (s.bindRec i).state == 4) && r.preempt then some ((s.putBind i r).startSwap i)
  else some s

/-- BIND_PREEMPT (R337). -/
def execBindPreempt (agent : Agent) (i : Nat) (record : BitVec 256) (s : State) : Host.Outcome State Fault Refusal :=
  finish s (bindPreempt agent i record s)

/-- QUANTUM_EXPIRE (R337): quantum µs since the record's last dispatch or resume. -/
def quantumExpire (bind : Nat) (s : State) : Option State :=
  let r := s.bindRec bind
  match s.charge? bind with
  | some _ =>
    if r.state = 3 ∧ r.quantum ≠ 0 ∧ r.expired = false ∧ r.since + r.quantum.toNat * cyclesPerUs ≤ s.cycle then
      some (s.modBind bind fun r => { r with expired := true })
    else none
  | none => none

/-- QUANTUM_EXPIRE (R337). -/
def execQuantumExpire (bind : Nat) (s : State) : Host.Outcome State Fault Refusal := finish s (quantumExpire bind s)

/-- SELF_PREEMPT (R337): an expired record that may be pre-empted, when a requested record wants one of its hearths. -/
def selfPreempt (bind : Nat) (s : State) : Option State :=
  let r := s.bindRec bind
  match s.charge? bind with
  | some c => if r.state = 3 ∧ r.preempt ∧ r.expired ∧ c.preempting = false ∧ s.wanted c then some (s.startSwap bind) else none
  | none => none

/-- SELF_PREEMPT (R337). -/
def execSelfPreempt (bind : Nat) (s : State) : Host.Outcome State Fault Refusal := finish s (selfPreempt bind s)

/-! ## Teardown (R340) -/

/-- The launch of record `i` cancelled or its charge aborted, by the record's state. -/
def State.teardown (s : State) (i : Nat) : State :=
  match s.launchOf i with
  | some l => s.endLaunch i l statusCancelled 0 0
  | none => if (s.charge? i).isSome then s.abortCharge i else s

/-- cmd 4. -/
def bindTeardown (agent : Agent) (i : Nat) (w : BitVec 256) (s : State) : Option State :=
  let st := (s.bindRec i).state.toNat
  if !(writesSlots agent) then some s.countWindow
  else if 1 ≤ st ∧ st ≤ 5 then some ((s.putBind i (s.storedBind i w)).teardown i)
  else some s

/-- BIND_TEARDOWN (R340). -/
def execBindTeardown (agent : Agent) (i : Nat) (record : BitVec 256) (s : State) : Host.Outcome State Fault Refusal :=
  finish s (bindTeardown agent i record s)

/-- A store with cmd 0: the fields are written, and a completed record is freed (R336). -/
def State.storeBind (s : State) (i : Nat) (w : BitVec 256) : State :=
  let r := s.storedBind i w
  s.putBind i (if r.state = 6 then { r with state := 0, expired := false, launch := none } else r)

end Sys2Proof.Machine
end

