-- ==== Sys2Proof/Machine/Swap.lean ====
section
/-!
DEFINITION. Sys2Proof/Machine/Swap.lean: a frozen charge swapped out to shadow storage and to its context frame (R368 to
R370), and its restore (R357, R371).
-/

namespace Sys2Proof.Machine

/-! ## Swapping out (R369, R370) -/

/-- The region's hearths with their shape indices. -/
def Charge.places (c : Charge) : List (Nat × Nat) := c.region.zipIdx

/-- CEs that hold a part of a charge's blocks: hearth, shape index and CE. -/
def Charge.ces (c : Charge) : List (Nat × Nat × Nat) :=
  (c.image.blocks.map fun b =>
    (List.range b.span).map fun p => (c.region.getD b.shape 0, b.shape, b.first + p)).flatten

/-- The charge with everything of it that shadow storage takes. -/
def State.saveCharge (s : State) (i : Nat) (c : Charge) : Charge :=
  let mine (m : MCtx) : Bool := m.owner == some i
  { c with
    saved := s.fab.ctxs.filterMap fun (k, x) => if x.bind = i then some (c.shapeOf (k / 768), k / 16 % 48, x) else none
    savedWalks := (c.places.map fun (h, k) => ((s.hearth h).ie.filter fun w => w.bind == i).map fun w => (k, w)).flatten
    savedMx := (c.places.map fun (h, k) =>
      ((s.hearth h).ces.map fun (e, y) => ([y.mx0, y.mx1].filter mine).map fun m => (k, e, m)).flatten).flatten
    savedJoins := (c.places.map fun (h, k) =>
      ((s.hearth h).joins.filter fun (_, j) => j.bind == i).map fun (_, j) =>
        (k, j, (s.touchedSlots h j).map fun n => (n, s.bytes (jafAddr h n) 64))).flatten
    savedParams := c.ces.map fun (h, k, e) => (k, e, s.bytes (paramAddr h e c.ctx 0) 256)
    savedChains := c.places.map fun (h, k) =>
      let own (t : Table ChainSt) : Table ChainSt := t.filter fun (n, _) => n % 1024 == i
      (k, own (s.hearth h).ags, own (s.hearth h).mts, own (s.hearth h).mxs) }

/-- The slots, store entries and units of a saved charge freed; its tiles and its scratchpad stay until they are written. -/
def State.freeSaved (s : State) (i : Nat) (c : Charge) : State :=
  let freeMx (m : MCtx) : MCtx := if m.owner = some i then MCtx.reset else m
  let other (t : Table ChainSt) : Table ChainSt := t.filter fun (n, _) => n % 1024 != i
  let one (h : Nat) (x : Hearth) : Hearth :=
    if c.region.contains h then
      { x with
        shadow := some i
        ces := x.ces.map fun (e, y) =>
          (e, { y with slots := y.slots.filter (fun (_, w) => w.ctx != c.ctx), mx0 := freeMx y.mx0, mx1 := freeMx y.mx1 })
        joins := x.joins.filter fun (_, j) => j.bind != i
        ie := x.ie.filter fun w => w.bind != i
        ags := other x.ags
        mts := other x.mts
        mxs := other x.mxs }
    else x
  s.setFab { s.fab with
    hearths := s.fab.hearths.map fun (h, x) => (h, one h x)
    ctxs := s.fab.ctxs.filter fun (_, x) => x.bind != i
    transit := s.fab.transit.filter fun t => t.bind != i }

/-- A splice that charge `i` takes part in ends: each of the two goes on alone (R67). -/
def State.partSplice (s : State) (i : Nat) : State :=
  let s := s.endSplice i
  s.setFab { s.fab with charges := s.fab.charges.map fun (b, c) =>
    (b, if b = i then { c with predecessor := none } else if c.successor = some i then { c with successor := none } else c) }

/-- SHADOW_SWAP (R370 step 1): enabled once the charge is frozen to be pre-empted and every shadow storage of its region is
free. Tokens at its hearths' borders join its inbox. -/
def shadowSwap (i : Nat) (s : State) : Option State :=
  match s.charge? i with
  | none => none
  | some c =>
    if c.phase ≠ .frozen ∨ c.preempting = false ∨ c.region.any (fun h => (s.hearth h).shadow.isSome) then none
    else
      let s := s.partSplice i
      let c := s.saveCharge i { c with successor := none, predecessor := none }
      let inbox := (s.fab.transit.filter fun t => t.bind == i).map fun t => { t with parked := false }
      let s := s.freeSaved i c
      some ((s.modCharge i fun _ => { c with phase := .swapping }).addInbox i inbox)

/-- SHADOW_SWAP (R370). -/
def execShadowSwap (i : Nat) (s : State) : Host.Outcome State Fault Refusal := finish s (shadowSwap i s)

/-- The tiles and scratchpad of a charge, as they are written to its frame (R197, R370 step 3). -/
def State.saveTiles (s : State) (i : Nat) (c : Charge) : Charge :=
  { c with
    savedTiles := (c.places.map fun (h, k) =>
      ((s.hearth h).tiles.filter fun (_, x) => x.mapped && x.bind == i).map fun (t, x) =>
        (k, x, s.bytes (tileAddr h t x 0) 4096, s.poisonIn (tileAddr h t x 0) 4096)).flatten
    savedPad := c.places.filterMap fun (h, k) =>
      (Table.get? c.alloc h).map fun a =>
        (k, s.bytes (padAddr h a) (c.image.allocFrames * 4096), s.poisonIn (padAddr h a) (c.image.allocFrames * 4096)) }

/-- The bytes of the record of shape hearth `k`, as far as the spec gives their form: instruction slots, parameter registers, tiles
and scratchpad (R369). What else the record holds stays with the charge (assumption entry 60). -/
def Charge.recordBytes (c : Charge) (k : Nat) : List Byte :=
  ((c.image.blocks.filter fun b => b.shape == k).flatMap fun b => b.words.flatMap fun w => leBytes 8 w.toNat) ++
  ((c.savedParams.filter fun x => x.1 == k).flatMap fun x => x.2.2) ++
  ((c.savedTiles.filter fun x => x.1 == k).flatMap fun x => x.2.2.1) ++
  ((c.savedPad.filter fun x => x.1 == k).flatMap fun x => x.2.1)

/-- Every hearth's record written to the frame. -/
def State.writeRecords (s : State) (c : Charge) : State :=
  (List.range c.image.shape.length).foldl (fun s k => s.putFrame c (c.image.recordAt k) (c.recordBytes k)) s

/-- Beats marked poisoned again where a swap found them so (R42). -/
def State.markAll (s : State) (ma : Nat) (l : List Nat) : State := l.foldl (fun s o => s.markPoison (ma + o)) s

/-- CONTEXT_FRAME_WRITE_DONE (R370 steps 2 and 3): the frame is written; shadow storage, tiles and scratchpad are free. -/
def contextFrameWriteDone (i : Nat) (s : State) : Option State :=
  match s.charge? i with
  | none => none
  | some c =>
    if c.phase ≠ .swapping then none
    else
      let c := s.saveTiles i c
      let s := (s.writeFrame c).writeRecords c
      let s := s.setFab { s.fab with hearths := s.fab.hearths.map fun (h, x) =>
        (h, if c.region.contains h then
              { x with shadow := none, tiles := x.tiles.filter fun (_, t) => !(t.mapped && t.bind == i) }
            else x) }
      let s := s.modCharge i fun _ => { c with phase := .swapped, preempting := false, alloc := [], frames := [] }
      some (s.modBind i fun r => { r with state := 5, entry := BitVec.ofNat 64 c.frameMa })

/-- CONTEXT_FRAME_WRITE_DONE (R370). -/
def execContextFrameWriteDone (i : Nat) (s : State) : Host.Outcome State Fault Refusal :=
  finish s (contextFrameWriteDone i s)

/-! ## Restore (R371) -/

/-- A saved context placed on its CE: entries in stamp order, by R60. -/
def State.restoreCtx (s : State) (c : Charge) (region : List Nat) (x : Nat × Nat × CeCtx) : Except Nat State :=
  let (k, e, y) := x
  let h := region.getD k 0
  match s.ctx? h e c.ctx with
  | none => .error h
  | some new =>
    match s.placeAll h e c.ctx c.image.overflow [] (y.entries.foldr insertStamp []) with
    | none => .error h
    | some l =>
      let s := s.modCtx h e c.ctx fun _ => { y with base := new.base, entries := l }
      if y.loaded then .ok s
      else .ok (s.modCe h e fun z => { z with slots := z.slots.filter fun (_, w) => w.ctx != c.ctx })

/-- A saved matrix context placed in the one that the charge has taken on its CE. -/
def State.restoreMx (s : State) (i : Nat) (region : List Nat) (x : Nat × Nat × MCtx) : State :=
  let (k, e, m) := x
  s.modCe (region.getD k 0) e fun y =>
    if y.mx0.owner = some i then { y with mx0 := m } else if y.mx1.owner = some i then { y with mx1 := m } else y

/-- Occupied slots put back by the probe of R260, in ascending slot order; those that find the partition full. -/
def State.reinsert (s : State) (h : Nat) (j : Join) : List JSlot → State × List JSlot
  | [] => (s, [])
  | x :: xs =>
    match (s.probe h j x.key).1 with
    | .empty n | .hit n _ => (s.putSlot h n x).reinsert h j xs
    | .full =>
      let (s, l) := s.reinsert h j xs
      (s, x :: l)

/-- Policy of the block whose words use the JU on a hearth. -/
def Charge.joinPolicy (c : Charge) (k : Nat) : Policy :=
  match c.image.blocks.find? fun b => b.shape == k && b.words.any fun w => 0xB0 ≤ wordOp w && wordOp w ≤ 0xB9 with
  | some b => c.policyOf b
  | none => Machine.policyOf 0

/-- A saved join partition placed in the one that the charge has taken. -/
def State.restoreJoin (s : State) (i : Nat) (c : Charge) (region : List Nat) (x : Nat × Join × List (Nat × List Byte)) :
    Except Nat State :=
  let (k, j, slots) := x
  let h := region.getD k 0
  match s.join? h c.ctx with
  | none => .error h
  | some new =>
    let j' := { j with abase := new.abase }
    let s := (s.clearSlots h j').modJoin h c.ctx fun _ => j'
    if (s.hearth h).banksOff = 0 then
      .ok (slots.foldl (fun s (n, bs) => s.store (jafAddr h (n - j.abase + j'.abase)) bs) s)
    else
      let occ (bs : List Byte) : Option JSlot :=
        if (bs.getD 19 0).getLsbD 7 then
          some { key := byteField bs 0 8, value := byteField bs 8 (if j.wide then 8 else 4), adds := byteField bs 16 2 }
        else none
      let (s, left) := s.reinsert h j' (slots.filterMap fun (_, bs) => occ bs)
      if left.isEmpty then .ok s
      else
        match c.region? j.ash with
        | none => .error h
        | some r =>
          let ash : Ash := { b := i, c := { c with region := region }, h := h, r := r, a := c.actor c.epoch, cycle := s.cycle, restore := true }
          match ash.append (c.joinPolicy k) j' false (sortKeys (left.map fun y => (y.key, y.value))) { s := s, left := [], memo := [] } with
          | .ok ((), y) => .ok (y.s.modJoin h c.ctx fun j => { j with memo := [] })
          | .error _ => .error h

/-- A saved tile placed in the entry that the charge has taken for it, with busy 0 (R197). -/
def State.restoreTile (s : State) (i : Nat) (region : List Nat) (x : Nat × TileEntry × List Byte × List Nat) : Except Nat State :=
  let (k, y, bs, bad) := x
  let h := region.getD k 0
  match s.tileOf i h y.tile with
  | none => .error h
  | some t =>
    let new := { y with frame := (s.tile h t).frame, busy := 0 }
    .ok (((s.modTile h t fun _ => new).store (tileAddr h t new 0) bs).markAll (tileAddr h t new 0) bad)

/-- The reads in progress that restored MT programs make: a program that stands within its tile counts as one, from its first element to
its stream's end (R195, R202). -/
def State.recountReads (s : State) (i : Nat) (c : Charge) (h : Nat) (mts : Table ChainSt) : State :=
  mts.foldl (init := s) fun s (k, g) =>
    if g.running ∧ !g.ended ∧ g.index ≠ 0 then
      match (c.mtAt h (k / 1024)).bind fun p => s.tileOf i h p.tile with
      | some t => s.modTile h t fun x => { x with busy := x.busy + 1 }
      | none => s
    else s

/-- Where a saved charge's unit on hearth `h` goes. -/
def moved (old new : List Nat) (h : Nat) : Nat :=
  match old.findIdx? (· == h) with
  | some k => new.getD k h
  | none => h

/-- The key of a parked unit with the hearth on which it is now; those of requests, copies and commands name no hearth (R352). -/
def movedKey (mv : Nat → Nat) (k : List Nat) : List Nat :=
  match k with
  | kind :: h :: rest => if 2 ≤ kind then kind :: mv h :: rest else k
  | _ => k

/-- Requests, firings waiting and streams of charge `i` moved with it. -/
def State.moveUnits (s : State) (i : Nat) (old new : List Nat) : State :=
  let mv := moved old new
  let f := s.fab
  let place (x : Option (Nat × Nat × Nat)) : Option (Nat × Nat × Nat) := x.map fun (h, e, n) => (mv h, e, n)
  s.setFab { f with
    reqs := f.reqs.map fun x => if x.bind = i then { x with hearth := mv x.hearth } else x
    flights := f.flights.map fun x => if x.bind = i then { x with hearth := mv x.hearth } else x
    pending := f.pending.map fun x => if x.bind = i then { x with hearth := mv x.hearth } else x
    waits := f.waits.map fun x => if x.bind = i then { x with hearth := mv x.hearth } else x
    copies := f.copies.map fun x => if x.bind = i then { x with hearth := mv x.hearth } else x
    nmcs := f.nmcs.map fun x => if x.bind = i then { x with hearth := mv x.hearth } else x
    tclrs := f.tclrs.map fun x =>
      if x.bind = i then { x with hearth := mv x.hearth, entry := (s.tileOf i (mv x.hearth) x.tile).getD x.entry } else x
    chimneys := f.chimneys.map fun (k, x) =>
      (k, if k / 256 = i then { x with opened := place x.opened, place := place x.place } else x) }

/-- Everything saved of charge `i` put back on a region, or the first hearth that fails. -/
def State.restoreOn (s : State) (i pick : Nat) (c : Charge) (region : List Nat) : Except Nat State :=
  match region.find? fun h => s.ctxHeld i c.ctx [h] with
  | some h => .error h
  | none =>
    let used := s.tracksUsed
    match s.takeUnits i c.ctx pick c.image region true with
    | .error h => .error h
    | .ok (s, alloc, frames) =>
      match foldExc (fun s x => s.restoreTile i region x) s c.savedTiles with
      | .error h => .error h
      | .ok s =>
        match foldExc (fun s x => s.restoreJoin i c region x) s c.savedJoins with
        | .error h => .error h
        | .ok s =>
          match foldExc (fun s x => s.restoreCtx c region x) s c.saved with
          | .error h => .error h
          | .ok s =>
            let s := c.savedMx.foldl (fun s x => s.restoreMx i region x) s
            let s := c.savedPad.foldl (fun s (k, bs, bad) =>
              let ma := padAddr (region.getD k 0) (Table.getD alloc (region.getD k 0) 0)
              (s.store ma bs).markAll ma bad) s
            let s := c.savedParams.foldl (fun s (k, e, bs) => s.store (paramAddr (region.getD k 0) e c.ctx 0) bs) s
            let s := c.savedWalks.foldl (fun s (k, w) => s.modHearth (region.getD k 0) fun x => { x with ie := x.ie ++ [w] }) s
            let mv := moved c.region region
            let routes (t : Table ChainSt) : Table ChainSt := t.map fun (n, g) =>
              (n, { g with routes := g.routes.map fun (h, e, x) => (mv h, e, x) })
            let join (a b : Table ChainSt) : Table ChainSt := (routes b).foldl (fun t (n, g) => Table.put t n g) a
            let s := c.savedChains.foldl (fun s (k, a, m, x) => s.modHearth (region.getD k 0) fun y =>
              { y with ags := join y.ags a, mts := join y.mts m, mxs := join y.mxs x }) s
            let s := c.savedChains.foldl (fun s (k, _, m, _) =>
              s.recountReads i { c with region := region } (region.getD k 0) m) s
            let s := region.foldl (fun s h => s.modHearth h fun y => y.openFor h c.part c.vdev) s
            let s := s.moveUnits i c.region region
            let inbox := c.inbox.map fun t => { t with hearth := mv t.hearth }
            let s := s.setFab { s.fab with transit := s.fab.transit ++ inbox }
            let s := s.freeContextFrames c.inboxFrames
            .ok ((s.modCharge i fun _ => { c with
              region := region, alloc := alloc, frames := frames, paths := (allocTracks region used c.image.tracks).getD [],
              retry := c.retry.map (movedKey mv), inbox := [], inboxFrames := [], saved := [], savedWalks := [], savedMx := [],
              savedTiles := [], savedJoins := [], savedPad := [], savedParams := [], savedChains := [], phase := .frozen,
              lastActive := s.cycle }).putHeader i)

/-- Whether a region meets R66 for a charge: every hearth enabled, and its streams' ports there (R234). -/
def State.regionFits (s : State) (c : Charge) (region : List Nat) : Bool :=
  region.all s.hearthEnabled && s.streamsOk c.image region && (allocTracks region s.tracksUsed c.image.tracks).isSome &&
  c.image.blocks.all fun b => b.words.all fun w => (streamRole w).isNone || isEdge (region.getD b.shape 2)

/-- The record of a refused restore (R348, code 0x26), naming the first hearth of the region that failed by its shape index and its
module number (R371). -/
def State.refuseRestore (s : State) (i h : Nat) (c : Charge) (region : List Nat) : State :=
  s.postTo 255 { s.faultRec i 0x26 h with
    frozen := false, shape := (region.findIdx? (· == h)).getD 0xFF, unit := 0, partition := c.part, detail := [h] }

/-- cmd 3: a swapped record restored; frozen while a hold remains (R352). -/
def bindResume (agent : Agent) (i pick : Nat) (w : BitVec 256) (s : State) : Option State :=
  if !(writesSlots agent) then some s.countWindow
  else if (s.bindRec i).state ≠ 5 then some s
  else
    match s.charge? i with
    | none => some s
    | some c =>
      let old := s.bindRec i
      let r := { s.storedBind i w with ctx := old.ctx, aspace := old.aspace, vdev := old.vdev }
      let s := s.putBind i r
      match regionAt r.origin.toNat c.image.shape with
      | none => some s
      | some region =>
        if !(s.regionFits c region) then some s
        else
          match s.restoreOn i pick c region with
          | .error h => some (s.refuseRestore i h c region)
          | .ok s =>
            let s := s.modBind i fun r => { r with state := 4, expired := false, since := s.cycle }
            if c.holds = 0 ∧ c.bubbleHolds = 0 then some ((s.restart i).putExtents i) else some s

/-- BIND_RESUME (R371). -/
def execBindResume (agent : Agent) (i pick : Nat) (record : BitVec 256) (s : State) : Host.Outcome State Fault Refusal :=
  finish s (bindResume agent i pick record s)

end Sys2Proof.Machine
end

