-- ==== Sys2Proof/Machine/FaultSvc.lean ====
section
/-!
DEFINITION. Sys2Proof/Machine/FaultSvc.lean: the freeze (R349, R355, R356), fault rings and the actions on their records (R350
to R353), repair passes (R358 to R362), and the hang monitor (R347).
-/

namespace Sys2Proof.Machine

/-! ## The freeze (R355, R356) -/

/-- FREEZE_START (R355): a charge that has raised a freezing fault, or is to be pre-empted, freezes. -/
def freezeStart (bind : Nat) (s : State) : Option State :=
  match s.charge? bind with
  | some c => if c.phase = .running ∧ (c.faults ≠ [] ∨ c.preempting) then some (s.modCharge bind fun c => { c with phase := .freezing }) else none
  | none => none

/-- FREEZE_START (R355). -/
def execFreezeStart (bind : Nat) (s : State) : Host.Outcome State Fault Refusal := finish s (freezeStart bind s)

/-- Whether a gather of the charge is under way. -/
def MCtx.gathering (m : MCtx) (b : Nat) : Bool := m.owner == some b && m.mgath != 0 && !m.parked

/-- Tokens of the charge that still move: not those parked, nor those that a parked one of the same producer and port holds back, nor a
SCALE token that waits for its charge's load (R67, R354). -/
def State.moving (s : State) (b : Nat) (c : Charge) : Bool :=
  s.fab.transit.zipIdx.any fun (t, k) => t.bind == b && !t.parked &&
    !(heldBack ((s.fab.transit.take k).filter Token.parked) t) &&
    !(t.ce < agEnd && t.kind == .scale && (s.ctx? t.hearth t.ce c.ctx).any fun x => !x.loaded)

/-- Nothing of the charge is in progress or in transit, and each of its requests is performed, parked, or held in order behind one that
is not performed (R207, R280, R355). Firings that the join unit has started complete, but for those behind an operation that is parked or
a drain. -/
def State.frontReached (s : State) (b : Nat) (c : Charge) : Bool :=
  !(s.moving b c) &&
  (s.fab.pilots.all fun p => p.bind != b) &&
  (s.fab.reqs.all fun q => q.bind != b || !q.live || q.done || q.parked || s.heldByOrder c q) &&
  (s.fab.tileReads.all fun r => r.bind != b) &&
  (c.region.all fun h =>
    let x := s.hearth h
    (x.ces.all fun (_, e) => !(e.mx0.gathering b) && !(e.mx1.gathering b)) &&
    (x.ie.all fun w => w.bind != b || w.parked || (w.memo.isEmpty && w.want.isNone)) &&
    (c.retry.contains (juKey h) || x.joins.all fun (_, j) => j.bind != b || j.draining.isSome || j.begun.isEmpty))

/-- The fault that the stoker posts: the first, and of those of its cycle the one on the lowest hearth. -/
def firstFault : List FaultRec → Option FaultRec
  | [] => none
  | r :: rest =>
    some (rest.foldl (fun a x => if x.cycle = r.cycle ∧ x.hearth < a.hearth then x else a) r)

/-- FREEZE_COMPLETE (R355): the charge is frozen, and the first of its faults is posted with a hold (R352, R356). -/
def freezeComplete (bind : Nat) (s : State) : Option State :=
  match s.charge? bind with
  | none => none
  | some c =>
    if c.phase ≠ .freezing ∨ s.frontReached bind c = false then none
    else
      let s := s.modBind bind fun r => { r with state := 4 }
      match firstFault c.faults with
      | none => some (s.modCharge bind fun c => { c with phase := .frozen })
      | some r =>
        let s := (s.modCharge bind fun c => { c with phase := .frozen, faults := [], holds := c.holds + 1 }).putHeader bind
        some (s.post { r with frozen := true, more := 1 < c.faults.length })

/-- FREEZE_COMPLETE (R355). -/
def execFreezeComplete (bind : Nat) (s : State) : Host.Outcome State Fault Refusal := finish s (freezeComplete bind s)

/-! ## Fault rings (R350, R351) -/

/-- Records that a ring holds. -/
def Ring.size (g : Ring) : Nat := 2 ^ (min g.lsize.toNat 10 + 6)

/-- Classes whose record holds or names something beyond the other fields (R97, R143, R185, R296, R317, R327, R347, R362, R365, R371). -/
def detailCodes : List Nat := [0x10, 0x11, 0x12, 0x13, 0x14, 0x15, 0x16, 0x17, 0x1A, 0x21, 0x24, 0x25, 0x26]

/-- The detail field of those classes, laid out by Config.faultDetail; zero otherwise (R351; assumption entry 92). -/
def FaultRec.detailBytes (r : FaultRec) : List Byte :=
  if r.detail = [] ∨ !(detailCodes.contains r.code) then List.replicate 16 0 else leBytes 16 (Config.faultDetail r.code r.detail).toNat

/-- The 64 bytes of record `r` with sequence number `seq`. -/
def recordBytes (seq : BitVec 32) (r : FaultRec) : List Byte :=
  leBytes 4 seq.toNat ++ leBytes 1 r.code ++
  leBytes 1 (boolNat r.stageW + 2 * boolNat r.frozen + 4 * boolNat r.remote + 8 * boolNat r.bubbled + 16 * boolNat r.more) ++
  leBytes 1 r.partition ++ [0] ++ leBytes 2 r.vdev ++ leBytes 2 (if r.bind < 1024 then r.bind else 0xFFFF) ++
  leBytes 4 r.tag.toNat ++ leBytes 8 r.launchId.toNat ++ leBytes 8 r.address.toNat ++ leBytes 4 r.block.toNat ++
  leBytes 1 r.slot ++ leBytes 1 r.ce ++ leBytes 1 r.shape ++ leBytes 1 r.unit ++
  r.detailBytes ++ List.replicate 8 0

/-- FAULT_RECORD_POST (R351): the record that waits first is written, and the owner is interrupted. -/
def faultRecordPost (ring : Nat) (s : State) : Option State :=
  let g := s.ring ring
  match g.waiting with
  | [] => none
  | r :: rest =>
    if g.base = 0 ∨ g.size ≤ (g.tail - g.head).toNat then none
    else
      let s := s.stokerStore (g.base.toNat + 64 * (g.tail.toNat % g.size)) (recordBytes g.nextSeq r)
      some (s.modRing ring fun g =>
        { g with tail := g.tail + 1, nextSeq := g.nextSeq + 1, waiting := rest, irq := true,
                 holding := if (r.frozen || r.bubbled) && !r.ended then g.holding ++ [(g.nextSeq, r)] else g.holding })

/-- FAULT_RECORD_POST (R351). -/
def execFaultRecordPost (ring : Nat) (s : State) : Host.Outcome State Fault Refusal := finish s (faultRecordPost ring s)

/-! ## Actions on a record (R352, R353) -/

/-- Whether an agent owns a ring. -/
def ownsRing (a : Agent) (n : Nat) : Bool :=
  match a with
  | .wholesaler => true
  | .reseller p => p == n
  | _ => false

/-- The record `seq` of a ring, where it still holds its charge. -/
def State.heldRecord (s : State) (a : Agent) (n : Nat) (seq : BitVec 32) : Option FaultRec :=
  if ownsRing a n then ((s.ring n).holding.find? fun x => x.1 == seq).map (·.2) else none

/-- Action 0: the record's hold is released. -/
def faultResume (agent : Agent) (ring : Nat) (seq : BitVec 32) (s : State) : Option State :=
  match s.heldRecord agent ring seq with
  | none => some s
  | some r =>
    let s := s.modRing ring fun g => { g with holding := g.holding.filter fun x => x.1 != seq }
    some (((s.resumeCharge r.bind r.bubbled).putExtents r.bind).putHeader r.bind)

/-- FAULT_RESUME (R352). -/
def execFaultResume (agent : Agent) (ring : Nat) (seq : BitVec 32) (s : State) : Host.Outcome State Fault Refusal :=
  finish s (faultResume agent ring seq s)

/-- Whether a record is of a tenant-visible class (R348). -/
def FaultRec.tenantVisible (r : FaultRec) : Bool :=
  r.remote || r.code == 0x07 || (0x10 ≤ r.code && r.code ≤ 0x1A) || r.code == 0x20

/-- Action 1: a tenant-visible record goes to the thread of its device. -/
def faultForward (agent : Agent) (ring : Nat) (seq : BitVec 32) (s : State) : Option State :=
  match s.heldRecord agent ring seq with
  | some r =>
    if ring ≤ 167 ∧ r.tenantVisible then
      some (s.postUint r.vdev 0xFF 0x80000000 (seq.toNat + ring * 2 ^ 32) r.launchId.toNat)
    else some s
  | none => some s

/-- FAULT_FORWARD (R353). -/
def execFaultForward (agent : Agent) (ring : Nat) (seq : BitVec 32) (s : State) : Host.Outcome State Fault Refusal :=
  finish s (faultForward agent ring seq s)

/-- Action 2: the record's charge is aborted. -/
def faultAbort (agent : Agent) (ring : Nat) (seq : BitVec 32) (s : State) : Option State :=
  match s.heldRecord agent ring seq with
  | some r => some (s.abortCharge r.bind)
  | none => some s

/-- FAULT_ABORT (R352). -/
def execFaultAbort (agent : Agent) (ring : Nat) (seq : BitVec 32) (s : State) : Host.Outcome State Fault Refusal :=
  finish s (faultAbort agent ring seq s)

/-! ## Repair passes (R359 to R362) -/

/-- The index that a header gave iter `it`, by the trip started last whose issued tags include it (R359). -/
def tripIndex (log : List TripLog) (it : Iter) : Option (BitVec 32) :=
  (log.reverse.find? fun r => (it - r.first).toNat < r.issued).map fun r =>
    let d := (it - r.first).toNat
    BitVec.ofNat 32 (d + (r.issued - 1 - d) / 2 ^ 24 * 2 ^ 24)

/-- Iters in ascending order without repeats. -/
def iterSet (l : List Iter) : List Iter := (l.foldl (fun t x => insertAsc x.toNat t) []).map (BitVec.ofNat 24)

/-- One block's part of a pass: the iters that its header issues again, and the records that no trip in the log covers. -/
def State.passBlock (s : State) (c : Charge) (pass : List Bubble) (b : Block) : State :=
  let mine := pass.filter fun x => x.block == b.id
  let h := c.region.getD b.shape 0
  match s.ctx? h b.loopCe c.ctx with
  | none => s
  | some cc =>
    let known := (iterSet (mine.map Bubble.iter)).filterMap fun it => (tripIndex cc.loop.log it).map fun j => (it, j)
    s.modCtx h b.loopCe c.ctx fun x => { x with loop := { x.loop with reissue := known } }

/-- Whether a bubble record can be issued again: its block has a loop header, and the trip log covers its iter. -/
def State.canReissue (s : State) (c : Charge) (x : Bubble) : Bool :=
  match c.image.blocks.find? fun b => b.id == x.block with
  | none => false
  | some b =>
    b.loopSlot < b.words.length &&
    (match s.ctx? (c.region.getD b.shape 0) b.loopCe c.ctx with
     | some cc => (tripIndex cc.loop.log x.iter).isSome
     | none => false)

/-- Whether the bubble list names a block without a loop header (R362). -/
def Charge.headless (c : Charge) : Bool :=
  c.bubbles.any fun x => match c.image.blocks.find? fun b => b.id == x.block with
    | some b => b.words.length ≤ b.loopSlot
    | none => true

/-- The bubble-unrepaired fault (R362). -/
def State.unrepairedFault (s : State) (b : Nat) : State :=
  match s.charge? b with
  | none => s
  | some c =>
    (s.modCharge b fun c => { c with unrepaired := true }).raiseFault b
      { s.faultRec b 0x1A (c.region.headD 0) with shape := 0xFF, unit := 0, detail := [c.bubbles.length] }

/-- REPAIR_PASS (R359): at its completion point a charge with bubbles and no bubble holds runs a pass; one whose list names a
block without a loop header freezes first (R362). -/
def repairPass (bind : Nat) (s : State) : Option State :=
  match s.charge? bind with
  | none => none
  | some c =>
    if !c.runs || c.repairing || c.bubbles.isEmpty || c.bubbleHolds != 0 || !(s.sinksDone bind c) || c.acks != 0 ||
        !(s.enginesDone bind c) then none
    else if c.headless && !c.unrepaired then some (s.unrepairedFault bind)
    else
      let left := c.bubbles.filter fun x => !(s.canReissue c x)
      let s := c.image.blocks.foldl (fun s b => s.passBlock c c.bubbles b) s
      some (((s.putFrame c c.image.bubbleAt (left.flatMap Bubble.bytes)).modCharge bind fun c =>
        { c with bubbles := left, bubbled := [], pass := c.pass + 1, repairing := true, unrepaired := false }).putHeader bind)

/-- REPAIR_PASS (R359). -/
def execRepairPass (bind : Nat) (s : State) : Host.Outcome State Fault Refusal := finish s (repairPass bind s)

/-- REPAIR_PASS_END (R359, R361, R362): every header and every store count is zero. The fourth pass that leaves bubbles, and
each one after it, freezes the charge. -/
def repairPassEnd (bind : Nat) (s : State) : Option State :=
  match s.charge? bind with
  | none => none
  | some c =>
    let busy := s.fab.ctxs.any fun (_, x) => x.bind == bind && (x.loop.out != 0 || !x.loop.reissue.isEmpty)
    if !c.runs || !c.repairing || busy || c.acks != 0 then none
    else
      let s := s.modCharge bind fun c => { c with repairing := false }
      if c.bubbles.isEmpty ∨ c.pass < 4 then some s else some (s.unrepairedFault bind)

/-- REPAIR_PASS_END (R361). -/
def execRepairPassEnd (bind : Nat) (s : State) : Host.Outcome State Fault Refusal := finish s (repairPassEnd bind s)

/-! ## The hang monitor (R347) -/

/-- Whether the bucket of a ready request's device holds fewer tokens than it takes: such a request does not count as outstanding. -/
def State.starved (s : State) (q : ReadyReq) : Bool := s.bucket (s.controllerOf q.ma) q.vdev < q.beats

/-- A request that counts as outstanding. -/
def State.outstanding (s : State) (v : Nat) (q : Req) : Bool :=
  q.live && !q.done && !((s.reqMa q).any fun ma => s.starved { id := q.id, vdev := v, beats := 1, ma := ma })

/-- Whether a unit of the charge on hearth `h` has a request outstanding: a write AG that holds a position, an index engine's walk, a
gather, an operation of the join unit that waits at a controller, or a drain. -/
def State.unitOutstanding (s : State) (b : Nat) (c : Charge) (h : Nat) : Bool :=
  let x := s.hearth h
  let starved (l : List ReadyReq) (id : Nat) : Bool := l.any fun q => q.id == id && s.starved q
  let due (ma : Nat) : Bool := !(s.starved { id := 0, vdev := c.vdev, beats := 1, ma := ma })
  (x.ags.any fun (k, g) => k % 1024 == b && g.running &&
    (c.agAt h (k / 1024)).any fun p => p.write && !g.fifo.isEmpty && g.index < p.total &&
      !(starved (s.readyAgs h x) (agId h (k / 1024) b))) ||
  (x.ie.any fun w => w.bind == b && w.want.all due) ||
  (x.ces.any fun (e, y) =>
    (y.mx0.gathering b && (s.readyGather h e false).all fun q => !(s.starved q)) ||
    (y.mx1.gathering b && (s.readyGather h e true).all fun q => !(s.starved q))) ||
  (x.joins.any fun (_, j) => j.bind == b && (match j.want with
    | some ma => due ma
    | none => j.draining.isSome))

/-- Whether some unit of the charge has a request or an operation outstanding. -/
def State.anyOutstanding (s : State) (b : Nat) (c : Charge) : Bool :=
  let due (id : Nat) : Bool := !(s.readyEngines.any fun q => q.id == id && s.starved q)
  (s.fab.reqs.any fun q => q.bind == b && s.outstanding c.vdev q) ||
  (s.fab.copies.any fun p => p.bind == b && due p.id) || (s.fab.nmcs.any fun m => m.bind == b && due m.id) ||
  (s.fab.chimneys.any fun (k, x) => k / 256 == b && x.ackNo < x.sentNo) ||
  c.region.any fun h => s.unitOutstanding b c h

/-- Entries of a slot, counted by port and for the overflow table. -/
def slotOcc (k e : Nat) (l : List Entry) (slot : Nat) : OccRec :=
  let n (p : Entry → Bool) : Nat := (l.filter fun x => x.slot == slot && p x).length
  { shape := k, ce := e, slot := slot, l := n fun x => x.port == .L, r := n fun x => x.port == .R,
    p := n fun x => x.port == .P, overTable := n fun x => x.inTable }

/-- The occupancy map: one record for each slot with entries. -/
def State.occupancy (s : State) (b : Nat) (c : Charge) : List OccRec :=
  (s.fab.ctxs.map fun (k, x) =>
    if x.bind = b then
      (x.entries.foldl (fun t y => insertAsc y.slot t) []).map (slotOcc (c.shapeOf (k / 768)) (k / 16 % 48) x.entries)
    else []).flatten

/-- The oldest tag that waits in a store or a table. -/
def State.oldestTag (s : State) (b : Nat) : Option Iter :=
  ((s.fab.ctxs.map fun (_, x) => if x.bind = b then x.entries.map Entry.iter else []).flatten).foldl (init := none)
    fun a it => match a with
      | none => some it
      | some o => if older it o then some it else some o

/-- Whether a token of the charge exists outside inboxes and context frames. -/
def State.hasTokens (s : State) (b : Nat) : Bool :=
  (s.fab.ctxs.any fun (_, x) => x.bind == b && !(x.entries.isEmpty && x.ready.isEmpty)) ||
  (s.fab.transit.any fun t => t.bind == b) || (s.fab.waits.any fun w => w.bind == b)

/-- The occupancy map written to the charge's context frame (R347): a header of 64 bytes with the record count and the oldest
waiting tag, then the records; which bytes hold which field is the model's choice (assumption entry 19). -/
def mapBytes (occ : List OccRec) (it : Option Iter) : List Byte :=
  leBytes 4 occ.length ++ leBytes 4 ((it.map BitVec.toNat).getD 0xFFFFFFFF) ++ List.replicate 56 0 ++
  occ.flatMap fun x => leBytes 1 x.shape ++ leBytes 1 x.ce ++ leBytes 1 x.slot ++ leBytes 1 0 ++ leBytes 2 x.l ++ leBytes 2 x.r ++
    leBytes 2 x.p ++ leBytes 2 x.overTable ++ leBytes 4 0

/-- HANG_DETECT (R347). -/
def hangDetect (bind : Nat) (s : State) : Option State :=
  match s.charge? bind with
  | none => none
  | some c =>
    let n := (s.part c.part).hang.toNat
    if n = 0 ∨ c.runs = false ∨ s.cycle < c.lastActive + min n 1000000 * cyclesPerUs ∨ s.anyOutstanding bind c ∨
        s.hasTokens bind = false then none
    else
      let occ := s.occupancy bind c
      let it := s.oldestTag bind
      let s := (s.modCharge bind fun c => { c with occupancy := occ, oldest := it }).putFrame c c.image.mapAt (mapBytes occ it)
      some (s.raiseFault bind
        { s.faultRec bind 0x17 (c.region.headD 0) with
          shape := 0xFF, unit := 0, tag := (it.map (faultTag c.ctx)).getD 0, detail := [c.frameAt c.image.mapAt, (mapBytes occ it).length] })

/-- HANG_DETECT (R347). -/
def execHangDetect (bind : Nat) (s : State) : Host.Outcome State Fault Refusal := finish s (hangDetect bind s)

end Sys2Proof.Machine
end

