-- ==== Sys2Proof/Machine/Reset.lean ====
section
/-!
DEFINITION. Sys2Proof/Machine/Reset.lean: resets of virtual functions and partitions (R341), and uncorrectable errors (R42,
R367).
-/

namespace Sys2Proof.Machine

/-! ## Virtual functions (R341) -/

/-- Token buckets of device `v` at every controller, zeroed. -/
def State.zeroBuckets (s : State) (v : Nat) : State :=
  s.setSide { s.memSide with
    buckets := (List.range 28).foldl (fun t k => Table.put t (bucketKey k v) 0) s.memSide.buckets }

/-- The pending user interrupts of device `v` zeroed: the pending bit, and the mask of its thread's record (R345). -/
def State.zeroUint (s : State) (v : Nat) : State :=
  match s.thread? v with
  | none => s
  | some t =>
    let s := s.modThread v fun t => { t with pending := false }
    match s.stokerAddr t.aspace t.juirec.toNat true true with
    | some ma => s.stokerStoreVia t.aspace t.juirec.toNat ma (List.replicate 32 0)
    | none => s

/-- Every queue of device `v` destroyed. -/
def State.destroyQueues (s : State) (v : Nat) : State :=
  s.adm.queues.foldl (init := s) fun s (k, x) => if k / 256 = v ∧ (x.state = 1 ∨ x.state = 2) then s.destroyQueue v (k % 256) else s

/-- The reset of virtual function `v`. Its state is 2 until its last charge is gone. -/
def State.resetVf (s : State) (v : Nat) : State :=
  let s := s.destroyQueues v
  let s := s.cancelLaunches fun l => l.vdev == v
  let s := s.fab.charges.foldl (init := s) fun s (b, c) => if c.vdev = v then s.abortCharge b else s
  let s := (s.zeroBuckets v).zeroUint v
  (s.modVdev v fun x => { x with state := 2 }).settleResets

/-- VF_RESET (R341): by a level that holds RESET for the device. -/
def vfReset (agent : Agent) (v : Nat) (s : State) : Option State :=
  if s.mayDevice agent v rightReset then some (s.resetVf v)
  else match agent with
    | .reseller p => if (s.vdev v).partition.toNat = p then some s else some s.countWindow
    | .tenant w => if w = v then some s else some s.countWindow
    | _ => some s.countWindow

/-- VF_RESET (R341). -/
def execVfReset (agent : Agent) (v : Nat) (s : State) : Host.Outcome State Fault Refusal := finish s (vfReset agent v s)

/-! ## Partitions (R341) -/

/-- The reset of partition `p`: of each of its virtual devices, and then of the partition. -/
def State.resetPart (s : State) (p : Nat) : State :=
  let s := s.adm.vdevs.foldl (init := s) fun s (v, x) => if x.partition.toNat = p then s.resetVf v else s
  (s.modPart p fun x => { x with state := 2 }).settleResets

/-- PARTITION_RESET (R341): by the wholesaler. -/
def partitionReset (agent : Agent) (p : Nat) (s : State) : Option State :=
  if agent = .wholesaler ∧ p < 168 then some (s.resetPart p) else some s

/-- PARTITION_RESET (R341). -/
def execPartitionReset (agent : Agent) (p : Nat) (s : State) : Host.Outcome State Fault Refusal :=
  finish s (partitionReset agent p s)

/-! ## Uncorrectable errors (R367) -/

/-- An error in a line of the firebox cores' caches (R366, R367): the wholesaler's data is recovered from its mirror, a dirty line ends its
last writer's partition or device, and a clean line is refetched. -/
def State.fireboxError (s : State) (line : Nat) : State :=
  match Table.get? s.firebox.lines line with
  | none => s
  | some x =>
    let t := s.setFirebox { s.firebox with lines := Table.erase s.firebox.lines line }
    match x.dirty with
    | some .hs => t.stokerStore (256 * line) x.mirror
    | some (.vs p) => t.resetPart p
    | some (.vu v) => t.resetVf v
    | none => t

/-- UNCORRECTABLE_ERROR (R367): at most the owner named by its place ends, and a hardware record goes to the wholesaler. -/
def uncorrectableError (place : ErrorPlace) (s : State) : Option State :=
  match place with
  | .beat a => if (tierOf a).isSome then some ((s.markPoison a).postHardware 0x21 9 a []) else none
  | .ofCharge i => if (s.charge? i).isSome then some ((s.abortCharge i).postHardware 0x21 0 0 []) else none
  | .firebox line => some ((s.fireboxError line).postHardware 0x21 10 (256 * line) [])

/-- UNCORRECTABLE_ERROR (R367). -/
def execUncorrectableError (place : ErrorPlace) (s : State) : Host.Outcome State Fault Refusal :=
  finish s (uncorrectableError place s)

end Sys2Proof.Machine
end

