-- ==== Sys2Proof/Machine/Motion.lean ====
section
/-!
DEFINITION. Sys2Proof/Machine/Motion.lean: extent shootdowns (R308, R309), page motion (R311 to R317), the ember window and the
halving of embers (R318, R319), token buckets refilled and deferred activations (R342, R343).
-/

namespace Sys2Proof.Machine

/-! ## Request windows (R308, R311) -/

/-- Whether an agent writes the request window of level `p`: a partition's, or the wholesaler's. -/
def writesRequest (a : Agent) (p : Nat) : Bool :=
  (p < 168 || p == 255) &&
  (match a with
   | .wholesaler => true
   | .reseller q => q == p
   | _ => false)

/-- The 256 bits of a whole 32-byte write. -/
def wholeWrite (bytes : List Byte) : Option Nat := if bytes.length = 32 then some (leNat bytes) else none

/-! ## Shootdowns (R308, R309) -/

/-- Status with which a shootdown request is discarded. -/
def State.xsdStatus (s : State) (p w : Nat) : Option Nat :=
  let a := bitsOf w 27 16
  let pages := bitsOf w 191 128
  if p ≠ 255 ∧ (bitOf w 0 ∨ (s.aspace a).partition.toNat ≠ p) then some 2
  else if pages = 0 ∨ 2 ^ 40 < pages ∨ bitsOf w 127 64 % 65536 ≠ 0 ∨ bitsOf w 63 28 ≠ 0 ∨ bitsOf w 15 1 ≠ 0 then some 3
  else none

/-- A stage W shootdown that is not the engine's own aborts the moves of the pages it covers (R316). -/
def State.abortCovered (s : State) (part first pages : Nat) : State :=
  s.memSide.moves.foldl (init := s) fun s m =>
    if (part = 255 ∨ m.part = part) ∧ first / 65536 ≤ m.partPage / 65536 ∧ m.partPage / 65536 < first / 65536 + pages then
      s.abortMove m 3
    else s

/-- XSD_REQUEST (R308). -/
def xsdRequest (agent : Agent) (p : Nat) (bytes : List Byte) (s : State) : Option State :=
  match wholeWrite bytes with
  | none => some s
  | some w =>
    let record := bitsOf w 255 192
    if writesRequest agent p = false ∨ record % 16 ≠ 0 then some s
    else
      match s.xsdStatus p w with
      | some k => some (s.stokerStore record (leBytes 4 k ++ leBytes 12 0))
      | none =>
        let stageW := bitOf w 0
        let first := bitsOf w 127 64
        let pages := bitsOf w 191 128
        let s := if stageW then s.abortCovered p first pages else s
        some (s.addShootdown stageW (bitsOf w 27 16) p first pages (some record) none).2

/-- XSD_REQUEST (R308). -/
def execXsdRequest (agent : Agent) (p : Nat) (bytes : List Byte) (s : State) : Host.Outcome State Fault Refusal :=
  finish s (xsdRequest agent p bytes s)

/-- Whether a charge runs in an address space that a shootdown affects. -/
def Shootdown.affects (d : Shootdown) (c : Charge) : Bool :=
  if d.stageW then d.part == c.part || d.part == 255 else d.aspace == c.aspace

/-- Hearths that hold a context of an affected address space. -/
def State.sdHearths (s : State) (d : Shootdown) : List Nat :=
  (s.fab.charges.map fun (_, c) =>
    if d.affects c ∧ c.phase ≠ .swapping ∧ c.phase ≠ .swapped then c.region else []).flatten.foldl
    (fun l h => insertAsc h l) []

def State.shootdown? (s : State) (id : Nat) : Option Shootdown := s.memSide.shootdowns.find? fun d => d.id == id

/-- SHOOTDOWN_HEARTH_ACK (R309). An access translates its page and is performed in one step of this model, so none that was
translated through a marked extent is outstanding. -/
def shootdownHearthAck (id hearth : Nat) (s : State) : Option State :=
  match s.shootdown? id with
  | none => none
  | some d =>
    if s.sdActive d && (s.sdHearths d).contains hearth && !(d.acked.contains hearth) then
      some (s.setSide { s.memSide with
        shootdowns := s.memSide.shootdowns.map fun e => if e.id = id then { e with acked := e.acked ++ [hearth] } else e })
    else none

/-- SHOOTDOWN_HEARTH_ACK (R309). -/
def execShootdownHearthAck (id hearth : Nat) (s : State) : Host.Outcome State Fault Refusal :=
  finish s (shootdownHearthAck id hearth s)

/-- A charge's extents with the pages that a shootdown concerns walked again. -/
def State.replaceMarked (s : State) (d : Shootdown) (c : Charge) : List Extent :=
  let hit (x : Extent) (i : Nat) : Bool := d.hits c x ((x.vpage + i) * 65536)
  if c.extents.any fun x => (List.range x.pages).any (hit x) then
    c.extents.foldl (init := []) fun l x =>
      (List.range x.pages).foldl (init := l) fun l i =>
        addExtent l (if hit x i then s.walkPage (s.aspace c.aspace) (some c.image.cid) x.region ((x.vpage + i) * 65536)
          else { x with vpage := x.vpage + i, pages := 1, frame := x.frame + i, ppage := x.ppage + i })
  else c.extents

/-- SHOOTDOWN_COMPLETE (R309 steps 3 and 4). -/
def shootdownComplete (id : Nat) (s : State) : Option State :=
  match s.shootdown? id with
  | none => none
  | some d =>
    if !(s.sdActive d) || !((s.sdHearths d).all d.acked.contains) then none
    else
      let t := s.setFab { s.fab with charges := s.fab.charges.map fun (b, c) =>
        (b, if d.affects c then { c with extents := s.replaceMarked d c } else c) }
      let t := t.setSide { t.memSide with shootdowns := t.memSide.shootdowns.filter fun e => e.id != id }
      let t := s.fab.charges.foldl (fun t (b, c) => if d.affects c then t.putExtents b else t) t
      match d.record with
      | some r => some (t.stokerStore r (leBytes 4 0 ++ leBytes 4 d.acked.length ++ leBytes 8 0))
      | none => some t

/-- SHOOTDOWN_COMPLETE (R309). -/
def execShootdownComplete (id : Nat) (s : State) : Host.Outcome State Fault Refusal := finish s (shootdownComplete id s)

/-! ## The page of a request (R311) -/

/-- A page of a stage W tree: its partition, its partition address and its leaf. -/
structure PageLeaf where
  part  : Nat
  addr  : Nat
  leaf  : Leaf
  deriving DecidableEq, Repr

/-- The leaf of a stage W tree that maps machine frame `frame`, with its input address, searched from `level`. -/
def findFrame (s : State) (frame : Nat) : Nat → Nat → Nat → Nat → Option (Nat × Leaf)
  | 0, _, _, _ => none
  | fuel + 1, level, table, input =>
    (List.range 1024).findSome? fun i =>
      let a := table + 8 * i
      let e := s.loadHome a 8
      let at_ := input + i * 2 ^ (46 - 10 * level)
      if !(bitOf e 0) then none
      else if bitOf e 1 ∧ level < 3 then
        if tableEntryOk true e then findFrame s frame fuel (level + 1) (bitsOf e 55 13 * 8192) at_ else none
      else if level = 3 ∧ bitsOf e 55 16 = frame then some (at_, { entry := e, level := 3, addr := a })
      else if level = 2 ∧ bitsOf e 55 26 = frame / 1024 then
        some (at_ + frame % 1024 * 65536, { entry := e, level := 2, addr := a })
      else none

/-- Partitions that hold a descriptor. -/
def State.rootedParts (s : State) : List Nat :=
  s.adm.aspaces.foldl (fun l (_, a) => if a.partition.toNat < 168 then insertAsc a.partition.toNat l else l) []

/-- The page that level `p` names: a partition address, or for the wholesaler a machine address. -/
def State.pageOf (s : State) (p page : Nat) : Option PageLeaf :=
  if p = 255 then
    s.rootedParts.findSome? fun q =>
      (findFrame s (page / 65536) 4 0 ((s.partRoot (BitVec.ofNat 8 q)).toNat * 8192) 0).map fun (a, l) =>
        { part := q, addr := a, leaf := l }
  else if s.rootedParts.contains p then
    match s.walkW (s.partRoot (BitVec.ofNat 8 p)).toNat page with
    | .ok l => some { part := p, addr := page / 65536 * 65536, leaf := l }
    | .error _ => none
  else none

/-- The frame that a leaf maps a page to. -/
def PageLeaf.frame (x : PageLeaf) : Nat := leafOut x.leaf.entry x.leaf.level x.addr / 65536

/-! ## Moves (R311 to R313) -/

/-- Whether a frame lies in a part that is draining or retired (R39, R311). -/
def State.frameLeaving (s : State) (frame : Nat) : Bool :=
  let ma := frame * 65536
  match tierOf ma with
  | some 0 => let n := (s.stove (ma / 2 ^ 36)).stackState; n == 2 || n == 3
  | some 1 => let n := (s.stove ((ma - bulkBase) / 2 ^ 37)).bulkState; n == 2 || n == 3
  | some _ => s.mod.flash.retired.contains (.cxl (s.controllerOf ma - 24))
  | none => false

/-- Whether a level may request moves. -/
def State.mayMigrate (s : State) (p : Nat) : Bool := p == 255 || s.partHolds p rightMigrate

/-- Whether a level holds a pool. -/
def State.holdsPool (s : State) (p n : Nat) : Bool := (s.pool n).owner.toNat == p

/-- The status with which a move is refused, the first in the order of R311; otherwise its page. -/
def State.moveStatus (s : State) (p pool : Nat) (x : Option PageLeaf) : Except Nat PageLeaf :=
  if !(s.mayMigrate p) then .error 9
  else if !(s.holdsPool p pool) then .error 5
  else
    match x with
    | none => .error 1
    | some x =>
      let e := x.leaf.entry
      if s.memSide.moves.any fun m => m.part == x.part && m.partPage / 65536 == x.addr / 65536 then .error 3
      else if bitOf e 12 then .error 10
      else if bitsOf e 11 10 ≠ 0 then .error 2
      else if leafState e ≠ 0 ∨ leafMalformed true x.leaf.level e x.addr then .error 1
      else if 16 ≤ (s.memSide.moves.filter fun m => s.controllerOf (m.src * 65536) == s.controllerOf (x.frame * 65536)).length then
        .error 4
      else
        match s.poolHead (s.pool pool) with
        | some f => if f = x.frame ∨ s.frameLeaving f then .error 6 else .ok x
        | none => .ok x

/-- A leaf with another state: 0 RESIDENT, 1 MOVING. -/
def leafWith (e st : Nat) : Nat := e - leafState e * 16 + st * 16

/-- A leaf RESIDENT at another frame. -/
def leafMoved (e frame tier : Nat) : Nat :=
  bitsOf e 63 56 * 2 ^ 56 + frame * 65536 + bitsOf e 15 8 * 256 + tier * 64 + bitsOf e 3 0

/-- A move begun: a frame taken, the leaf MOVING, a shootdown of the page requested (R313 steps 1 and 2). An empty pool
aborts it at once, with the shootdown that every abort requests (R316). -/
def State.startMove (s : State) (p w : Nat) (x : PageLeaf) : State :=
  let (id, s) := s.newId
  let n := bitsOf w 7 0
  let m : Move :=
    { id := id, p := p, page := bitsOf w 127 64, part := x.part, partPage := x.addr, leaf := x.leaf.addr, src := x.frame,
      dst := 0, cursor := 0, pool := n, cookie := BitVec.ofNat 64 (bitsOf w 191 128), record := bitsOf w 255 192,
      written := false, sd := 0 }
  match s.poolTake (s.pool n) with
  | none =>
    let s := (s.addShootdown true 0 x.part x.addr 1 none none).2
    (s.moveRecord m 8 4 0 0).moveFault m 4 0 0
  | some (f, pool) =>
    let s := (s.putPool n pool).stokerStore x.leaf.addr (leBytes 8 (leafWith x.leaf.entry 1))
    let (sd, s) := s.addShootdown true 0 x.part x.addr 1 none (some id)
    s.setSide { s.memSide with moves := s.memSide.moves ++ [{ m with dst := f, sd := sd }] }

/-- The record of a request that starts nothing. -/
def State.requestRecord (s : State) (w status : Nat) : State :=
  s.stokerStore (bitsOf w 255 192) (leBytes 4 status ++ leBytes 4 0 ++ leBytes 8 (bitsOf w 191 128) ++ leBytes 16 0)

/-- MIGRATION_REQUEST (R311): a whole write with cancel 0. One whose record is misaligned is discarded. -/
def migrationRequest (agent : Agent) (p : Nat) (bytes : List Byte) (s : State) : Option State :=
  match wholeWrite bytes with
  | none => some s
  | some w =>
    if bitOf w 8 then none
    else if writesRequest agent p = false ∨ bitsOf w 255 192 % 32 ≠ 0 then some s
    else
      match s.moveStatus p (bitsOf w 7 0) (s.pageOf p (bitsOf w 127 64)) with
      | .error k => some (s.requestRecord w k)
      | .ok x => some (s.startMove p w x)

/-- MIGRATION_REQUEST (R311). -/
def execMigrationRequest (agent : Agent) (p : Nat) (bytes : List Byte) (s : State) : Host.Outcome State Fault Refusal :=
  finish s (migrationRequest agent p bytes s)

/-- The move of the page that level `p` names. -/
def State.moveOf (s : State) (p page : Nat) : Option Move :=
  s.memSide.moves.find? fun m => if p = 255 then m.src == page / 65536 else m.part == p && m.partPage / 65536 == page / 65536

/-- MIGRATION_CANCEL (R311): a whole write with cancel 1. -/
def migrationCancel (agent : Agent) (p : Nat) (bytes : List Byte) (s : State) : Option State :=
  match wholeWrite bytes with
  | none => some s
  | some w =>
    if bitOf w 8 = false then none
    else if writesRequest agent p = false ∨ bitsOf w 255 192 % 32 ≠ 0 then some s
    else if !(s.mayMigrate p) then some (s.requestRecord w 9)
    else
      match s.moveOf p (bitsOf w 127 64) with
      | some m => if m.written then some (s.requestRecord w 7) else some (s.abortMove m 5)
      | none => some (s.requestRecord w 7)

/-- MIGRATION_CANCEL (R311). -/
def execMigrationCancel (agent : Agent) (p : Nat) (bytes : List Byte) (s : State) : Host.Outcome State Fault Refusal :=
  finish s (migrationCancel agent p bytes s)

/-- The race tags of the line at the cursor as its copy begins: they are lost between slices of different stoves (R315). During the move
the tags of the page stand under the source's beats, where its home of record keeps them. -/
def State.beginLine (s : State) (m : Move) : State :=
  let src := m.src * 65536 + 256 * m.cursor
  if owningStove src == owningStove (m.dst * 65536) then s else s.dropLineTags (src / 256)

/-- The state in which a move's next line waits at a controller (R35, R342, R343): its beats are charged to the requester's device. -/
def State.lineWaits (s : State) (m : Move) : Option State :=
  let ends := [m.src, m.dst].map fun f => f * 65536 + 256 * m.cursor
  if ends.any s.channelBusy then some s
  else (s.requesterDevice m).bind fun v => s.beatsWait (moveId m.id) v (ends.map fun ma => (ma, 4))

/-- What the controllers count for the line (R342, R343). -/
def State.chargeLine (s : State) (m : Move) : State :=
  match s.requesterDevice m with
  | none => s
  | some v => [m.src, m.dst].foldl (fun s f => s.chargeBeats (moveId m.id) (f * 65536 + 256 * m.cursor) v 4) s

/-- One line of a move copied, with its poison marks (R313). -/
def State.copyLine (s : State) (m : Move) : State :=
  let src := m.src * 65536 + 256 * m.cursor
  let dst := m.dst * 65536 + 256 * m.cursor
  let s := s.storeAt dst (s.bytesAt src 256)
  (List.range 4).foldl (init := s) fun s i => if s.poisoned (src + 64 * i) then s.markPoison (dst + 64 * i) else s

/-- The race tags of a page whose leaf has been written stand under the destination's beats (R315). -/
def State.moveTags (s : State) (m : Move) : State :=
  s.setSide { s.memSide with tags := s.memSide.tags.foldl (fun t (k, v) =>
    if k / 1024 = m.src then Table.put (Table.erase t k) (m.dst * 1024 + k % 1024) v else t) s.memSide.tags }

def State.putMove (s : State) (m : Move) : State :=
  s.setSide { s.memSide with moves := s.memSide.moves.map fun x => if x.id = m.id then m else x }

/-- The leaf written at the destination, the ember copied with its owner, and the second shootdown requested (R313 step 4). -/
def State.finishCopy (s : State) (m : Move) : State :=
  let e := s.loadHome m.leaf 8
  let s := s.stokerStore m.leaf (leBytes 8 (leafMoved e m.dst ((tierOf (m.dst * 65536)).getD 0)))
  let s := ((s.setEmberOwner m.dst (s.emberOwner m.src)).emberChange m.dst (s.ember m.dst) (s.ember m.src)).moveTags m
  let (sd, s) := s.addShootdown true 0 m.part m.partPage 1 none (some m.id)
  s.putMove { m with cursor := 256, written := true, sd := sd }

/-- MIGRATION_LINE_COPY (R313): the line at the cursor is copied, a beat whose check matches on the retry being counted (R363), or an
uncorrectable error aborts the move (R316). A destination that cannot be written, unmapped or holding an image (R27, R31), does
not accept the line and aborts it as an error there does (assumption entry 90). -/
def migrationLineCopy (id : Nat) (error : CopyError) (s : State) : Option State :=
  match s.memSide.moves.find? fun m => m.id == id with
  | none => none
  | some m =>
    if m.written then none
    else if let some s := s.lineWaits m then some s
    else
      let s := s.chargeLine m
      let src := m.src * 65536 + 256 * m.cursor
      match error with
      | .source k =>
        let a := src + 64 * k.toNat
        if s.poisoned a then none
        else some ((((s.beginLine m).countLasting (owningStove a) 9 0xFF).markPoison a |>.postHardware 0x21 9 a []).abortMove m 2)
      | .destination => some ((s.beginLine m).abortMove m 1)
      | .none | .transient =>
        let s := s.beginLine m
        let s := if error = .transient then s.countTransient (owningStove src) else s
        if !(s.writable (m.dst * 65536 + 256 * m.cursor)) then some (s.abortMove m 1)
        else
          let s := s.copyLine m
          if m.cursor = 255 then some (s.finishCopy m) else some (s.putMove { m with cursor := m.cursor + 1 })

/-- MIGRATION_LINE_COPY (R313). -/
def execMigrationLineCopy (id : Nat) (error : CopyError) (s : State) : Host.Outcome State Fault Refusal :=
  finish s (migrationLineCopy id error s)

/-- MIGRATION_COMPLETE (R313 step 5): the second shootdown is done. -/
def migrationComplete (id : Nat) (s : State) : Option State :=
  match s.memSide.moves.find? fun m => m.id == id with
  | none => none
  | some m =>
    if m.written = false ∨ (s.shootdown? m.sd).isSome then none
    else some (((s.dropMove id).emberChange m.src (s.ember m.src) 0).moveRecord m 0 0 m.dst 256)

/-- MIGRATION_COMPLETE (R313). -/
def execMigrationComplete (id : Nat) (s : State) : Host.Outcome State Fault Refusal := finish s (migrationComplete id s)

/-! ## Embers (R318, R319) -/

/-- Frames that have an ember: those of the ember window. -/
def emberFrames : Nat := emberEnd - emberBase

/-- EMBER_WRITE (R319): the wholesaler replaces an ember. -/
def emberWrite (agent : Agent) (frame : Nat) (value : Byte) (s : State) : Option State :=
  if agent = .wholesaler ∧ frame < emberFrames then some (s.emberChange frame (s.ember frame) value.toNat)
  else some s

/-- EMBER_WRITE (R319). -/
def execEmberWrite (agent : Agent) (frame : Nat) (value : Byte) (s : State) : Host.Outcome State Fault Refusal :=
  finish s (emberWrite agent frame value s)

/-- EMBER_HALVE (R318): every ember is halved, and cold crossings post. -/
def emberHalve (s : State) : Option State :=
  if s.cycle / cyclesPerMs ≤ s.mod.emberMs then none
  else some s.halveEmbers

/-- EMBER_HALVE (R318). -/
def execEmberHalve (s : State) : Host.Outcome State Fault Refusal := finish s (emberHalve s)

/-! ## Controllers (R342, R343) -/

/-- BUCKET_REFILL (R342): each bucket gains rate tokens, up to burst. -/
def bucketRefill (s : State) : Option State :=
  if s.cycle / cyclesPerUs ≤ s.mod.bucketUs then none
  else
    let s := s.setSide { s.memSide with buckets := s.memSide.buckets.map fun (k, n) =>
      let v := s.vdev (k % 1024)
      (k, min (v.burst.toNat : Int) (n + v.rate.toNat)) }
    some (s.setMod { s.mod with bucketUs := s.mod.bucketUs + 1 })

/-- BUCKET_REFILL (R342). -/
def execBucketRefill (s : State) : Host.Outcome State Fault Refusal := finish s (bucketRefill s)

/-- The refresh-management interval in which a cycle lies: assumption entry 9. -/
def State.refreshSlot (s : State) : Nat := s.cycle / (Config.refreshInterval + 1)

/-- DEFERRED_ACTIVATION (R343): in each refresh-management interval the oldest request of a controller's deferred queue may
have its activation, at 64 tokens of its device, once the one before it has been served. -/
def deferredActivation (controller : Nat) (s : State) : Option State :=
  let s := s.setSide { s.memSide with
    deferred := s.memSide.deferred.filter fun d => d.controller != controller || s.requestStands d.req }
  match s.memSide.deferred.find? fun d => d.controller == controller with
  | none => none
  | some d =>
    if d.granted ∨ Table.getD s.memSide.served controller 0 = s.refreshSlot + 1 then none
    else
      let s := s.setSide { s.memSide with
        deferred := modifyFirst (fun x => x == d) (fun x => { x with granted := true }) s.memSide.deferred
        served := Table.put s.memSide.served controller (s.refreshSlot + 1) }
      some (s.takeTokens controller d.vdev 64)

/-- DEFERRED_ACTIVATION (R343). -/
def execDeferredActivation (controller : Nat) (s : State) : Host.Outcome State Fault Refusal :=
  finish s (deferredActivation controller s)

end Sys2Proof.Machine
end

