-- ==== Sys2Proof/Machine/Power.lean ====
section
/-!
DEFINITION. Sys2Proof/Machine/Power.lean: the bellows (R33 to R35), the coolant thresholds (R36), and the data-rate points of
the stacks (R35).
-/

namespace Sys2Proof.Machine

/-! ## The bellows (R33 to R36) -/

/-- A rate in sixteenths, no lower than `floor`. -/
def clampRate (floor r : Nat) : Nat := max floor (min 16 r)

/-- The floor of a stove's budget, in tenths of a watt (R34). -/
def stoveFloor : Nat := 400

/-- A stove held at the floor of R34. -/
def Stove.atFloor (x : Stove) : Stove := { x with stoveBudget := 400, matrixRate := 4, startRate := 1 }

/-- A stove that meets its budget in the two stages of R34: its firing starts are limited only where its matrix starts are at 4/16. -/
def Stove.limitRates (x : Stove) (matrix start : Nat) : Stove :=
  let m := clampRate 4 matrix
  { x with matrixRate := m, startRate := if m = 4 then clampRate 1 start else 16 }

/-- The points that channels change to for a plan: those that differ from the present ones. Point 3 is not produced (R19). -/
def Stove.changesTo (x : Stove) (l : Table (BitVec 2)) : Table (BitVec 2) :=
  l.filter fun (k, p) => p != 3 && p != Table.getD x.points k 0

/-- One stack's division: while a channel changes its point the budget waits, with the points that meet it (R35). -/
def Stove.divideStack (x : Stove) (budget : BitVec 16) (l : Table (BitVec 2)) : Stove :=
  if x.changing.isEmpty then { x with stackBudget := budget, changing := x.changesTo l }
  else { x with nextBudget := some (budget, l) }

/-- The division of a stack that stands: the one that waits for a change of point, or the one in force (R35). -/
def Stove.standing (x : Stove) : BitVec 16 × Table (BitVec 2) := x.nextBudget.getD (x.stackBudget, [])

/-- Points by channel number. -/
def pointsOf (l : List (BitVec 2)) : Table (BitVec 2) := l.zipIdx.map fun (r, k) => (k, r)

/-- A plan's division for stove `n`: its budget, never below 40 W, and its stack's, the standing ones where the plan lists none (R33, R34). -/
def planStove (p : PowerPlan) (x : Stove) (n : Nat) : Nat := max stoveFloor ((p.stoveBudget.getD n x.stoveBudget).toNat)
def planStack (p : PowerPlan) (x : Stove) (n : Nat) : Nat := (p.stackBudget.getD n x.standing.1).toNat
def planPoints (p : PowerPlan) (n : Nat) : Table (BitVec 2) := pointsOf (p.ratePoints.getD n [])

/-- Whether a plan divides no more than the module's 2,400 W among all the stoves and the stacks (R33). -/
def State.planAdmitted (s : State) (p : PowerPlan) : Bool :=
  ((s.mod.stoves.zipIdx).map fun (x, n) => planStove p x n + Config.stackPower (planStack p x n)).sum ≤ 24000

/-- A budget lowered in the proportion that the bellows takes above the coolant limit (R36). -/
def State.lowered (s : State) (b : Nat) : Nat :=
  b * (Config.coolShare s.mod.inlet.toNat s.mod.limit.toNat).toNat / 256

/-- The slower of two choices of points, channel by channel. -/
def slower (l m : Table (BitVec 2)) : Table (BitVec 2) :=
  m.foldl (fun t (k, r) => Table.put t k (if r.toNat < (Table.getD l k 0).toNat then Table.getD l k 0 else r)) l

/-- The stove part of a millisecond's division: by the plan, where there is one, and above the coolant limit lowered, never below the floor,
with rates no higher than before (R34, R36). -/
def State.divideStove (s : State) (p : Option PowerPlan) (cool : Bool) (n : Nat) (x : Stove) : Stove :=
  let x := match p with
    | some p => { x with stoveBudget := BitVec.ofNat 16 (planStove p x n) }.limitRates (p.matrixRate.getD n 16) (p.startRate.getD n 16)
    | none => x
  if cool then
    let b := max stoveFloor (s.lowered x.stoveBudget.toNat)
    let r := Config.coolRates b
    { x with stoveBudget := BitVec.ofNat 16 b }.limitRates (min x.matrixRate (r.1.toNat + 1)) (min x.startRate (r.2.toNat + 1))
  else x

/-- Its stack part: the plan's budget and points or those that stand, and above the coolant limit the lowered budget and points that meet
it, no faster than those (R35, R36). -/
def State.stackPart (s : State) (p : Option PowerPlan) (cool : Bool) (n : Nat) (x : Stove) : BitVec 16 × Table (BitVec 2) :=
  let y := match p with
    | some p => (BitVec.ofNat 16 (planStack p x n), planPoints p n)
    | none => x.standing
  if cool then
    let b := s.lowered y.1.toNat
    (BitVec.ofNat 16 b, slower (if y.2.isEmpty then x.points else y.2) (pointsOf (Config.coolPoints b)))
  else y

/-- The division of a millisecond. The present budgets and the rates that meet them stand where the bellows has none to set (R33, R34);
above the limit every budget is lowered once, and every later plan's budgets with it (R36), and above the critical limit every stove is held at the floor. -/
def State.divide (s : State) (p : Option PowerPlan) : State :=
  let cool := decide (s.mod.limit.toNat < s.mod.inlet.toNat) && (s.mod.crossed || p.isSome)
  (List.range 12).foldl (init := s) fun t n =>
    t.modStove n fun x =>
      let y := s.stackPart p cool n x
      let z := s.divideStove p cool n x
      let z := if p.isSome || cool then z.divideStack y.1 y.2 else z
      if s.mod.held then z.atFloor else z

/-- The record of each stove that limits firing starts (R34). -/
def State.postFloors (s : State) : State :=
  (List.range 12).foldl (init := s) fun s n =>
    if (s.stove n).startRate < 16 then s.postHardware 0x22 9 0 [] else s

/-- BELLOWS_TICK (R33): the division that the bellows has made takes effect at a millisecond boundary. -/
def bellowsTick (s : State) : Option State :=
  if s.cycle / cyclesPerMs ≤ s.mod.bellowsMs then none
  else
    let p := s.env.plans.head?.bind fun p => if s.planAdmitted p then some p else none
    let s := { s with env := { s.env with plans := s.env.plans.drop 1 } }
    let s := (s.divide p).postFloors
    some (s.setMod { s.mod with bellowsMs := s.mod.bellowsMs + 1, crossed := false })

/-- BELLOWS_TICK (R33). -/
def execBellowsTick (s : State) : Host.Outcome State Fault Refusal := finish s (bellowsTick s)

/-! ## Coolant (R36) -/

/-- COOLANT_THRESHOLD_CROSS (R36): the inlet temperature becomes the next that the coolant shows. One that passes the limit posts a
hardware record, and so, by the model's choice, does one that passes the critical limit (assumption entry 95); above the critical limit
every stove is held at the floor until the temperature is below the limit again. -/
def coolantThresholdCross (s : State) : Option State :=
  match s.env.inlets with
  | [] => none
  | t :: rest =>
    let s := { s with env := { s.env with inlets := rest } }
    let old := s.mod.inlet.toNat
    let crossed (l : BitVec 16) : Bool := old ≤ l.toNat && l.toNat < t.toNat
    let post := crossed s.mod.limit || crossed s.mod.critical
    let held := if s.mod.critical.toNat < t.toNat then true else s.mod.held && s.mod.limit.toNat ≤ t.toNat
    let s := s.setMod { s.mod with inlet := t, held := held, crossed := s.mod.crossed || crossed s.mod.limit }
    let s := if held then s.setMod { s.mod with stoves := s.mod.stoves.map Stove.atFloor } else s
    some (if post then s.postHardware 0x22 9 0 [] else s)

/-- COOLANT_THRESHOLD_CROSS (R36). -/
def execCoolantThresholdCross (s : State) : Host.Outcome State Fault Refusal := finish s (coolantThresholdCross s)

/-! ## Data-rate points (R35) -/

/-- A stack none of whose channels is changing: a budget that arrived meanwhile takes effect, and the points that meet it are taken up
(R35). -/
def Stove.takeBudget (x : Stove) : Stove :=
  match x.nextBudget with
  | some (b, l) => if x.changing.isEmpty then ({ x with nextBudget := none }).divideStack b l else x
  | none => x

/-- RATE_POINT_CHANGE_DONE (R35): a channel's change of point takes effect; after the last one a waiting budget does. -/
def ratePointChangeDone (k : StackChannel) (s : State) : Option State :=
  match Table.get? (s.stove k.stack).changing k.index with
  | none => none
  | some r =>
    some (s.modStove k.stack fun x =>
      { x with points := Table.put x.points k.index r, changing := Table.erase x.changing k.index }.takeBudget)

/-- RATE_POINT_CHANGE_DONE (R35). -/
def execRatePointChangeDone (channel : StackChannel) (s : State) : Host.Outcome State Fault Refusal :=
  finish s (ratePointChangeDone channel s)

end Sys2Proof.Machine
end

