-- ==== Sys2Proof/Machine/Retire.lean ====
section
/-!
DEFINITION. Sys2Proof/Machine/Retire.lean: retirement of hearths, stacks, bulk packages, ports and cores (R37 to R39, R41), and
repairs made in service (R40).
-/

namespace Sys2Proof.Machine

/-- A retired part recorded in the mirrored flash (R41). -/
def State.recordRetired (s : State) (p : Part) : State :=
  if s.mod.flash.retired.contains p then s
  else s.setMod { s.mod with flash := { s.mod.flash with retired := s.mod.flash.retired ++ [p] } }

/-! ## Hearths (R38) -/

/-- A 4-bit field of HEARTH_MAP_n replaced. -/
def setMapField (map : BitVec 60) (p v : Nat) : BitVec 60 :=
  BitVec.ofNat 60 (map.toNat - bitsOf map.toNat (4 * p + 3) (4 * p) * 16 ^ p + v * 16 ^ p)

/-- A stove whose physical hearth `p` leaves logical index `i`: the unused spare takes the index (R10, R20, R21). -/
def Stove.retireHearth (x : Stove) (p i : Nat) : Stove :=
  let x := { x with hearthEnable := x.hearthEnable &&& ~~~(BitVec.ofNat 15 (2 ^ p)), hearthMap := setMapField x.hearthMap p 15 }
  if x.spareUsed then x
  else
    { x with spareUsed := true, hearthEnable := x.hearthEnable ||| BitVec.ofNat 15 (2 ^ x.spare.toNat)
             hearthMap := setMapField x.hearthMap x.spare.toNat i }

/-- Slot-table indices of the charges that stand on a hearth. -/
def State.chargesOn (s : State) (h : Nat) : List Nat :=
  (s.fab.charges.filter fun (_, c) => c.phase != .swapped && c.region.contains h).map (·.1)

/-- Storage that comes into use, or leaves it, as storage that holds nothing: every listed byte of a range unlisted. -/
def State.clearRange (s : State) (lo hi : Nat) : State :=
  let s := (s.mem.filter fun c => lo ≤ c.1 && c.1 < hi).foldl (fun s c => s.putByte c.1 0) s
  s.setSide { s.memSide with poison := s.memSide.poison.filter fun b => b < lo / 64 || hi / 64 ≤ b }

/-- HEARTH_RETIRE (R38): retirement begins, and the charges on the hearth freeze and are swapped out; once none stands there,
the dampers close and the spare takes the logical index. The assignment is recorded in flash (R10). -/
def hearthRetire (hearth : Nat) (s : State) : Option State :=
  let n := stoveOf hearth
  match physicalOf (s.stove n).hearthMap (logicalOf hearth) with
  | none => none
  | some p =>
    if hearthCount ≤ hearth then none
    else if (s.hearth hearth).retiring = false then
      some ((s.chargesOn hearth).foldl State.startSwap (s.modHearth hearth fun x => { x with retiring := true }))
    else if s.chargesOn hearth ≠ [] ∨ (s.hearth hearth).shadow.isSome then none
    else
      let s := (s.modStove n fun x => x.retireHearth p (logicalOf hearth)).clearRange (padAddr hearth 0) (padAddr (hearth + 1) 0)
      let s := s.modHearth hearth fun _ => Hearth.reset
      let x := s.stove n
      some (s.setMod { s.mod with flash :=
        { s.mod.flash with assignment := Table.put s.mod.flash.assignment n (x.hearthEnable, x.hearthMap) } })

/-- HEARTH_RETIRE (R38). -/
def execHearthRetire (hearth : Nat) (s : State) : Host.Outcome State Fault Refusal := finish s (hearthRetire hearth s)

/-! ## Stacks and bulk packages (R39) -/

/-- Whether a frame lies in a stack or a bulk package. -/
def frameIn (p : Part) (frame : Nat) : Bool :=
  match p, tierOf (frame * 65536) with
  | .stack n, some 0 => frame * 65536 / 2 ^ 36 == n
  | .bulk n, some 1 => (frame * 65536 - bulkBase) / 2 ^ 37 == n
  | _, _ => false

/-- stack_state or bulk_state of a part. -/
def State.partState (s : State) (p : Part) : Option (BitVec 4) :=
  match p with
  | .stack n => if n < 12 then some (s.stove n).stackState else none
  | .bulk n => if n < 12 then some (s.stove n).bulkState else none
  | _ => none

def State.setPartState (s : State) (p : Part) (v : BitVec 4) : State :=
  match p with
  | .stack n => s.modStove n fun x => { x with stackState := v }
  | .bulk n => s.modStove n fun x => { x with bulkState := v }
  | _ => s

/-- PART_RETIRE (R39 steps 1 and 2): the part drains; moves toward it that have not written their leaf abort with cause 5. -/
def partRetire (part : Part) (s : State) : Option State :=
  match s.partState part with
  | none => none
  | some st =>
    if st = 2 ∨ st = 3 then none
    else
      let s := s.setPartState part 2
      some ((s.memSide.moves.filter fun m => frameIn part m.dst).foldl (fun s m => s.abortMove m 5) s)

/-- PART_RETIRE (R39). -/
def execPartRetire (part : Part) (s : State) : Host.Outcome State Fault Refusal := finish s (partRetire part s)

/-- Whether a stage W tree, searched from `level`, maps a resident or moving page for whose frames (the first, and their
number) `p` holds. -/
def mapsAny (s : State) (p : Nat → Nat → Bool) : Nat → Nat → Nat → Bool
  | 0, _, _ => false
  | fuel + 1, level, table =>
    (List.range 1024).any fun i =>
      let e := s.loadHome (table + 8 * i) 8
      if !(bitOf e 0) then false
      else if bitOf e 1 ∧ level < 3 then tableEntryOk true e && mapsAny s p fuel (level + 1) (bitsOf e 55 13 * 8192)
      else decide (2 ≤ level) && decide (leafState e < 2) && p (bitsOf e 55 16) (if level = 3 then 1 else 1024)

/-- Whether some page of a partition, or one end of a move, lies in frames for which `p` holds. -/
def State.pagesIn (s : State) (p : Nat → Nat → Bool) : Bool :=
  (s.memSide.moves.any fun m => p m.src 1 || p m.dst 1) ||
  s.rootedParts.any fun q => mapsAny s p 4 0 ((s.partRoot (BitVec.ofNat 8 q)).toNat * 8192)

/-- PART_RETIRED (R39 steps 3 to 5): a draining part that holds no page is retired. -/
def partRetired (part : Part) (s : State) : Option State :=
  if s.partState part = some 2 ∧ s.pagesIn (fun f _ => frameIn part f) = false then some ((s.setPartState part 3).recordRetired part) else none

/-- PART_RETIRED (R39). -/
def execPartRetired (part : Part) (s : State) : Host.Outcome State Fault Refusal := finish s (partRetired part s)

/-! ## Ports and cores (R37) -/

/-- Whether a charge uses a port: a chimney stream of it crosses the Ultra Ethernet port, or an extent of it lies in pooled capacity
behind the CXL port. -/
def State.usesPart (s : State) (part : Part) (c : Charge) : Bool :=
  match part with
  | .uet n => c.image.streams.any fun e => (streamOf e).port == n
  | .cxl n => c.extents.any fun x => s.mod.pooled.any fun m =>
      m.port == n && m.base < (x.frame + x.pages) * 65536 && x.frame * 65536 < m.base + m.length
  | _ => false

/-- Slot-table indices of the charges that use a part. -/
def State.chargesUsing (s : State) (part : Part) : List Nat :=
  (s.fab.charges.filter fun (_, c) => c.phase != .swapped && s.usesPart part c).map (·.1)

/-- PORT_OR_CORE_RETIRE (R37, R41): in R38's order, retirement begins and the charges that use the part freeze and are swapped out; once none
is left, the part is recorded as retired. -/
def portOrCoreRetire (part : Part) (s : State) : Option State :=
  let known : Bool := match part with
    | .uet n => n < 24
    | .cxl n => n < 4
    | .core n => n < 20
    | _ => false
  if !known || s.mod.flash.retired.contains part then none
  else if !(s.mod.retiring.contains part) then
    some ((s.chargesUsing part).foldl State.startSwap (s.setMod { s.mod with retiring := s.mod.retiring ++ [part] }))
  else if s.chargesUsing part ≠ [] then none
  else some (s.recordRetired part)

/-- PORT_OR_CORE_RETIRE (R37). -/
def execPortOrCoreRetire (part : Part) (s : State) : Host.Outcome State Fault Refusal := finish s (portOrCoreRetire part s)

/-! ## Repairs in service (R40) -/

/-- Whether the entries of every set of a CE's store fit in `left` ways. -/
def State.setsFit (s : State) (h e left : Nat) : Bool :=
  (List.range 16).all fun set => s.waysElsewhere h e 16 set ≤ left

/-- Whether some join partition of a hearth holds a key in bank `b`. -/
def State.bankBusy (s : State) (h b : Nat) : Bool :=
  (s.hearth h).joins.any fun (_, j) =>
    (s.touchedSlots h j).any fun n => n / 2048 == b && (s.jslot h n j.wide).isSome

/-- IN_SERVICE_REPAIR (R40): rows of a stack spared; ways of a store disabled down to two, which mends its CE (R365); or a bank
of a join accumulator file disabled, once no entry stands in what is taken out of use. -/
def inServiceRepair (repair : Repair) (s : State) : Option State :=
  match repair with
  | .stackRow n =>
    if n < 12 ∧ (s.stove n).stackState ≤ 1 then some (s.modStove n fun x => { x with stackState := 1 }) else none
  | .ways h e left =>
    if h < hearthCount ∧ e < ceCount ∧ 2 ≤ left ∧ left < s.wayCount h e ∧ s.setsFit h e left then
      some (s.modHearth h fun x =>
        { x with ways := Table.put x.ways e left, marked := x.marked.filter (· ≠ e) })
    else none
  | .bank h b =>
    if h < hearthCount ∧ b < 32 ∧ (s.hearth h).banksOff.getLsbD b = false ∧ s.bankBusy h b = false then
      some (s.modHearth h fun x => { x with banksOff := x.banksOff ||| BitVec.ofNat 32 (2 ^ b) })
    else none

/-- IN_SERVICE_REPAIR (R40). -/
def execInServiceRepair (repair : Repair) (s : State) : Host.Outcome State Fault Refusal := finish s (inServiceRepair repair s)

end Sys2Proof.Machine
end

