-- ==== Sys2Proof/Machine/Boot.lean ====
section
/-!
DEFINITION. Sys2Proof/Machine/Boot.lean: module reset and boot (R10, R28, R30 to R32, R40, R41), and the recovery responder (R29).
-/

namespace Sys2Proof.Machine

/-! ## The module that reset leaves -/

/-- Hearth map and enables at manufacture: every hearth but the spare, in ascending order (R10, R20). -/
def manufacturedMap (spare : Nat) : BitVec 60 :=
  BitVec.ofNat 60 ((List.range 15).map fun i => (if i = spare then 15 else if i < spare then i else i - 1) * 16 ^ i).sum

def manufacturedEnable (spare : Nat) : BitVec 15 := ~~~(BitVec.ofNat 15 (2 ^ spare))

/-- A stove after reset: its fuses, the assignment that flash records, and rows spared before stay spared (R10, R40, R41). The spare is
used from the stove's first retirement on, which is the first that flash records (R38), and stays so where it is itself retired later. -/
def Stove.afterReset (x : Stove) (assigned : Option (BitVec 15 × BitVec 60)) : Stove :=
  let sp := x.spare.toNat
  let (en, map) := assigned.getD (manufacturedEnable sp, manufacturedMap sp)
  { Stove.reset with
    spare := x.spare, hearthEnable := en, hearthMap := map, spareUsed := assigned.isSome
    stackState := if x.stackState = 1 then 1 else 0 }

/-- A hearth after reset: nothing but its repairs (R40). -/
def Hearth.afterReset (x : Hearth) : Hearth := { Hearth.reset with ways := x.ways, banksOff := x.banksOff }

/-- The module at stage 1 of boot: every register at its reset value, over fuses, flash, repairs and what the world shows. The
identifiers of the model's own go on. -/
def State.resetModule (s : State) : State :=
  let f := s.mod.flash
  { State.reset with
    mod := { ModRegs.reset with
      flash := f
      stoves := s.mod.stoves.zipIdx.map fun (x, n) => x.afterReset (Table.get? f.assignment n) }
    fab := { Fab.reset with hearths := s.fab.hearths.map fun (h, x) => (h, x.afterReset) }
    env := s.env
    freshIx := s.freshIx
    agenda := s.agenda }

/-! ## Training (R28 stage 3) -/

/-- Parts that fail to train. -/
def failingParts (w : BootWorld) : List Part :=
  ((List.range 12).filter w.badStacks.getLsbD).map Part.stack ++ ((List.range 12).filter w.badBulk.getLsbD).map Part.bulk ++
  ((List.range 24).filter w.badPorts.getLsbD).map Part.uet ++ ((List.range 4).filter w.badCxl.getLsbD).map Part.cxl

/-- Failing parts marked retired; every retired stack and package reads 3 (R19, R41). Type 1 and Type 2 components are left unenumerated and
reported to the wholesaler (R26). -/
def State.train (s : State) : State :=
  let s := (failingParts s.env.world).foldl State.recordRetired s
  let s := s.setMod { s.mod with unenumerated := s.env.world.components.filter fun (n, ty) =>
    n < 4 && (ty == 1 || ty == 2) && !(s.mod.flash.retired.contains (.cxl n)) }
  s.mod.flash.retired.foldl (init := s) fun s p => s.setPartState p 3

/-! ## The boot descriptor (R32) -/

/-- A boot descriptor's fields. -/
structure Descriptor where
  port   : Nat
  dpa    : Nat
  length : Nat
  mbase  : Nat
  entry  : Nat
  digest : List Byte
  deriving DecidableEq, Repr

/-- A descriptor that is laid out as R32 says and carries the wholesaler's signature. DESIGN CHOICE: one whose entry lies outside its region,
or whose region is empty, is not usable either (assumption entry 71). -/
def readDescriptor (key d : List Byte) : Option Descriptor :=
  let f (o n : Nat) : Nat := byteField d o n
  if d.length = 256 ∧ f 0 4 = 0x4A4B4244 ∧ f 4 2 = 1 ∧ (f 6 1 < 4 ∨ f 6 1 = 0xFF) ∧ f 7 1 < 2 ∧ f 8 8 % 65536 = 0 ∧
      f 0x10 8 % 65536 = 0 ∧ f 0x10 8 ≠ 0 ∧ f 0x10 8 ≤ 2 ^ 32 ∧ f 0x18 8 % 65536 = 0 ∧ pooledBase ≤ f 0x18 8 ∧
      f 0x18 8 + f 0x10 8 ≤ pooledEnd ∧ f 0x20 8 < f 0x10 8 ∧ f 0xB8 72 = 0 ∧ Config.descriptorSigned key d = true then
    some { port := f 6 1, dpa := f 8 8, length := f 0x10 8, mbase := f 0x18 8, entry := f 0x20 8, digest := (d.drop 0x28).take 48 }
  else none

/-- The descriptor that kindling uses: copy A's, or else copy B's. -/
def Flash.descriptor (f : Flash) : Option Descriptor :=
  (readDescriptor f.bootKeyDigest f.a.descriptor).orElse fun _ => readDescriptor f.bootKeyDigest f.b.descriptor

/-- CXL ports that a descriptor names and that have trained, in order (R28, R32). -/
def State.cxlTrained (s : State) (d : Descriptor) : List Nat :=
  (if d.port < 4 then [d.port] else List.range 4).filter fun n => !(s.mod.flash.retired.contains (.cxl n))

/-- The region of a pooled device that a descriptor names: its port, and the bytes from dpa on. -/
def State.bootRegion (s : State) (d : Descriptor) : Option (Nat × List Byte) :=
  (s.cxlTrained d).findSome? fun n =>
    (s.env.world.regions.find? fun r => r.1 == n && r.2.1 == d.dpa && r.2.2.length == d.length).map fun r => (n, r.2.2)

/-! ## Boot (R28) -/

/-- Stage 4: the region mapped read-only with the image attribute, and measured; otherwise the recovery image runs (R30). -/
def State.startFirebox (s : State) : State :=
  let w := s.env.world
  match s.mod.flash.descriptor with
  | some d =>
    match s.bootRegion d with
    | some (n, bytes) =>
      if Config.sha384 bytes = d.digest then
        (s.putBytes d.mbase bytes).setMod { s.mod with
          boot := .epalmig (d.mbase + d.entry)
          pooled := [{ base := d.mbase, length := d.length, image := true, port := n, dpa := d.dpa }], number := w.number }
      else s.setMod { s.mod with boot := .recoveryImage }
    | none => s.setMod { s.mod with boot := .recoveryImage }
  | none => s.setMod { s.mod with boot := .recoveryImage }

/-- Boot from stage 1: kindling from a copy that verifies, or the recovery responder (R29). -/
def State.bootUp (s : State) : State :=
  if Config.kindlingSigned s.mod.flash.a.kindling || Config.kindlingSigned s.mod.flash.b.kindling then s.train.startFirebox
  else s.setMod { s.mod with boot := .recoveryResponder }

/-- MODULE_RESET (R28): memory holds nothing that this model knows of. -/
def execModuleReset (s : State) : Host.Outcome State Fault Refusal :=
  finish { s with mem := [] } (some s.resetModule.bootUp)

/-- RECOVERY_IMAGE_RECEIVE (R29): the responder takes the next image that arrives; one that Jarnak has signed is written to both
copies, and boot restarts. -/
def recoveryImageReceive (s : State) : Option State :=
  match s.mod.boot, s.env.images with
  | .recoveryResponder, img :: rest =>
    let s := { s with env := { s.env with images := rest } }
    if Config.kindlingSigned img then
      let f := s.mod.flash
      some (s.setMod { s.mod with flash :=
        { f with a := { f.a with kindling := img }, b := { f.b with kindling := img } } }).bootUp
    else some s
  | _, _ => none

/-- RECOVERY_IMAGE_RECEIVE (R29). -/
def execRecoveryImageReceive (s : State) : Host.Outcome State Fault Refusal := finish s (recoveryImageReceive s)

end Sys2Proof.Machine
end

