-- ==== Sys2Proof/Machine/FloatArith.lean ====
section
/-!
DEFINITION. Sys2Proof/Machine/FloatArith.lean: floating point (R161 to R167), under the policy word of the block (R115).
-/

namespace Sys2Proof.Machine

def WordA.rnd (w : WordA) : Nat := w.mode.toNat

/-- FMA and FNMA (R162): the parameter is the addend. -/
def fmaFiring (neg : Bool) (w : WordA) (s : State) : Option State :=
  elementwise w w.fmt (fun s F o =>
    let c := readFlt F.policy w.fmt (s.paramVal F (w.imm.toNat % 64) w.fmt.bits)
    fltFma F.policy w.fmt (WordA.rnd w) w.sat (readFlt F.policy w.fmt (o.l.getD 0))
      (readFlt F.policy w.fmt (o.r.getD 0)) c neg) s

/-- FSCAL's operands (R162): R is s32 at every position, an immediate included. -/
def fscalOperands (w : WordA) (s : State) (F : Fire) : List Opnd :=
  F.f.pos.map fun q =>
    { iter := q.iter
      l := if w.isel = 1 then some (immVal w.fmt w.imm) else q.l
      r := if w.isel = 2 then some (mkVal .s32 (wrapInt 32 (signedOf 21 w.imm.toNat)))
           else if w.isel = 3 then some (s.paramVal F (w.imm.toNat % 64) 32) else q.r
      p := q.p }

/-- FSCAL (R162). -/
def fscalFiring (w : WordA) (s : State) : Option State :=
  elementwiseWith w w.fmt (fscalOperands w) (fun _ F o =>
    fltScal F.policy w.fmt (WordA.rnd w) w.sat (readFlt F.policy w.fmt (o.l.getD 0)) (fmtInt .s32 (o.r.getD 0))) s

/-- An operation on the bits as they stand (R164, R166). -/
def rawElem (w : WordA) (out : Fmt) (op : Nat → Nat → Nat) (s : State) : Option State :=
  elementwise w out (fun _ _ o => (op (elemBits w.fmt (o.l.getD 0)) (elemBits w.fmt (o.r.getD 0)), 0)) s

/-- The sign bit's weight. -/
def signBit (f : Fmt) : Nat := 2 ^ (f.bits - 1)

/-! ## Meanings -/

/-- FADD (R162). -/
def execFadd (w : WordA) (s : State) : Host.Outcome State Fault Refusal :=
  finish s (fltElem w (fun p a b => fltAdd p w.fmt (WordA.rnd w) w.sat a b) s)

/-- FSUB (R162): the sum with the second operand's sign reversed; a NaN operand is propagated as it came (R117). -/
def execFsub (w : WordA) (s : State) : Host.Outcome State Fault Refusal :=
  finish s (fltElem w (fun p a b => sumFlt p w.fmt (WordA.rnd w) w.sat a (negF b) [a, b]) s)

/-- FMUL (R162). -/
def execFmul (w : WordA) (s : State) : Host.Outcome State Fault Refusal :=
  finish s (fltElem w (fun p a b => fltMul p w.fmt (WordA.rnd w) w.sat a b) s)

/-- FMA (R162). -/
def execFma (w : WordA) (s : State) : Host.Outcome State Fault Refusal := finish s (fmaFiring false w s)

/-- FNMA (R162). -/
def execFnma (w : WordA) (s : State) : Host.Outcome State Fault Refusal := finish s (fmaFiring true w s)

/-- FMIN (R163). -/
def execFmin (w : WordA) (s : State) : Host.Outcome State Fault Refusal :=
  finish s (fltElem w (fun p a b => fltMinMax p w.fmt false a b) s)

/-- FMAX (R163). -/
def execFmax (w : WordA) (s : State) : Host.Outcome State Fault Refusal :=
  finish s (fltElem w (fun p a b => fltMinMax p w.fmt true a b) s)

/-- FABS (R164). -/
def execFabs (w : WordA) (s : State) : Host.Outcome State Fault Refusal :=
  finish s (rawElem w w.fmt (fun a _ => a % signBit w.fmt) s)

/-- FNEG (R164). -/
def execFneg (w : WordA) (s : State) : Host.Outcome State Fault Refusal :=
  finish s (rawElem w w.fmt (fun a _ => a ^^^ signBit w.fmt) s)

/-- FCMP (R165). -/
def execFcmp (w : WordA) (s : State) : Host.Outcome State Fault Refusal :=
  finish s (elementwise w .b1 (fun _ F o =>
    let r := fltCond w.mode.toNat (readFlt F.policy w.fmt (o.l.getD 0)) (readFlt F.policy w.fmt (o.r.getD 0))
    (boolNat r.1, r.2)) s)

/-- FCLASS (R166). -/
def execFclass (w : WordA) (s : State) : Host.Outcome State Fault Refusal :=
  finish s (rawElem w .n32 (fun a _ => fltClass w.fmt a) s)

/-- FRND (R167). -/
def execFrnd (w : WordA) (s : State) : Host.Outcome State Fault Refusal :=
  finish s (fltUnary w (fun p a => fltRnd p w.fmt (WordA.rnd w) a) s)

/-- FDIV (R162). -/
def execFdiv (w : WordA) (s : State) : Host.Outcome State Fault Refusal :=
  finish s (fltElem w (fun p a b => fltDiv p w.fmt (WordA.rnd w) w.sat a b) s)

/-- FSQRT (R162). -/
def execFsqrt (w : WordA) (s : State) : Host.Outcome State Fault Refusal :=
  finish s (fltUnary w (fun p a => fltSqrt p w.fmt (WordA.rnd w) a) s)

/-- FSCAL (R162). -/
def execFscal (w : WordA) (s : State) : Host.Outcome State Fault Refusal := finish s (fscalFiring w s)

/-- FCPYS (R164). -/
def execFcpys (w : WordA) (s : State) : Host.Outcome State Fault Refusal :=
  finish s (rawElem w w.fmt (fun a b => a % signBit w.fmt + b / signBit w.fmt * signBit w.fmt) s)

end Sys2Proof.Machine
end

