-- ==== Sys2Proof/Machine/Ports.lean ====
section
/-!
DEFINITION. Sys2Proof/Machine/Ports.lean: modes of the Ultra Ethernet ports (R22, R23), a port going down (R25, R237), the
pooled tier's mappings (R27), and accesses from other modules (R190).
-/

namespace Sys2Proof.Machine

/-! ## Port modes (R22, R23) -/

/-- Streams of charge `c` that cross a port: their indices and roles. -/
def Charge.streamsAt (c : Charge) (port : Nat) : List (Nat × Nat) :=
  (c.image.streams.map fun e => ((streamOf e).port, (e.extractLsb' 8 8).toNat, (streamOf e).role)).filterMap fun x =>
    if x.1 = port then some x.2 else none

/-- Whether the retry buffer of a port is empty: every run handed to its link is acknowledged there. -/
def State.retryEmpty (s : State) (port : Nat) : Bool := (s.port port).retained == 0

/-- A quiesced port (R23): no charge declares a stream on it, no transfer is outstanding, and its retry buffer is empty. -/
def State.quiesced (s : State) (port : Nat) : Bool :=
  (s.fab.charges.all fun (_, c) => (c.streamsAt port).isEmpty) && (s.port port).transfers == 0 && s.retryEmpty port

/-- A write of PORT_n.mode: 2 and 3 are discarded, and a change is refused with BUSY on a port that is not quiesced. -/
def State.writeMode (s : State) (port : Nat) (mode : BitVec 2) : State :=
  if mode = 2 ∨ mode = 3 ∨ s.portPresent port = false then s
  else if (s.port port).mode = mode ∨ s.quiesced port then s.modPort port fun x => { x with mode := mode, busy := false }
  else s.modPort port fun x => { x with busy := true }

/-- PORT_MODE_WRITE (R23). -/
def execPortModeWrite (port : Nat) (mode : BitVec 2) (s : State) : Host.Outcome State Fault Refusal :=
  finish s (some (s.writeMode port mode))

/-! ## A port down (R25, R237) -/

/-- PORT_DOWN (R25): a flit has exhausted the retry limit. The wholesaler has a record, and every stream that crosses the port
is delivered ABORT. -/
def portDown (port : Nat) (s : State) : Option State :=
  if s.portPresent port = false ∨ (s.port port).mode = 2 then none
  else
    let s := (s.modPort port fun x => { x with mode := 2, retained := 0 }).postHardware 0x23 8 0 []
    some (s.fab.charges.foldl (init := s) fun s (b, c) =>
      (c.streamsAt port).foldl (init := s) fun s (k, role) =>
        if (s.charge? b).isSome then s.deliverAbort b k role (abortFrame c.ctx) else s)

/-- PORT_DOWN (R25). -/
def execPortDown (port : Nat) (s : State) : Host.Outcome State Fault Refusal := finish s (portDown port s)

/-! ## The pooled tier (R27) -/

/-- Whether frames lie in a range of machine space. -/
def framesMeet (base length first count : Nat) : Bool := first * 65536 < base + length && base < (first + count) * 65536

/-- A range of the pooled window, in whole frames. -/
def pooledRange (base length : Nat) : Bool :=
  base % 65536 = 0 && length % 65536 = 0 && length ≠ 0 && pooledBase ≤ base && base + length ≤ pooledEnd

/-- POOLED_CAPACITY_CHANGE (R27): the wholesaler maps added capacity of a CXL port, or unmaps capacity to be released; that is refused while
it holds mapped pages, and for the image that the module executes (R32). DESIGN CHOICE: a release names exactly one whole earlier mapping,
the spec being silent on how much of a mapping one release takes (assumption entry 98). -/
def pooledCapacityChange (place : CxlPlace) (length : Nat) (release : Bool) (s : State) : Option State :=
  let base := place.base
  let maps := s.mod.pooled
  if !(pooledRange base length) ∨ 4 ≤ place.port then none
  else if release then
    if (maps.any fun m => m.base == base && m.length == length && m.port == place.port && !m.image) &&
        !(s.pagesIn (framesMeet base length)) then
      some ((s.clearRange base (base + length)).setMod { s.mod with pooled := maps.filter fun m => m.base != base })
    else some s
  else if s.mod.flash.retired.contains (.cxl place.port) ∨ maps.any fun m => m.base < base + length && base < m.base + m.length then
    some s
  else some (s.setMod { s.mod with
    pooled := maps ++ [{ base := base, length := length, image := false, port := place.port, dpa := 0 }] })

/-- POOLED_CAPACITY_CHANGE (R27). -/
def execPooledCapacityChange (place : CxlPlace) (length : Nat) (release : Bool) (s : State) : Host.Outcome State Fault Refusal :=
  finish s (pooledCapacityChange place length release s)

/-! ## Accesses from other modules (R190, R305) -/

/-- The fault of a refused access, for the level that owns it here. -/
def State.remoteRefused (s : State) (x : RemoteAccess) (code : Nat) (stageW : Bool) (addr : Nat) : State :=
  s.post { s.faultRec 1024 code 0 with
    stageW := stageW, partition := (s.aspace x.aspace).partition.toNat, address := BitVec.ofNat 64 addr, unit := 8 }

/-- REMOTE_ACCESS_RECEIVE (R190): translated through the descriptor of the charge's number, and performed or refused. None is taken while
the ROM waits for a recovery image (R29). -/
def remoteAccessReceive (access : RemoteAccess) (phys : Phys) (s : State) : Option State :=
  let va := access.vaddr.toNat
  if s.mod.boot = .recoveryResponder then none
  else match s.accessDomain access.aspace access.cid va (elemBytes access.fmt access.wide) access.op
      (Machine.policyOf access.policy) access.fmt access.r access.p phys with
  | .ok (_, _, s) => some s
  | .error (.fault code w _, s) => some (s.remoteRefused access code w va)
  | .error (.waits, _) => none

/-- REMOTE_ACCESS_RECEIVE (R190). -/
def execRemoteAccessReceive (access : RemoteAccess) (phys : Phys) (s : State) : Host.Outcome State Fault Refusal :=
  finish s (remoteAccessReceive access phys s)

end Sys2Proof.Machine
end

