-- ==== Sys2Proof/Machine/Windows.lean ====
section
/-!
DEFINITION. Sys2Proof/Machine/Windows.lean: writes into the hearth slots (R186, R188, R195, R259, R270), and writes to the
registers of the firebox management window (R4, R19, R20, R43, R297, R300, R312, R322 to R324, R327, R334, R335, R345, R346,
R350, R352, R364, R368) and to a conductor thread's CSRs.
-/

namespace Sys2Proof.Machine

/-! ## Hearth slots -/

/-- Whether an agent reaches the slot of a hearth (R187): the wholesaler, and the levels whose partition holds the hearth. -/
def State.reachesSlot (s : State) (a : Agent) (h : Nat) : Bool :=
  s.hearthPresent h &&
  (match a with
   | .wholesaler => true
   | .reseller p => (s.hearth h).owner == some p
   | .tenant v => (s.hearth h).owner == some (s.vdev v).partition.toNat
   | .core _ => false)

/-- Bytes written into the scratchpad window, beat by beat. -/
def State.padWrite (s : State) (h off : Nat) (bs : List Byte) : State :=
  let pieces := (List.range ((off + bs.length + 63) / 64 - off / 64)).map (beatPiece off bs)
  let ok (x : Nat × List Byte) : Bool := !(s.tileBlocks h x.1)
  let s := if pieces.all ok then s else s.countWindow
  (pieces.filter ok).foldl (fun s (o, l) => s.store (padAddr h o) l) s

/-- Bytes written into the join accumulator window. -/
def State.jafWrite (s : State) (h off : Nat) (bs : List Byte) : State := s.store (jafAddr h 0 + off) (jafBytes off bs)

/-- Windows of a slot: first offset, end, and number (R186). -/
def slotWindows : List (Nat × Nat × Nat) :=
  [(0, 0x800000, 0), (0x800000, 0xC00000, 1), (0xC00000, 0xC00200, 2), (0xC10000, 0xC20000, 3), (0xD00000, 0xD30000, 4),
   (0xE00000, 0xEC0000, 5)]

/-- The device of an agent that injects tokens: only a tenant has charges (R188). -/
def deviceOf (a : Agent) : Option Nat :=
  match a with
  | .tenant v => some v
  | _ => none

/-- The part of a write that falls into one window. -/
def State.windowWrite (s : State) (a : Agent) (h off : Nat) (bs : List Byte) (w : Nat × Nat × Nat) : State :=
  let (lo, hi, k) := w
  let first := max lo off
  let last := min hi (off + bs.length)
  if last ≤ first then s
  else
    let l := (bs.drop (first - off)).take (last - first)
    match k with
    | 0 => s.padWrite h first l
    | 1 => s.jafWrite h (first - lo) l
    | 4 => s.store (padAddr h first) l
    | 5 => s.injectWrite h (first - lo) (deviceOf a) l
    | _ => s.countWindow

/-- Bytes of a write that some window lists. -/
def listedBytes (off n : Nat) : Nat :=
  (slotWindows.map fun (lo, hi, _) => min hi (off + n) - max lo off).sum

/-- A write of an agent at an offset of a hearth's slot. -/
def State.slotWrite (s : State) (a : Agent) (h off : Nat) (bs : List Byte) : State :=
  if !(s.reachesSlot a h) then s.countWindow
  else
    let s := if listedBytes off bs.length < bs.length then s.countWindow else s
    slotWindows.foldl (fun s w => s.windowWrite a h off bs w) s

/-- HEARTH_SLOT_WRITE (R186). -/
def hearthSlotWrite (agent : Agent) (addr : Nat) (bytes : List Byte) (s : State) : Option State :=
  if slotBase ≤ addr ∧ addr < slotEnd ∧ bytes ≠ [] ∧ !(s.jafHeldAt addr bytes.length) then
    some (s.slotWrite agent ((addr - slotBase) / slotSize) ((addr - slotBase) % slotSize) bytes)
  else none

/-- HEARTH_SLOT_WRITE (R186). -/
def execHearthSlotWrite (agent : Agent) (addr : Nat) (bytes : List Byte) (s : State) : Host.Outcome State Fault Refusal :=
  finish s (hearthSlotWrite agent addr bytes s)

/-- PARAM_WINDOW_WRITE (R186): a firing reads every register before or after the write, a step being one or the other. -/
def paramWindowWrite (agent : Agent) (hearth ce ctx reg : Nat) (value : BitVec 32) (s : State) : Option State :=
  if ceCount ≤ ce ∨ 16 ≤ ctx ∨ 64 ≤ reg then none
  else if !(s.reachesSlot agent hearth) then some s.countWindow
  else some (s.store (paramAddr hearth ce ctx reg) (leBytes 4 value.toNat))

/-- PARAM_WINDOW_WRITE (R186). -/
def execParamWindowWrite (agent : Agent) (hearth ce ctx reg : Nat) (value : BitVec 32) (s : State) :
    Host.Outcome State Fault Refusal :=
  finish s (paramWindowWrite agent hearth ce ctx reg value s)

/-- JAF_WINDOW_WRITE (R270): the slot changes at once, between two operations of the partition; a drain is one. -/
def jafWindowWrite (agent : Agent) (hearth offset : Nat) (bytes : List Byte) (s : State) : Option State :=
  if 0x400000 < offset + bytes.length then none
  else if !(s.reachesSlot agent hearth) then some s.countWindow
  else if s.jafHeld hearth offset bytes.length then none
  else some (s.jafWrite hearth offset bytes)

/-- JAF_WINDOW_WRITE (R270). -/
def execJafWindowWrite (agent : Agent) (hearth offset : Nat) (bytes : List Byte) (s : State) :
    Host.Outcome State Fault Refusal :=
  finish s (jafWindowWrite agent hearth offset bytes s)

/-- INJECTION_WRITE (R188). -/
def injectionWrite (agent : Agent) (hearth offset : Nat) (bytes : List Byte) (s : State) : Option State :=
  if 0xC0000 < offset + bytes.length then none
  else if !(s.reachesSlot agent hearth) then some s.countWindow
  else some (s.injectWrite hearth offset (deviceOf agent) bytes)

/-- INJECTION_WRITE (R188). -/
def execInjectionWrite (agent : Agent) (hearth offset : Nat) (bytes : List Byte) (s : State) :
    Host.Outcome State Fault Refusal :=
  finish s (injectionWrite agent hearth offset bytes s)

/-! ## Registers of the management window -/

/-- The registers. -/
inductive Reg where
  | stoveState (n : Nat) | hearthMap (n : Nat) | integ (n : Nat)
  | damperRej | windowRej | exitedDrop | coolant | actLimit
  | port (n : Nat) | mmCount (p : Nat) | injRej (h : Nat)
  | migReq (p : Nat) | migPool (n : Nat) | xsdReq (p : Nat)
  | aspace (a : Nat) | vdev (v : Nat) | uintLost (v : Nat) | part (p : Nat)
  | schedList | schedHead | ctxPool
  | fltRing (n : Nat) | fltAct (n : Nat)
  | qdb (v q : Nat) | slot (i : Nat)
  /-- the Jarnak CSRs of a hart -/
  | csr (core : Nat)
  deriving DecidableEq, Repr

/-- Where the harts' CSRs stand among the offsets of REGISTER_WRITE, 32 bytes a hart: the spec numbers no CSR (assumption entry 65). -/
def csrBase : Nat := 0x8000000

/-- The register that holds an offset, with its first offset and its bytes. -/
def regAt (o : Nat) : Option (Reg × Nat × Nat) :=
  let at_ (base step size : Nat) (r : Nat → Reg) : Option (Reg × Nat × Nat) :=
    let n := (o - base) / step
    if (o - base) % step < size then some (r n, base + step * n, size) else none
  let level (n : Nat) : Bool := n < 168 || n == 255
  if o < 0x300 then if o % 0x40 < 8 then at_ 0 0x40 8 .stoveState else if o % 0x40 < 16 then
    some (.hearthMap (o / 0x40), o / 0x40 * 0x40 + 8, 8) else none
  else if 0x800 ≤ o ∧ o < 0x8C0 then at_ 0x800 16 8 .integ
  else if 0xC00 ≤ o ∧ o < 0xC28 then
    at_ 0xC00 8 8 fun k => match k with | 0 => .damperRej | 1 => .windowRej | 2 => .exitedDrop | 3 => .coolant | _ => .actLimit
  else if 0xE00 ≤ o ∧ o < 0xF80 then at_ 0xE00 16 16 .port
  else if 0x1000 ≤ o ∧ o < 0x1540 then at_ 0x1000 8 8 .mmCount
  else if 0x2000 ≤ o ∧ o < 0x2540 then at_ 0x2000 8 8 .injRej
  else if 0x3000 ≤ o ∧ o < 0x5000 then (if level ((o - 0x3000) / 32) then at_ 0x3000 32 32 .migReq else none)
  else if 0x5000 ≤ o ∧ o < 0x6000 then at_ 0x5000 16 16 .migPool
  else if 0x6000 ≤ o ∧ o < 0x8000 then (if level ((o - 0x6000) / 32) then at_ 0x6000 32 32 .xsdReq else none)
  else if 0x10000 ≤ o ∧ o < 0x20000 then at_ 0x10000 16 16 .aspace
  else if 0x20000 ≤ o ∧ o < 0x24000 then at_ 0x20000 16 16 .vdev
  else if 0x24000 ≤ o ∧ o < 0x26000 then at_ 0x24000 8 8 .uintLost
  else if 0x30000 ≤ o ∧ o < 0x30A80 then at_ 0x30000 16 16 .part
  else if 0x40000 ≤ o ∧ o < 0x40010 then at_ 0x40000 8 8 fun k => if k = 0 then .schedList else .schedHead
  else if 0x40010 ≤ o ∧ o < 0x40020 then at_ 0x40010 16 16 fun _ => .ctxPool
  else if 0x50000 ≤ o ∧ o < 0x52000 then
    if level ((o - 0x50000) / 32) then
      if (o - 0x50000) % 32 < 16 then at_ 0x50000 32 16 .fltRing
      else if (o - 0x50000) % 32 < 24 then some (.fltAct ((o - 0x50000) / 32), 0x50010 + (o - 0x50000) / 32 * 32, 8) else none
    else none
  else if 0x100000 ≤ o ∧ o < 0x300000 then at_ 0x100000 8 8 fun k => .qdb (k / 256) (k % 256)
  else if 0x400000 ≤ o ∧ o < 0x408000 then at_ 0x400000 32 32 .slot
  else if csrBase ≤ o ∧ o < csrBase + 32 * 24 then at_ csrBase 32 32 .csr
  else none

/-- `size` bytes of value `cur` with `bs` written from byte `j`. -/
def overlay (size cur j : Nat) (bs : List Byte) : Nat :=
  let l := leBytes size cur
  leNat ((l.take j ++ bs ++ l.drop (j + bs.length)).take size)

/-- Whether a write of `n` bytes from byte `j` covers one of the bytes `lo` to `hi - 1`. -/
def covers (j n lo hi : Nat) : Bool := j < hi && lo < j + n

/-! ### Counters (R43) -/

/-- Bytes of a register that hold RC fields. -/
def rcBytes (r : Reg) : Option (Nat × Nat) :=
  match r with
  | .integ _ => some (2, 8)
  | .damperRej | .windowRej | .exitedDrop | .mmCount _ | .injRej _ | .uintLost _ => some (0, 8)
  | .port _ => some (8, 16)
  | .fltRing _ => some (6, 8)
  | _ => none

/-- The RC fields of a register cleared. -/
def State.clearRc (s : State) (r : Reg) : State :=
  match r with
  | .integ n => s.modStove n fun x => { x with transient := 0, lasting := 0 }
  | .damperRej => s.setMod { s.mod with damperRej := 0 }
  | .windowRej => s.setMod { s.mod with windowRej := 0 }
  | .exitedDrop => s.setMod { s.mod with exitedDrop := 0 }
  | .mmCount p => s.setAdm { s.adm with races := Table.erase s.adm.races p, covlost := Table.erase s.adm.covlost p }
  | .injRej h => s.setMod { s.mod with injRej := Table.erase s.mod.injRej h }
  | .uintLost v => s.setAdm { s.adm with uintLost := Table.erase s.adm.uintLost v }
  | .port n => s.modPort n fun x => { x with dropped := 0 }
  | .fltRing n => s.modRing n fun g => { g with lost := 0 }
  | _ => s

/-- Whether an agent clears the RC fields of a register: the wholesaler, and the owner of a fault ring. -/
def mayClear (a : Agent) (r : Reg) : Bool :=
  match r with
  | .fltRing n => ownsRing a n
  | _ => a == .wholesaler

/-- RC_COUNTER_CLEAR (R43). -/
def rcCounterClear (agent : Agent) (offset : Nat) (s : State) : Option State :=
  match regAt offset with
  | some (r, _, _) =>
    if (rcBytes r).isNone then none else if mayClear agent r then some (s.clearRc r) else some s.countWindow
  | none => none

/-- RC_COUNTER_CLEAR (R43). -/
def execRcCounterClear (agent : Agent) (offset : Nat) (s : State) : Host.Outcome State Fault Refusal :=
  finish s (rcCounterClear agent offset s)

/-! ### Fields by level -/

/-- COOLANT's limits and ACT_LIMIT. -/
def State.writeCoolant (s : State) (j : Nat) (bs : List Byte) : State :=
  let m := s.mod
  let v := overlay 8 (m.inlet.toNat * 2 ^ 32 + m.critical.toNat * 2 ^ 16 + m.limit.toNat) j bs
  s.setMod { m with critical := BitVec.ofNat 16 (bitsOf v 31 16), limit := BitVec.ofNat 16 (bitsOf v 15 0) }

/-- PORT_n. -/
def State.writePort (s : State) (n j : Nat) (bs : List Byte) : State :=
  let x := s.port n
  let v := overlay 8 (x.retry.toNat * 256 + boolNat x.mgmt * 8 + boolNat x.busy * 4 + x.mode.toNat) j bs
  let s := s.modPort n fun x => { x with retry := BitVec.ofNat 8 (bitsOf v 15 8), mgmt := bitOf v 3 }
  let s := if covers j bs.length 0 1 then s.writeMode n (BitVec.ofNat 2 (bitsOf v 1 0)) else s
  if covers j bs.length 8 16 then s.clearRc (.port n) else s

/-- A pool's register as a number. -/
def Pool.word (p : Pool) : Nat :=
  p.tail.toNat * 2 ^ 96 + p.head.toNat * 2 ^ 64 + p.base.toNat * 2 ^ 12 + p.size.toNat * 2 ^ 8 + p.owner.toNat

def poolOf (v : Nat) : Pool :=
  { tail := BitVec.ofNat 32 (bitsOf v 127 96), head := BitVec.ofNat 32 (bitsOf v 95 64), base := BitVec.ofNat 52 (bitsOf v 63 12),
    size := BitVec.ofNat 4 (bitsOf v 11 8), owner := BitVec.ofNat 8 (bitsOf v 7 0) }

/-- A pool's register written: whole, or tail alone. -/
def Pool.written (p : Pool) (whole : Bool) (j : Nat) (bs : List Byte) : Pool :=
  let n := poolOf (overlay 16 p.word j bs)
  if whole then n else { p with tail := n.tail }

/-- ASPACE_a: `part` is written by the wholesaler alone. -/
def Aspace.written (x : Aspace) (part : Bool) (j : Nat) (bs : List Byte) : Aspace :=
  let v := overlay 16 (x.partition.toNat * 2 ^ 120 + x.wRoot.toNat * 2 ^ 77 + x.sRoot.toNat * 2 ^ 13 + boolNat x.enable) j bs
  let x := { x with sRoot := BitVec.ofNat 51 (bitsOf v 63 13), enable := bitOf v 0 }
  if part then { x with partition := BitVec.ofNat 8 (bitsOf v 127 120), wRoot := BitVec.ofNat 39 (bitsOf v 115 77) } else x

/-- VDEV_v as a number. -/
def Vdev.word (x : Vdev) : Nat :=
  x.qtable.toNat * 2 ^ 64 + x.partition.toNat * 2 ^ 56 + x.rights.toNat * 2 ^ 50 + x.state.toNat * 2 ^ 48 +
  x.burst.toNat * 2 ^ 20 + x.rate.toNat

/-- The rights that a reseller's write leaves a device (R324). -/
def grantedRights (part old new : BitVec 6) : BitVec 6 :=
  let kept := new &&& part
  if part.getLsbD rightDelegate then kept else kept &&& old

/-- VDEV_v's fields written by the wholesaler, or by the reseller of partition rights `part`: BIND to assign the device its
queue table, RATE for its bucket, and rights as R324 keeps them. -/
def Vdev.written (x : Vdev) (part : Option (BitVec 6)) (j : Nat) (bs : List Byte) : Vdev :=
  let v := overlay 16 x.word j bs
  let qtable := BitVec.ofNat 64 (bitsOf v 127 64)
  let rights := BitVec.ofNat 6 (bitsOf v 55 50)
  let burst := BitVec.ofNat 20 (bitsOf v 39 20)
  let rate := BitVec.ofNat 20 (bitsOf v 19 0)
  match part with
  | none =>
    let p := BitVec.ofNat 8 (bitsOf v 63 56)
    { x with qtable := qtable, rights := rights, burst := burst, rate := rate, partition := p
             state := if p = 0xFF then 0 else if x.state = 0 then 1 else x.state }
  | some r =>
    { x with qtable := if r.getLsbD rightBind then qtable else x.qtable
             rights := if covers j bs.length 6 7 then grantedRights r x.rights rights else x.rights
             burst := if r.getLsbD rightRate then burst else x.burst
             rate := if r.getLsbD rightRate then rate else x.rate }

/-- Whether a write sets bit `b` of a register. -/
def setsBit (j : Nat) (bs : List Byte) (b : Nat) : Bool := bitOf (overlay 16 0 j bs) b

/-- VDEV_v (R323, R324): the fields, and then the reset bit. Another partition's device is not touched. -/
def State.writeVdev (s : State) (a : Agent) (v j : Nat) (bs : List Byte) : State :=
  let own := match a with
    | .wholesaler => true
    | .reseller p => (s.vdev v).partition.toNat == p
    | .tenant w => w == v
    | .core _ => false
  if !own then s.countWindow
  else
    let s := match a with
      | .wholesaler => s.modVdev v fun x => x.written none j bs
      | .reseller p => s.modVdev v fun x => x.written (some (s.part p).rights) j bs
      | _ => s
    if setsBit j bs 47 && s.mayDevice a v rightReset then s.resetVf v else s

/-- PART_p as a number. -/
def PartReg.word (x : PartReg) : Nat :=
  x.pq.toNat * 2 ^ 64 + x.hot.toNat * 2 ^ 56 + x.cold.toNat * 2 ^ 48 + x.rights.toNat * 2 ^ 42 + x.hang.toNat * 2 ^ 22 +
  x.state.toNat

/-- PART_p's fields: all by the wholesaler, who thereby makes the partition active, and hang by its reseller. -/
def PartReg.written (x : PartReg) (whole : Bool) (j : Nat) (bs : List Byte) : PartReg :=
  let v := overlay 16 x.word j bs
  let x := { x with hang := BitVec.ofNat 20 (bitsOf v 41 22) }
  if whole then
    { x with pq := BitVec.ofNat 64 (bitsOf v 127 64), hot := BitVec.ofNat 8 (bitsOf v 63 56), cold := BitVec.ofNat 8 (bitsOf v 55 48),
             rights := BitVec.ofNat 6 (bitsOf v 47 42), state := if x.state = 0 then 1 else x.state }
  else x

/-- PART_p (R322): the fields, and then the reset bit. -/
def State.writePart (s : State) (a : Agent) (p j : Nat) (bs : List Byte) : State :=
  if a = .wholesaler then
    let s := s.modPart p fun x => x.written true j bs
    if setsBit j bs 2 then s.resetPart p else s
  else if a = .reseller p then s.modPart p fun x => x.written false j bs
  else s.countWindow

/-- SCHED_LIST, and its head, which the scheduling firmware advances (R334). -/
def State.writeSched (s : State) (a : Agent) (head : Bool) (j : Nat) (bs : List Byte) : State :=
  let x := s.adm.sched
  if head then
    if a == .wholesaler || writesSlots a then
      let v := overlay 8 (x.head.toNat * 2 ^ 32 + x.tail.toNat) j bs
      s.setAdm { s.adm with sched := { x with head := BitVec.ofNat 32 (bitsOf v 63 32) } }
    else s.countWindow
  else if a == .wholesaler then
    let v := overlay 8 (x.base.toNat * 2 ^ 12 + x.lsize.toNat * 2 ^ 8) j bs
    s.setAdm { s.adm with sched := { x with base := BitVec.ofNat 52 (bitsOf v 63 12), lsize := BitVec.ofNat 4 (bitsOf v 11 8) } }
  else s.countWindow

/-- FLT_RING_n (R350): base and lsize, of which 11 to 15 read as 10, by the wholesaler, head by the owner, and lost cleared. -/
def State.writeRing (s : State) (a : Agent) (n j : Nat) (bs : List Byte) : State :=
  if !(ownsRing a n) then s.countWindow
  else
    let s := if covers j bs.length 6 8 then s.clearRc (.fltRing n) else s
    s.modRing n fun g =>
      let v := overlay 16 (g.base.toNat * 2 ^ 64 + g.lsize.toNat * 2 ^ 60 + g.head.toNat * 2 ^ 24) j bs
      let g := { g with head := BitVec.ofNat 24 (bitsOf v 47 24) }
      if a = .wholesaler then
        { g with base := BitVec.ofNat 64 (bitsOf v 127 64), lsize := BitVec.ofNat 4 (min 10 (bitsOf v 63 60)) }
      else g

/-- FLT_ACT_n (R352): actions 3 to 7 are discarded. -/
def State.writeAct (s : State) (a : Agent) (n j : Nat) (bs : List Byte) : State :=
  let v := overlay 8 0 j bs
  let seq := BitVec.ofNat 32 (bitsOf v 31 0)
  if !(ownsRing a n) then s.countWindow
  else
    (match bitsOf v 34 32 with
     | 0 => faultResume a n seq s
     | 1 => faultForward a n seq s
     | 2 => faultAbort a n seq s
     | _ => some s).getD s

/-- QDB_v_q (R327), by its command. -/
def State.writeQdb (s : State) (a : Agent) (v q x : Nat) : State :=
  (match bitsOf x 57 56 with
   | 0 => doorbellRing a v q (BitVec.ofNat 24 (bitsOf x 23 0)) s
   | 1 => queueOpen a v q s
   | 2 => queueDestroy a v q s
   | _ => queueClearFault a v q s).getD s

/-- A bind record (R335): one 32-byte store, by its command; 5 to 7 are discarded. -/
def State.writeSlot (s : State) (a : Agent) (i j : Nat) (bs : List Byte) : State :=
  if !(writesSlots a) then s.countWindow
  else if j ≠ 0 ∨ bs.length ≠ 32 then s
  else
    let w := BitVec.ofNat 256 (leNat bs)
    match (w.extractLsb' 118 3).toNat with
    | 0 => s.storeBind i w
    | 1 => (bindDispatch a i w s).getD s
    | 2 => (bindPreempt a i w s).getD s
    | 3 => (bindResume a i 0 w s).getD s
    | 4 => (bindTeardown a i w s).getD s
    | _ => s

/-- The thread of device `v` as its tenant registers it at hart `k` (R345): while the hart's JUIVD names the device, the registers of that
hart are the thread's; a JUIVD that names it no more ends the registration. `x` holds the thread's address space and whether it runs. -/
def Thread.registeredAt (t : Thread) (v : Nat) (old new : Hart) (x : Nat) : Thread :=
  let t := { t with aspace := bitsOf x 203 192, running := bitOf x 204 }
  if new.juivd.toNat = v then { t with juivec := new.juivec, juirec := new.juirec, registered := true }
  else if old.juivd.toNat = v then { t with registered := false }
  else t

/-- A hart's Jarnak CSRs (R345), by the tenant whose thread runs there: JUIVEC, JUIREC and JUIVD, and beside them the thread's address space
and whether it runs. JUIVD keeps whatever is written; it registers the thread of the tenant's own device. -/
def State.writeCsr (s : State) (a : Agent) (k j : Nat) (bs : List Byte) : State :=
  match a with
  | .tenant v =>
    let h := Table.getD s.firebox.harts k .reset
    let t := Table.getD s.adm.threads v .reset
    let x := overlay 32
      (h.juivec.toNat + h.juirec.toNat * 2 ^ 64 + h.juivd.toNat * 2 ^ 128 + (t.aspace + boolNat t.running * 2 ^ 12) * 2 ^ 192) j bs
    let new := { h with juivec := BitVec.ofNat 64 (bitsOf x 63 0), juirec := BitVec.ofNat 64 (bitsOf x 127 64)
                        juivd := BitVec.ofNat 64 (bitsOf x 191 128) }
    { s.setAdm { s.adm with threads := Table.put s.adm.threads v (t.registeredAt v h new x) } with
      firebox := { s.firebox with harts := Table.put s.firebox.harts k new } }
  | _ => s.countWindow

/-- A write of bytes `bs` from byte `j` of a register. -/
def State.writeReg (s : State) (a : Agent) (r : Reg) (j : Nat) (bs : List Byte) : State :=
  let w := a == .wholesaler
  match r with
  | .stoveState _ | .hearthMap _ => if w then s else s.countWindow
  | .integ _ | .damperRej | .windowRej | .exitedDrop | .mmCount _ | .injRej _ | .uintLost _ =>
    if !(mayClear a r) then s.countWindow
    else match rcBytes r with
      | some (lo, hi) => if covers j bs.length lo hi then s.clearRc r else s
      | none => s
  | .coolant => if w then s.writeCoolant j bs else s.countWindow
  | .actLimit =>
    if w then s.setMod { s.mod with actLimit := BitVec.ofNat 32 (overlay 8 s.mod.actLimit.toNat j bs) } else s.countWindow
  | .port n => if w then s.writePort n j bs else s.countWindow
  | .migReq p =>
    if j ≠ 0 ∨ bs.length ≠ 32 then s
    else if writesRequest a p then
      (if bitOf (leNat bs) 8 then migrationCancel a p bs s else migrationRequest a p bs s).getD s
    else s.countWindow
  | .xsdReq p =>
    if j ≠ 0 ∨ bs.length ≠ 32 then s
    else if writesRequest a p then (xsdRequest a p bs s).getD s else s.countWindow
  | .migPool n =>
    let x := s.pool n
    if w then s.putPool n (x.written true j bs)
    else if a = .reseller x.owner.toNat then s.putPool n (x.written false j bs)
    else s.countWindow
  | .aspace k =>
    let x := s.aspace k
    if w then s.setAdm { s.adm with aspaces := Table.put s.adm.aspaces k (x.written true j bs) }
    else if a = .reseller x.partition.toNat then
      s.setAdm { s.adm with aspaces := Table.put s.adm.aspaces k (x.written false j bs) }
    else s.countWindow
  | .vdev v => s.writeVdev a v j bs
  | .part p => s.writePart a p j bs
  | .schedList => s.writeSched a false j bs
  | .schedHead => s.writeSched a true j bs
  | .ctxPool =>
    if w || writesSlots a then s.setAdm { s.adm with ctxPool := s.adm.ctxPool.written w j bs } else s.countWindow
  | .fltRing n => s.writeRing a n j bs
  | .fltAct n => s.writeAct a n j bs
  | .qdb v q =>
    if s.reachesQueue a v then s.writeQdb a v q (overlay 8 (s.queue v q).tail.toNat j bs) else s
  | .slot i => s.writeSlot a i j bs
  | .csr k => s.writeCsr a k j bs

/-- A write cut at the registers' borders, each piece at its register; bytes at an offset that holds no register are discarded
and counted. -/
def writeRegs (a : Agent) : Nat → Nat → List Byte → State → State
  | 0, _, _, s => s
  | fuel + 1, o, bs, s =>
    if bs.isEmpty then s
    else match regAt o with
      | none => s.countWindow
      | some (r, base, size) =>
        let n := base + size - o
        writeRegs a fuel (o + n) (bs.drop n) (s.writeReg a r (o - base) (bs.take n))

/-- A write to the management window. -/
def State.registerWrite (s : State) (a : Agent) (offset : Nat) (bytes : List Byte) : State :=
  writeRegs a bytes.length offset bytes s

/-- REGISTER_WRITE (R4). -/
def execRegisterWrite (agent : Agent) (offset : Nat) (bytes : List Byte) (s : State) : Host.Outcome State Fault Refusal :=
  finish s (some (s.registerWrite agent offset bytes))

/-! ## Packets of the endpoint mode (R22, R25) -/

/-- Whether a port admits management traffic: by its mgmt bit (R25), and in the recovery image, which has no wholesaler to set it, on every
port (R30; assumption entry 97). -/
def State.managed (s : State) (port : Nat) : Bool := (s.port port).mgmt || s.mod.boot == .recoveryImage

/-- A flash copy with the boot descriptor that the wholesaler writes (R32). -/
def Flash.written (f : Flash) (second : Bool) (bytes : List Byte) : Flash :=
  if second then { f with b := { f.b with descriptor := bytes } } else { f with a := { f.a with descriptor := bytes } }

/-- What a packet carries, delivered: a write into memory, a doorbell on behalf of its device's tenant, management on a
port that admits it, and the begin or end of a transfer (R23). -/
def State.deliver (s : State) (port : Nat) (body : UetBody) : State :=
  match body with
  | .write addr bytes => (s.missAt addr bytes.length false 0xFF).machineWrite addr bytes
  | .doorbell v q value => s.writeQdb (.tenant v) v q value.toNat
  | .management offset bytes => if s.managed port then s.registerWrite .wholesaler offset bytes else s
  | .descriptor second bytes =>
    if s.managed port then s.setMod { s.mod with flash := s.mod.flash.written second bytes } else s
  | .opens => s.modPort port fun x => { x with transfers := x.transfers + 1 }
  | .closes => s.modPort port fun x => { x with transfers := x.transfers - 1 }

/-- UET_PACKET_RECEIVE (R22): a packet of another delivery mode, or at a port that is down, is dropped and counted. A port in
chimney mode receives none, and neither does any port while the ROM waits for a recovery image (R29). -/
def uetPacketReceive (port : Nat) (mode : UetMode) (body : UetBody) (s : State) : Option State :=
  if s.portPresent port = false ∨ (s.port port).mode = 1 ∨ s.mod.boot = .recoveryResponder then none
  else if (s.port port).mode = 2 ∨ mode = .other then some (s.countDropped port)
  else some (s.deliver port body)

/-- UET_PACKET_RECEIVE (R22). -/
def execUetPacketReceive (port : Nat) (mode : UetMode) (body : UetBody) (s : State) : Host.Outcome State Fault Refusal :=
  finish s (uetPacketReceive port mode body s)

end Sys2Proof.Machine
end

