-- ==== Sys2Proof/Machine/Hart.lean ====
section
/-!
DEFINITION. Sys2Proof/Machine/Hart.lean: accesses of the firebox harts to memory and to the management window (R13, R291, R314, R318,
R320, R324, R366), and HOME_ACCESS (R218).
-/

namespace Sys2Proof.Machine

/-! ## Harts and the lines they hold (R13, R366) -/

/-- Firebox cores (R13). -/
def coreCount : Nat := 24

def State.modHart (s : State) (k : Nat) (f : Hart → Hart) : State :=
  s.setFirebox { s.firebox with harts := Table.update s.firebox.harts k .reset f }

/-- A value put into a hart's register; register 0 takes none. -/
def State.putX (s : State) (k rd : Nat) (v : BitVec 64) : State :=
  if rd % 32 = 0 then s else s.modHart k fun x => { x with x := Table.put x.x (rd % 32) v }

/-- A register of a hart written. -/
def Hart.put (h : Hart) (r : HartReg) (n : Nat) : Hart :=
  match r with
  | .x k => if k % 32 = 0 then h else { h with x := Table.put h.x (k % 32) (BitVec.ofNat 64 n) }
  | .f k => { h with f := Table.put h.f (k % 32) (BitVec.ofNat 64 n) }
  | .v k => { h with v := Table.put h.v (k % 32) n }
  | .pc => { h with pc := BitVec.ofNat 64 n }
  | .csr k => { h with csr := Table.put h.csr (k % 4096) (BitVec.ofNat 64 n) }

/-- An exception of a hart's access, taken to the wholesaler. -/
def State.trapHart (s : State) (k cause addr : Nat) : State := s.modHart k fun x => { x with trap := some (cause, addr) }

/-- The agent that a hart in a mode acts for. -/
def agentOf (m : HartMode) : Agent :=
  match m with
  | .hs => .wholesaler
  | .vs p => .reseller p
  | .vu v => .tenant v

/-- Partition to which a hart's access belongs; the wholesaler's is 255. -/
def State.hartPart (s : State) (m : HartMode) : Nat :=
  match m with
  | .hs => 255
  | .vs p => p
  | .vu v => (s.vdev v).partition.toNat

/-- The directory notes core `k` as a holder of a line. -/
def State.holdLine (s : State) (k line : Nat) : State :=
  if (tierOf (256 * line)).isNone then s
  else
    let lines := Table.update s.firebox.lines line { holders := [], dirty := none, mirror := [] }
      fun x => { x with holders := insertAsc k x.holders }
    s.setFirebox { s.firebox with lines := lines }

/-- A line that core `k` has written in a mode: it alone holds the line, which is tagged with the writer and, with the wholesaler's data,
mirrored (R366). -/
def State.dirtyLine (s : State) (k : Nat) (m : HartMode) (line : Nat) : State :=
  if (tierOf (256 * line)).isNone then s
  else
    let x : FireLine := { holders := [k], dirty := some m, mirror := if m = .hs then s.bytesHome (256 * line) 256 else [] }
    s.setFirebox { s.firebox with now := some k, lines := Table.put s.firebox.lines line x }

/-! ## Accesses -/

/-- The stage W leaf of a frame, searched in the trees of the partitions. -/
def State.leafOf (s : State) (frame : Nat) : Option Nat :=
  (s.rootedParts.findSome? fun q => findFrame s frame 4 0 ((s.partRoot (BitVec.ofNat 8 q)).toNat * 8192) 0).map fun x => x.2.entry

/-- Whether a frame is shared across modules (R320). -/
def State.sharedFrame (s : State) (frame : Nat) : Bool := (s.leafOf frame).any fun e => bitOf e 12

/-- A miss of a hart's access to a line is counted in the slice, but for shared frames (R318, R320). -/
def State.lineMiss (s : State) (m : HartMode) (addr : Nat) : State :=
  if (tierOf addr).isNone then s
  else match s.leafOf (addr / 65536) with
    | some e => if bitOf e 12 then s else s.countMiss addr (bitOf e 9) (s.hartPart m)
    | none => s.countMiss addr false (s.hartPart m)

/-- A hart's access to `n` bytes, divided by its port into one for each line (R314): whether the first misses is the event's, whether a
later one does the world's (R318). -/
def State.hartMiss (s : State) (m : HartMode) (addr n : Nat) (phys : Phys) : State :=
  let s := if phys.miss then s.lineMiss m addr else s
  if s.env.misses = [] then s
  else (List.range ((addr + n - 1) / 256 - addr / 256)).foldl (init := s) fun s i =>
    let (miss, t) := s.nextMiss
    if miss then t.lineMiss m (256 * (addr / 256 + 1 + i)) else t

/-- Whether a beat of `n` bytes is poisoned at the home of its line (R42, R314). -/
def State.hartPoison (s : State) (a n : Nat) : Bool :=
  (List.range ((a + n + 63) / 64 - a / 64)).any fun i => s.poisoned (s.readAt (64 * (a / 64 + i)))

/-- The checks of `n` bytes that a hart reads at their homes: the first beat's is the event's (R363). -/
def State.hartCheck (s : State) (a n : Nat) (phys : Phys) : State :=
  let s := s.checkRead a phys.check
  if a + n ≤ 64 * (a / 64 + 1) then s else s.checkBeats (64 * (a / 64 + 1)) (a + n - 64 * (a / 64 + 1))

/-- Byte of a hearth slot as it reads: the tile table and the zero bitmaps are computed, and the injection window reads zero (R186,
R198). -/
def State.slotLoad (s : State) (a : Nat) : Byte :=
  let h := (a - slotBase) / slotSize
  let o := (a - slotBase) % slotSize
  if 0xC00000 ≤ o ∧ o < 0xC00200 then
    let t := s.tile h ((o - 0xC00000) / 4)
    BitVec.ofNat 8 (t.word / 256 ^ (o % 4))
  else if 0xC10000 ≤ o ∧ o < 0xC20000 then
    let t := s.tile h ((o - 0xC10000) / 512)
    if t.mapped then BitVec.ofNat 8 (t.bitmap / 256 ^ (o % 512)) else 0
  else if 0xE00000 ≤ o then 0
  else s.byte a

/-- Whether a mode may read what belongs to partition `p`: the wholesaler, and with OBSERVE the partition's levels (R324). -/
def State.mayObserve (s : State) (m : HartMode) (p : Nat) : Bool :=
  match m with
  | .hs => true
  | .vs q => q == p && s.partHolds p rightObserve
  | .vu v => (s.vdev v).partition.toNat == p && s.vdevHolds v rightObserve

/-- Whether a mode may read the ember of a frame (R319): a frame of its partition, which the partition's stage W maps. -/
def State.mayReadEmber (s : State) (m : HartMode) (frame : Nat) : Bool :=
  match m with
  | .hs => true
  | _ => let p := s.hartPart m
    s.mayObserve m p && (findFrame s frame 4 0 ((s.partRoot (BitVec.ofNat 8 p)).toNat * 8192) 0).isSome

/-- The byte that a hart's load finds (R298, R314). -/
def State.hartByte (s : State) (m : HartMode) (a : Nat) : Byte :=
  if emberBase ≤ a ∧ a < emberEnd then
    (if s.mayReadEmber m (a - emberBase) then s.byte a else 0)
  else if slotBase ≤ a ∧ a < slotEnd then s.slotLoad a
  else s.byteAt (s.readAt a)

/-- The value of `n` bytes that a hart reads. -/
def State.hartValue (s : State) (m : HartMode) (a n : Nat) : Nat := leNat ((List.range n).map fun i => s.hartByte m (a + i))

/-- A value of `n` bytes as a register of 64 bits takes it. -/
def extend (n v : Nat) (signed : Bool) : BitVec 64 :=
  if signed then BitVec.ofInt 64 (intOf true (8 * n) v) else BitVec.ofNat 64 v

/-- A hart's load, one access a line (R314): checked at the home of each; a poisoned beat raises a load access fault. -/
def hartLoad (k : Nat) (m : HartMode) (rd a n : Nat) (signed : Bool) (phys : Phys) (s : State) : State :=
  let s := (s.evict phys.evict).hartCheck a n phys
  if s.hartPoison a n then s.trapHart k 5 a
  else (((s.hartMiss m a n phys).putX k rd (extend n (s.hartValue m a n) signed)).holdLine k (a / 256)).holdLine k
    ((a + n - 1) / 256)

/-- A hart's store, one access a line (R314), not performed while a drain holds the join slots that it names (R270). -/
def hartStore (k : Nat) (m : HartMode) (a : Nat) (bs : List Byte) (phys : Phys) (s : State) : Option State :=
  if bs = [] ∨ s.jafHeldAt a bs.length then none
  else
    let s := ((s.evict phys.evict).hartMiss m a bs.length phys).machineWrite a bs
    some ((s.dirtyLine k m (a / 256)).dirtyLine k m ((a + bs.length - 1) / 256))

/-- What an AMO writes. -/
def amoNew (op : AmoOp) (bits old v : Nat) : Nat :=
  let x := intOf true bits old
  let y := intOf true bits v
  match op with
  | .swap => v
  | .add => (old + v) % 2 ^ bits
  | .xor => Nat.xor old v
  | .and => old &&& v
  | .or => old ||| v
  | .min => if x ≤ y then old else v
  | .max => if y ≤ x then old else v
  | .minu => min old v
  | .maxu => max old v

/-- What an AMO, a load-reserve or a store-conditional meets before it is performed: a misaligned address, or a frame shared across modules
(R314, R320); the cause of its exception. -/
def State.atomicTrap (s : State) (a n : Nat) (store : Bool) : Option Nat :=
  if a % n ≠ 0 then some (if store then 6 else 4)
  else if s.sharedFrame (a / 65536) then some (if store then 7 else 5)
  else none

/-- A hart's AMO: read, computed and written as one action at its home (R314). -/
def hartAmo (k : Nat) (m : HartMode) (rd a n : Nat) (op : AmoOp) (v : BitVec 64) (phys : Phys) (s : State) : Option State :=
  match s.atomicTrap a n true with
  | some c => some (s.trapHart k c a)
  | none =>
    let s := s.checkRead a phys.check
    if s.anyPoison (s.readAt a) n then some (s.trapHart k 7 a)
    else
      let old := s.hartValue m a n
      (hartStore k m a (leBytes n (amoNew op (8 * n) old (v.toNat % 256 ^ n))) phys s).map fun s =>
        s.putX k rd (extend n old true)

/-- A hart's load-reserve. -/
def hartLr (k : Nat) (m : HartMode) (rd a n : Nat) (phys : Phys) (s : State) : State :=
  match s.atomicTrap a n false with
  | some c => s.trapHart k c a
  | none => (hartLoad k m rd a n true phys s).modHart k fun x => { x with reserved := some (a, n) }

/-- A hart's store-conditional: it stores where its reservation stands, and register `rd` says whether it has. -/
def hartSc (k : Nat) (m : HartMode) (rd a n : Nat) (v : BitVec 64) (phys : Phys) (s : State) : Option State :=
  match s.atomicTrap a n true with
  | some c => some (s.trapHart k c a)
  | none =>
    if (Table.getD s.firebox.harts k .reset).reserved = some (a, n) then
      (hartStore k m a (leBytes n v.toNat) phys s).map fun s =>
        (s.modHart k fun x => { x with reserved := none }).putX k rd 0
    else some ((s.modHart k fun x => { x with reserved := none }).putX k rd 1)

/-- A dirty line written back: it is clean (R366). -/
def State.cleanLine (s : State) (line : Nat) : State :=
  s.setFirebox { s.firebox with lines := Table.modify s.firebox.lines line fun x => { x with dirty := none, mirror := [] } }

/-! ## Reads of the management window -/

/-- A bind record as it reads (R335). -/
def Bind.word (r : Bind) : Nat :=
  r.entry.toNat * 2 ^ 192 + r.aspace.toNat * 2 ^ 180 + r.vdev.toNat * 2 ^ 170 + r.origin.toNat * 2 ^ 162 +
  r.ctx.toNat * 2 ^ 158 + r.share.toNat * 2 ^ 150 + r.quantum.toNat * 2 ^ 126 + r.priority.toNat * 2 ^ 123 +
  boolNat r.preempt * 2 ^ 122 + boolNat r.expired * 2 ^ 121 + r.state.toNat * 2 ^ 115

/-- The link-level retry limit of a port: 0 reads as 1 (R43). -/
def PortReg.limit (x : PortReg) : Nat := max 1 x.retry.toNat

/-- The number that a register of the window reads as; fields that are write-only read zero. -/
def State.regValue (s : State) (r : Reg) : Nat :=
  match r with
  | .stoveState n =>
    let x := s.stove n
    x.bulkState.toNat * 2 ^ 56 + x.stackState.toNat * 2 ^ 52 + x.ratePoint.toNat * 2 ^ 50 + s.edgeMask n * 2 ^ 48 +
      x.stackBudget.toNat * 2 ^ 32 + x.stoveBudget.toNat * 2 ^ 16 + boolNat x.spareUsed * 2 ^ 15 + x.hearthEnable.toNat
  | .hearthMap n => (s.stove n).hearthMap.toNat
  | .integ n =>
    let x := s.stove n
    x.transient.toNat * 2 ^ 32 + x.lasting.toNat * 2 ^ 16 + x.lastUnit.toNat * 2 ^ 8 + x.lastHearth.toNat
  | .damperRej => s.mod.damperRej.toNat
  | .windowRej => s.mod.windowRej.toNat
  | .exitedDrop => s.mod.exitedDrop.toNat
  | .coolant => s.mod.inlet.toNat * 2 ^ 32 + s.mod.critical.toNat * 2 ^ 16 + s.mod.limit.toNat
  | .actLimit => s.mod.actLimit.toNat
  | .port n =>
    let x := s.port n
    x.dropped.toNat * 2 ^ 64 + x.limit * 2 ^ 8 + boolNat x.mgmt * 8 + boolNat x.busy * 4 + x.mode.toNat
  | .mmCount p => (Table.getD s.adm.races p 0).toNat * 2 ^ 32 + (Table.getD s.adm.covlost p 0).toNat
  | .injRej h => (Table.getD s.mod.injRej h 0).toNat
  | .migReq _ | .xsdReq _ | .fltAct _ => 0
  | .migPool n => (s.pool n).word
  | .aspace a =>
    let x := s.aspace a
    x.partition.toNat * 2 ^ 120 + x.wRoot.toNat * 2 ^ 77 + x.sRoot.toNat * 2 ^ 13 + boolNat x.enable
  | .vdev v => (s.vdev v).word
  | .uintLost v => (Table.getD s.adm.uintLost v 0).toNat
  | .part p => (s.part p).word
  | .schedList => s.adm.sched.base.toNat * 2 ^ 12 + s.adm.sched.lsize.toNat * 2 ^ 8
  | .schedHead => s.adm.sched.head.toNat * 2 ^ 32 + s.adm.sched.tail.toNat
  | .ctxPool => s.adm.ctxPool.word
  | .fltRing n =>
    let g := s.ring n
    g.base.toNat * 2 ^ 64 + g.lsize.toNat * 2 ^ 60 + g.lost.toNat * 2 ^ 48 + g.head.toNat * 2 ^ 24 + g.tail.toNat
  | .qdb v q =>
    let x := s.queue v q
    x.state.toNat * 2 ^ 61 + x.cause.toNat * 2 ^ 58 + x.head.toNat * 2 ^ 32 + x.tail.toNat
  | .slot i => (s.bindRec i).word
  | .csr k =>
    let x := Table.getD s.firebox.harts k .reset
    x.juivec.toNat + x.juirec.toNat * 2 ^ 64 + x.juivd.toNat * 2 ^ 128

/-- Whether a hart may read a register: the wholesaler each one, a reseller and a tenant those of their own level, counters of races and of
lost posts with OBSERVE (R43, R297, R324, R346). -/
def State.mayRead (s : State) (k : Nat) (m : HartMode) (r : Reg) : Bool :=
  match m, r with
  | .hs, _ => true
  | _, .csr j => j == k
  | .vs p, .mmCount q => s.mayObserve (.vs p) q
  | .vs p, .uintLost v | .vs p, .vdev v | .vs p, .qdb v _ => (s.vdev v).partition.toNat == p
  | .vs p, .injRej h => (s.hearth h).owner == some p
  | .vs p, .migPool n => (s.pool n).owner.toNat == p
  | .vs p, .aspace a => (s.aspace a).partition.toNat == p
  | .vs p, .part q | .vs p, .fltRing q => p == q
  | .vu v, .uintLost w => v == w && s.vdevHolds v rightObserve
  | .vu v, .vdev w | .vu v, .qdb w _ => v == w
  | _, _ => false

/-- Byte `o` of the management window as it reads: an offset without a register, and one that the mode may not read, give zero. -/
def State.windowByte (s : State) (k : Nat) (m : HartMode) (o : Nat) : Byte :=
  match regAt o with
  | some (r, base, _) => if s.mayRead k m r then BitVec.ofNat 8 (s.regValue r / 256 ^ (o - base)) else 0
  | none => 0

/-- One access of a hart. -/
def hartAccess (k : Nat) (m : HartMode) (op : HartOp) (phys : Phys) (s : State) : Option State :=
  if coreCount ≤ k ∨ s.mod.flash.retired.contains (.core k) then none
  else
    let size (wide : Bool) : Nat := if wide then 8 else 4
    match op with
    | .load rd a n signed => if n = 0 ∨ 8 < n then none else some (hartLoad k m rd a n signed phys s)
    | .store a bs => hartStore k m a bs phys s
    | .amo rd a wide op v => hartAmo k m rd a (size wide) op v phys s
    | .lr rd a wide => some (hartLr k m rd a (size wide) phys s)
    | .sc rd a wide v => hartSc k m rd a (size wide) v phys s
    | .register rd o n =>
      if n = 0 ∨ 8 < n then none
      else some (s.putX k rd (BitVec.ofNat 64 (leNat ((List.range n).map fun i => s.windowByte k m (o + i)))))
    | .writeBack line => some (s.cleanLine line)
    | .execute l => some (s.modHart k fun h => l.foldl (fun h x => h.put x.1 x.2) h)

/-! ## HOME_ACCESS (R218) -/

/-- HOME_ACCESS (R218). -/
def homeAccess (target : HomeTarget) (phys : Phys) (s : State) : Option State :=
  match target with
  | .req id => accessReq id phys (fun q => q.unit != .gather) s
  | .ag h n b => agAccess h n b phys s
  | .mt h n b => mtAccess h n b phys s
  | .hart k m op => hartAccess k m op phys s
  | .fetch id => fetchLine id phys s

/-- HOME_ACCESS (R218). -/
def execHomeAccess (target : HomeTarget) (phys : Phys) (s : State) : Host.Outcome State Fault Refusal :=
  finish s ((homeAccess target phys s).map fun t => match target with
    | .req id => t.touchAll ((s.req? id).toList.map (·.bind))
    | .ag _ _ b | .mt _ _ b => t.touch b
    | .hart .. | .fetch _ => t)

end Sys2Proof.Machine
end

