-- ==== Sys2Proof/Machine/IntArith.lean ====
section
/-!
DEFINITION. Sys2Proof/Machine/IntArith.lean: integer and address arithmetic (R147 to R153).
-/

namespace Sys2Proof.Machine

/-- The upper half of a product, as an exact integer (R148). -/
def mulHigh (w : Nat) (a b : Int) : Int := a * b / (2 ^ w : Nat)

/-- MAD's sum (R151): the parameter is read in the word's format. -/
def madFiring (w : WordA) (s : State) : Option State :=
  elementwise w w.fmt (fun s F o =>
    let c := fmtInt w.fmt (s.paramVal F (w.imm.toNat % 64) w.fmt.bits)
    (deliverInt w.fmt.isSigned w.sat w.fmt.bits (fmtInt w.fmt (o.l.getD 0) * fmtInt w.fmt (o.r.getD 0) + c), 0)) s

/-- ADDS and SUBS (R149): the wrapped result, and the carry, borrow or range mark. `sub` selects the difference. -/
def carryFiring (sub : Bool) (w : WordA) (s : State) : Option State :=
  match startFiring s with
  | none => none
  | some (F, s) =>
    let exact (o : Opnd) : Int :=
      let a := fmtInt w.fmt (o.l.getD 0)
      let b := fmtInt w.fmt (o.r.getD 0)
      if sub then a - b else a + b
    let os := (s.operandsA F w.fmt w.isel w.imm).zipIdx
    let sum : List Emit := os.map fun (o, i) =>
      { iter := tagOut w.tagop F.tagsel w.imm i o.iter o.l
        val := if o.bubble 2 then none else some (mkVal w.fmt (wrapInt w.fmt.bits (exact o))) }
    let mark : List Emit := os.map fun (o, i) =>
      { iter := tagOut w.tagop F.tagsel w.imm i o.iter o.l
        val := if o.bubble 2 then none else some (if fits w.fmt (exact o) then 0 else 1) }
    some ((s.emit F 0 w.cons1 w.fmt.maxRun sum).emit F 1 w.cons2 32 mark)

/-- DIV's exact quotient and the all-ones result for a zero divisor (R150). -/
def divBits (f : Fmt) (sat : Bool) (a b : Int) : Nat :=
  if b = 0 then 2 ^ f.bits - 1 else deliverInt f.isSigned sat f.bits (a.tdiv b)

/-- REM (R150). -/
def remInt (a b : Int) : Int := if b = 0 then a else a.tmod b

/-- IDX (R152): row × W + col. -/
def idxInt (w : Nat) (l b : Nat) : Int := ((l / 2 ^ (w / 2) * b + l % 2 ^ (w / 2) : Nat) : Int)

/-- A coordinate in its half, clamped or truncated (R152). -/
def halfOf (sat : Bool) (h x : Nat) : Nat := if sat then min x (2 ^ h - 1) else x % 2 ^ h

/-- IDX2 (R152). -/
def idx2Bits (w : Nat) (sat : Bool) (l b : Nat) : Nat :=
  if b = 0 then 0 else halfOf sat (w / 2) (l / b) * 2 ^ (w / 2) + halfOf sat (w / 2) (l % b)

/-! ## Meanings -/

/-- ADD (R148). -/
def execAdd (w : WordA) (s : State) : Host.Outcome State Fault Refusal := finish s (subInt w (fun a b => a + b) s)

/-- SUB (R148). -/
def execSub (w : WordA) (s : State) : Host.Outcome State Fault Refusal := finish s (subInt w (fun a b => a - b) s)

/-- ADDS (R149). -/
def execAdds (w : WordA) (s : State) : Host.Outcome State Fault Refusal := finish s (carryFiring false w s)

/-- SUBS (R149). -/
def execSubs (w : WordA) (s : State) : Host.Outcome State Fault Refusal := finish s (carryFiring true w s)

/-- MUL (R148). -/
def execMul (w : WordA) (s : State) : Host.Outcome State Fault Refusal := finish s (subInt w (fun a b => a * b) s)

/-- MULH (R148). -/
def execMulh (w : WordA) (s : State) : Host.Outcome State Fault Refusal :=
  finish s (intElem w (fun a b => mulHigh w.fmt.bits a b) s)

/-- MAD (R151). -/
def execMad (w : WordA) (s : State) : Host.Outcome State Fault Refusal := finish s (madFiring w s)

/-- DIV (R150). -/
def execDiv (w : WordA) (s : State) : Host.Outcome State Fault Refusal :=
  finish s (elementwise w w.fmt (fun _ _ o =>
    (divBits w.fmt w.sat (fmtInt w.fmt (o.l.getD 0)) (fmtInt w.fmt (o.r.getD 0)), 0)) s)

/-- REM (R150). -/
def execRem (w : WordA) (s : State) : Host.Outcome State Fault Refusal := finish s (intElem w remInt s)

/-- NEG (R148). -/
def execNeg (w : WordA) (s : State) : Host.Outcome State Fault Refusal := finish s (subInt w (fun a _ => -a) s)

/-- ABS (R148). -/
def execAbs (w : WordA) (s : State) : Host.Outcome State Fault Refusal :=
  finish s (subInt w (fun a _ => if a < 0 then -a else a) s)

/-- MIN (R148). -/
def execMin (w : WordA) (s : State) : Host.Outcome State Fault Refusal :=
  finish s (subInt w (fun a b => if b < a then b else a) s)

/-- MAX (R148). -/
def execMax (w : WordA) (s : State) : Host.Outcome State Fault Refusal :=
  finish s (subInt w (fun a b => if a < b then b else a) s)

/-- AVG (R148). -/
def execAvg (w : WordA) (s : State) : Host.Outcome State Fault Refusal :=
  finish s (subInt w (fun a b => (a + b + 1) / 2) s)

/-- IDX (R152). -/
def execIdx (w : WordA) (s : State) : Host.Outcome State Fault Refusal :=
  finish s (elementwise w w.fmt (fun _ _ o =>
    (deliverInt false w.sat w.fmt.bits (idxInt w.fmt.bits (elemBits w.fmt (o.l.getD 0)) (elemBits w.fmt (o.r.getD 0))),
      0)) s)

/-- IDX2 (R152). -/
def execIdx2 (w : WordA) (s : State) : Host.Outcome State Fault Refusal :=
  finish s (elementwise w w.fmt (fun _ _ o =>
    (idx2Bits w.fmt.bits w.sat (elemBits w.fmt (o.l.getD 0)) (elemBits w.fmt (o.r.getD 0)), 0)) s)

end Sys2Proof.Machine
end

