-- ==== Sys2Proof/Machine/Logic.lean ====
section
/-!
DEFINITION. Sys2Proof/Machine/Logic.lean: logic, shift, bits, compare and select (R154 to R160).
-/

namespace Sys2Proof.Machine

/-- A bitwise operation on element bits (R155). -/
def bitElem (w : WordA) (op : Nat → Nat → Nat) (s : State) : Option State :=
  elementwise w w.fmt (fun _ _ o => (op (elemBits w.fmt (o.l.getD 0)) (elemBits w.fmt (o.r.getD 0)), 0)) s

/-- All ones in width `w`. -/
def onesOf (w : Nat) : Nat := 2 ^ w - 1

/-- Shifts (R156). -/
def shlBits (w a s : Nat) : Nat := if s < w then a * 2 ^ s % 2 ^ w else 0
def shrBits (w a s : Nat) : Nat := if s < w then a / 2 ^ s else 0
def shaBits (w a s : Nat) : Nat :=
  if s < w then wrapInt w (signedOf w a / (2 ^ s : Nat)) else if signedOf w a < 0 then onesOf w else 0
def rotBits (w a s : Nat) : Nat := (a * 2 ^ (s % w) % 2 ^ w) + a / 2 ^ (w - s % w)

/-- Leading zeros in width `w` (R157). -/
def clzBits (w a : Nat) : Nat := w - bitLen a

def popcBits : Nat → Nat → Nat
  | 0, _ => 0
  | n + 1, a => a % 2 + popcBits n (a / 2)

/-- Bits in reverse order (R157). -/
def brevBits (w a : Nat) : Nat :=
  (List.range w).foldl (fun acc j => acc + (if bitOf a j then 2 ^ (w - 1 - j) else 0)) 0

/-- BFX (R158). -/
def bfxBits (f : Fmt) (a r : Nat) : Nat :=
  let lo := r % 256
  let len := min (r / 256 % 256) f.bits
  if len = 0 ∨ f.bits ≤ lo then 0
  else
    let v := a / 2 ^ lo % 2 ^ len
    if f.isSigned then wrapInt f.bits (signedOf len v) else v

/-- BFI (R158). -/
def bfiBits (f : Fmt) (imm a b : Nat) : Nat :=
  let lo := imm % 256
  let len := imm / 256 % 256
  a % 2 ^ lo + b % 2 ^ len * 2 ^ lo + a / 2 ^ (lo + len) * 2 ^ (lo + len) % 2 ^ f.bits

/-- The condition of CMP (R129, R159). -/
def intCond (cond : Nat) (a b : Int) : Bool :=
  match cond with
  | 0 => a == b
  | 1 => a != b
  | 2 => a < b
  | 3 => a ≤ b
  | 4 => b < a
  | _ => b ≤ a

/-! ## Meanings -/

/-- AND (R155). -/
def execAnd (w : WordA) (s : State) : Host.Outcome State Fault Refusal := finish s (bitElem w (fun a b => a &&& b) s)

/-- OR (R155). -/
def execOr (w : WordA) (s : State) : Host.Outcome State Fault Refusal := finish s (bitElem w (fun a b => a ||| b) s)

/-- XOR (R155). -/
def execXor (w : WordA) (s : State) : Host.Outcome State Fault Refusal := finish s (bitElem w (fun a b => a ^^^ b) s)

/-- ANDN (R155). -/
def execAndn (w : WordA) (s : State) : Host.Outcome State Fault Refusal :=
  finish s (bitElem w (fun a b => a &&& (b ^^^ onesOf w.fmt.bits)) s)

/-- NOT (R155). -/
def execNot (w : WordA) (s : State) : Host.Outcome State Fault Refusal :=
  finish s (bitElem w (fun a _ => a ^^^ onesOf w.fmt.bits) s)

/-- SHL (R156). -/
def execShl (w : WordA) (s : State) : Host.Outcome State Fault Refusal := finish s (subElem w shlBits s)

/-- SHR (R156). -/
def execShr (w : WordA) (s : State) : Host.Outcome State Fault Refusal := finish s (subElem w shrBits s)

/-- SHA (R156). -/
def execSha (w : WordA) (s : State) : Host.Outcome State Fault Refusal := finish s (subElem w shaBits s)

/-- ROT (R156). -/
def execRot (w : WordA) (s : State) : Host.Outcome State Fault Refusal := finish s (subElem w rotBits s)

/-- CLZ (R157). -/
def execClz (w : WordA) (s : State) : Host.Outcome State Fault Refusal :=
  finish s (bitElem w (fun a _ => clzBits w.fmt.bits a) s)

/-- POPC (R157). -/
def execPopc (w : WordA) (s : State) : Host.Outcome State Fault Refusal :=
  finish s (bitElem w (fun a _ => popcBits w.fmt.bits a) s)

/-- BREV (R157). -/
def execBrev (w : WordA) (s : State) : Host.Outcome State Fault Refusal :=
  finish s (bitElem w (fun a _ => brevBits w.fmt.bits a) s)

/-- BFX (R158). -/
def execBfx (w : WordA) (s : State) : Host.Outcome State Fault Refusal :=
  finish s (bitElem w (fun a b => bfxBits w.fmt a b) s)

/-- BFI (R158). -/
def execBfi (w : WordA) (s : State) : Host.Outcome State Fault Refusal :=
  finish s (bitElem w (fun a b => bfiBits w.fmt w.imm.toNat a b) s)

/-- CMP (R159). -/
def execCmp (w : WordA) (s : State) : Host.Outcome State Fault Refusal :=
  finish s (elementwise w .b1 (fun _ _ o =>
    (boolNat (intCond w.mode.toNat (fmtInt w.fmt (o.l.getD 0)) (fmtInt w.fmt (o.r.getD 0))), 0)) s)

/-- SEL (R160): R where the effective predicate is 1, L where it is 0. -/
def execSel (w : WordA) (s : State) : Host.Outcome State Fault Refusal :=
  finish s (bitElem w (fun _ b => b) s)

end Sys2Proof.Machine
end

