-- ==== Sys2Proof/Machine/Special.lean ====
section
/-!
DEFINITION. Sys2Proof/Machine/Special.lean: the special functions of R168 and R169, each the mathematical value rounded
once. Values are computed in fixed point to more than 600 fraction bits and rounded with a sticky bit, since they are
irrational apart from the exact cases that are told apart here (assumption entry 4).
-/

namespace Sys2Proof.Machine

/-- ⌊π × 2^900⌋, which is ⌊(π / 2) × 2^901⌋. -/
def halfPi : Nat :=
  0x3243f6a8885a308d313198a2e03707344a4093822299f31d0082efa98ec4e6c89452821e638d01377be5466cf34e90c6cc0ac29b7c97c50dd3f84d5b5b54709179216d5d98979fb1bd1310ba698dfb5ac2ffd72dbd01adfb7b8e1afed6a267e96ba7c9045f12c7f9924a19947b3916cf70

/-- ⌊ln 2 × 2^720⌋. -/
def ln2Fixed : Nat :=
  0xb17217f7d1cf79abc9e3b39803f2f6af40f343267298b62d8a0d175b8baafa2be7b876206debac98559552fb4afa1b10ed2eae35c138214427573b291169b8253e96ca16224ae8c51acbda11317c387eb9ea9bc3b136603b256f

/-- Terms of e^r, `r` scaled by 2^F: `t` is the current term, `k` the number of the next. -/
def expTerms (F : Nat) : Nat → Nat → Nat → Nat → Nat
  | 0, _, _, _ => 0
  | n + 1, r, t, k => t + expTerms F n r (t * r / (2 ^ F * k)) (k + 1)

/-- e^y × 2^720 for y ≥ 0 scaled by 2^720. -/
def expFixed (y : Nat) : Nat := expTerms 720 170 (y % ln2Fixed) (2 ^ 720) 1 * 2 ^ (y / ln2Fixed)

/-- z + z^3 / 3 + z^5 / 5 + …, `z` scaled by 2^720; `zp` is the current power. -/
def atanhTerms : Nat → Nat → Nat → Nat → Nat
  | 0, _, _, _ => 0
  | n + 1, z2, zp, k => zp / k + atanhTerms n z2 (zp * z2 / 2 ^ 720) (k + 2)

/-- Alternating series: `t` the current term scaled by 2^901, `r2` the square of the argument, `k` the term's degree. -/
def trigTerms : Nat → Nat → Nat → Nat → Int
  | 0, _, _, _ => 0
  | n + 1, r2, t, k => (t : Int) - trigTerms n r2 (t * r2 / 2 ^ 901 / ((k + 1) * (k + 2))) (k + 2)

def sinFixed (r : Nat) : Int := trigTerms 90 (r * r / 2 ^ 901) r 1
def cosFixed (r : Nat) : Int := trigTerms 90 (r * r / 2 ^ 901) (2 ^ 901) 0

/-- sin (`quarter` = 0) or cos (`quarter` = 1) of `m × 2^e`, e ≥ −901, scaled by 2^901. -/
def trigFixed (quarter : Nat) (m : Nat) (e : Int) : Int :=
  let x := m * 2 ^ (e + 901).toNat
  let n := (2 * x + halfPi) / (2 * halfPi)
  let r : Int := (x : Int) - (n * halfPi : Nat)
  let sr := if r < 0 then -(sinFixed r.natAbs) else sinFixed r.natAbs
  match (n + quarter) % 4 with
  | 0 => sr
  | 1 => cosFixed r.natAbs
  | 2 => -sr
  | _ => -(cosFixed r.natAbs)

/-- A nonzero irrational value `v × 2^-F` rounded once. -/
def roundIrr (p : Policy) (f : Fmt) (rnd : Nat) (sat : Bool) (v : Int) (F : Nat) : Nat × Flags :=
  roundFlt p f rnd sat (v < 0) v.natAbs (-(F : Int)) true

/-- A value of magnitude below 2^-400 and not zero. -/
def roundTiny (p : Policy) (f : Fmt) (rnd : Nat) (s : Bool) : Nat × Flags :=
  roundFlt p f rnd false s (2 ^ 100) (-6000) true

/-- The magnitude `m × 2^e` scaled by 2^720 (for e ≥ −720). -/
def scale720 (m : Nat) (e : Int) : Nat := m * 2 ^ (e + 720).toNat

/-- Whether m × 2^e ≥ 256. -/
def atLeast256 (m : Nat) (e : Int) : Bool := (256 : Int) ≤ (if 0 ≤ e then (m * 2 ^ e.toNat : Nat) else (m / 2 ^ (-e).toNat : Nat))

/-- The nine functions (R169). -/
inductive SpecialFn where
  | rcp | rsq | ex2 | lg2 | tnh | sgm | sin | cos | silu
  deriving DecidableEq, Repr

/-- 1 / (1 + e^−x) scaled by 2^720, for x = (−1)^s × m × 2^e with |x| < 256. -/
def sigmoidFixed (s : Bool) (m : Nat) (e : Int) : Nat :=
  let E := expFixed (scale720 m e)
  if s then 2 ^ 1440 / (E + 2 ^ 720) else E * 2 ^ 720 / (E + 2 ^ 720)

/-- 2^x for x = (−1)^s × m × 2^e, not zero. -/
def ex2Finite (p : Policy) (f : Fmt) (rnd : Nat) (sat s : Bool) (m : Nat) (e : Int) : Nat × Flags :=
  if 12 < (bitLen m : Int) + e then
    if s then roundTiny p f rnd false else roundFlt p f rnd sat false (2 ^ 100) 6000 true
  else
    let x : Int := scaled s m e (-720)
    let k := x / (2 ^ 720 : Nat)
    let fr := (x % (2 ^ 720 : Nat)).toNat
    if fr = 0 then roundFlt p f rnd sat false 1 k false
    else roundFlt p f rnd sat false (expTerms 720 170 (fr * ln2Fixed / 2 ^ 720) (2 ^ 720) 1) (k - 720) true

/-- log2 of m × 2^e, not zero. -/
def lg2Finite (p : Policy) (f : Fmt) (rnd : Nat) (sat : Bool) (m : Nat) (e : Int) : Nat × Flags :=
  let h := 2 ^ (bitLen m - 1)
  let k : Int := e + (bitLen m - 1 : Nat)
  if m = h then intToFlt p f rnd sat k
  else
    let z := (m - h) * 2 ^ 720 / (m + h)
    let ln := 2 * atanhTerms 240 (z * z / 2 ^ 720) z 1
    roundIrr p f rnd sat (k * (2 ^ 720 : Nat) + (ln * 2 ^ 720 / ln2Fixed : Nat)) 720

/-- A special function of a decoded operand (R168, R169). -/
def special (fn : SpecialFn) (p : Policy) (f : Fmt) (rnd : Nat) (sat : Bool) (a : FVal) : Nat × Flags :=
  match a with
  | .nan .. => (nanResult p f [a], snanFlag [a])
  | .inf s =>
    match fn with
    | .rcp => (fltSign f s, 0)
    | .rsq | .lg2 => if s then (nanResult p f [], flNV) else (if fn = .rsq then 0 else fltInf f false, 0)
    | .ex2 => (if s then 0 else fltInf f false, 0)
    | .tnh => (encodeFlt f (.fin s 1 0), 0)
    | .sgm => (if s then 0 else encodeFlt f (.fin false 1 0), 0)
    | .sin | .cos => (nanResult p f [], flNV)
    | .silu => (if s then fltSign f true else fltInf f false, 0)
  | .fin s m e =>
    if m = 0 then
      match fn with
      | .rcp | .rsq => (fltInf f s, flDZ)
      | .ex2 | .cos => (encodeFlt f (.fin false 1 0), 0)
      | .lg2 => (fltInf f true, flDZ)
      | .tnh | .sin | .silu => (fltSign f s, 0)
      | .sgm => (encodeFlt f (.fin false 1 (-1)), 0)
    else
      match fn with
      | .rcp => fltDiv p f rnd sat (.fin false 1 0) a
      | .rsq =>
        if s then (nanResult p f [], flNV)
        else
          let (m, e) := if e % 2 = 0 then (m, e) else (2 * m, e - 1)
          let r := isqrt (2 ^ 400 / m)
          roundFlt p f rnd sat false r (-200 - e / 2) (r * r * m ≠ 2 ^ 400)
      | .ex2 => ex2Finite p f rnd sat s m e
      | .lg2 => if s then (nanResult p f [], flNV) else lg2Finite p f rnd sat m e
      | .tnh =>
        let v : Nat :=
          if atLeast256 m e then 2 ^ 720 - 1
          else
            let E := expFixed (scale720 (2 * m) e)
            (E - 2 ^ 720) * 2 ^ 720 / (E + 2 ^ 720)
        roundFlt p f rnd sat s v (-720) true
      | .sgm =>
        if atLeast256 m e then
          if s then roundTiny p f rnd false else roundFlt p f rnd sat false (2 ^ 720 - 1) (-720) true
        else roundFlt p f rnd sat false (sigmoidFixed s m e) (-720) true
      | .silu =>
        if atLeast256 m e then
          if s then roundTiny p f rnd true else roundFlt p f rnd sat false (m * 2 ^ 720 - 1) (e - 720) true
        else roundFlt p f rnd sat s (m * sigmoidFixed s m e) (e - 720) true
      | .sin =>
        let v := trigFixed 0 m e
        roundIrr p f rnd sat (if s then -v else v) 901
      | .cos => roundIrr p f rnd sat (trigFixed 1 m e) 901

end Sys2Proof.Machine
end

