-- ==== Sys2Proof/Machine/SpecialFns.lean ====
section
/-!
DEFINITION. Sys2Proof/Machine/SpecialFns.lean: the special functions (R168, R169).
-/

namespace Sys2Proof.Machine

/-- A special function at every position (R168). -/
def specialFiring (fn : SpecialFn) (w : WordA) (s : State) : Option State :=
  fltUnary w (fun p a => special fn p w.fmt w.mode.toNat w.sat a) s

/-- FRCP (R169). -/
def execFrcp (w : WordA) (s : State) : Host.Outcome State Fault Refusal := finish s (specialFiring .rcp w s)

/-- FRSQ (R169). -/
def execFrsq (w : WordA) (s : State) : Host.Outcome State Fault Refusal := finish s (specialFiring .rsq w s)

/-- FEX2 (R169). -/
def execFex2 (w : WordA) (s : State) : Host.Outcome State Fault Refusal := finish s (specialFiring .ex2 w s)

/-- FLG2 (R169). -/
def execFlg2 (w : WordA) (s : State) : Host.Outcome State Fault Refusal := finish s (specialFiring .lg2 w s)

/-- FTNH (R169). -/
def execFtnh (w : WordA) (s : State) : Host.Outcome State Fault Refusal := finish s (specialFiring .tnh w s)

/-- FSGM (R169). -/
def execFsgm (w : WordA) (s : State) : Host.Outcome State Fault Refusal := finish s (specialFiring .sgm w s)

/-- FSIN (R169). -/
def execFsin (w : WordA) (s : State) : Host.Outcome State Fault Refusal := finish s (specialFiring .sin w s)

/-- FCOS (R169). -/
def execFcos (w : WordA) (s : State) : Host.Outcome State Fault Refusal := finish s (specialFiring .cos w s)

/-- FSILU (R169). -/
def execFsilu (w : WordA) (s : State) : Host.Outcome State Fault Refusal := finish s (specialFiring .silu w s)

end Sys2Proof.Machine
end

