-- ==== Sys2Proof/Machine/Dispatch.lean ====
section
/-!
DEFINITION. Sys2Proof/Machine/Dispatch.lean: the meaning of each constructor of Instr, one arm each.
-/

namespace Sys2Proof.Machine

open Sys2Proof

def exec (i : Instr) (s : State) : Host.Outcome State Fault Refusal :=
  match i with
  | .ratePointChangeDone channel => Sys2Proof.Machine.execRatePointChangeDone channel s
  | .hearthRetire hearth => Sys2Proof.Machine.execHearthRetire hearth s
  | .partRetire part => Sys2Proof.Machine.execPartRetire part s
  | .partRetired part => Sys2Proof.Machine.execPartRetired part s
  | .portModeWrite port mode => Sys2Proof.Machine.execPortModeWrite port mode s
  | .portDown port => Sys2Proof.Machine.execPortDown port s
  | .uetPacketReceive port mode body => Sys2Proof.Machine.execUetPacketReceive port mode body s
  | .chimneyFrameReceive port stream rank frame => Sys2Proof.Machine.execChimneyFrameReceive port stream rank frame s
  | .remoteAccessReceive access phys => Sys2Proof.Machine.execRemoteAccessReceive access phys s
  | .exitedDropReport vdev header => Sys2Proof.Machine.execExitedDropReport vdev header s
  | .pooledCapacityChange place length release => Sys2Proof.Machine.execPooledCapacityChange place length release s
  | .rcCounterClear agent offset => Sys2Proof.Machine.execRcCounterClear agent offset s
  | .registerWrite agent offset bytes => Sys2Proof.Machine.execRegisterWrite agent offset bytes s
  | .hearthSlotWrite agent addr bytes => Sys2Proof.Machine.execHearthSlotWrite agent addr bytes s
  | .paramWindowWrite agent hearth ce ctx reg value => Sys2Proof.Machine.execParamWindowWrite agent hearth ce ctx reg value s
  | .jafWindowWrite agent hearth offset bytes => Sys2Proof.Machine.execJafWindowWrite agent hearth offset bytes s
  | .injectionWrite agent hearth offset bytes => Sys2Proof.Machine.execInjectionWrite agent hearth offset bytes s
  | .tokenArrival index check => Sys2Proof.Machine.execTokenArrival index check s
  | .abortTokenArrival bind => Sys2Proof.Machine.execAbortTokenArrival bind s
  | .eosPropagate hearth ce ctx slot => Sys2Proof.Machine.execEosPropagate hearth ce ctx slot s
  | .loopIssue hearth ce ctx => Sys2Proof.Machine.execLoopIssue hearth ce ctx s
  | .chainStart index => Sys2Proof.Machine.execChainStart index s
  | .chainDone chain => Sys2Proof.Machine.execChainDone chain s
  | .streamDone chain => Sys2Proof.Machine.execStreamDone chain s
  | .pstrmDoneEmit hearth ce ctx slot => Sys2Proof.Machine.execPstrmDoneEmit hearth ce ctx slot s
  | .homeAccess target phys => Sys2Proof.Machine.execHomeAccess target phys s
  | .portReplyLeave id count => Sys2Proof.Machine.execPortReplyLeave id count s
  | .storeCompletion id => Sys2Proof.Machine.execStoreCompletion id s
  | .gatherServe id phys => Sys2Proof.Machine.execGatherServe id phys s
  | .scatApply id phys => Sys2Proof.Machine.execScatApply id phys s
  | .tileSealEos bind hearth tile => Sys2Proof.Machine.execTileSealEos bind hearth tile s
  | .tileReadDone id => Sys2Proof.Machine.execTileReadDone id s
  | .tileDrainDone hearth entry => Sys2Proof.Machine.execTileDrainDone hearth entry s
  | .bcpyBeat id phys => Sys2Proof.Machine.execBcpyBeat id phys s
  | .bcpyComplete id => Sys2Proof.Machine.execBcpyComplete id s
  | .nmcStripe id failing => Sys2Proof.Machine.execNmcStripe id failing s
  | .nmcComplete id => Sys2Proof.Machine.execNmcComplete id s
  | .tlincAdd id => Sys2Proof.Machine.execTlincAdd id s
  | .tlwaitRelease id => Sys2Proof.Machine.execTlwaitRelease id s
  | .ntfyPost id => Sys2Proof.Machine.execNtfyPost id s
  | .uintDeliver vdev => Sys2Proof.Machine.execUintDeliver vdev s
  | .lsendAck bind stream => Sys2Proof.Machine.execLsendAck bind stream s
  | .lrecvRun bind stream => Sys2Proof.Machine.execLrecvRun bind stream s
  | .rednResult bind stream iter => Sys2Proof.Machine.execRednResult bind stream iter s
  | .scaleEntry hearth ce => Sys2Proof.Machine.execScaleEntry hearth ce s
  | .mgathReadReturn hearth ce second phys => Sys2Proof.Machine.execMgathReadReturn hearth ce second phys s
  | .matrixEos hearth ce ctx slot => Sys2Proof.Machine.execMatrixEos hearth ce ctx slot s
  | .jdroDrainDone bind hearth => Sys2Proof.Machine.execJdroDrainDone bind hearth s
  | .ieWalk hearth phys => Sys2Proof.Machine.execIeWalk hearth phys s
  | .spliceSuccessorLoad bind hearth ce => Sys2Proof.Machine.execSpliceSuccessorLoad bind hearth ce s
  | .launchComplete bind => Sys2Proof.Machine.execLaunchComplete bind s
  | .hangDetect bind => Sys2Proof.Machine.execHangDetect bind s
  | .quantumExpire bind => Sys2Proof.Machine.execQuantumExpire bind s
  | .selfPreempt bind => Sys2Proof.Machine.execSelfPreempt bind s
  | .xsdRequest agent p bytes => Sys2Proof.Machine.execXsdRequest agent p bytes s
  | .shootdownHearthAck id hearth => Sys2Proof.Machine.execShootdownHearthAck id hearth s
  | .shootdownComplete id => Sys2Proof.Machine.execShootdownComplete id s
  | .migrationRequest agent p bytes => Sys2Proof.Machine.execMigrationRequest agent p bytes s
  | .migrationCancel agent p bytes => Sys2Proof.Machine.execMigrationCancel agent p bytes s
  | .migrationLineCopy id error => Sys2Proof.Machine.execMigrationLineCopy id error s
  | .migrationComplete id => Sys2Proof.Machine.execMigrationComplete id s
  | .emberWrite agent frame value => Sys2Proof.Machine.execEmberWrite agent frame value s
  | .partitionReset agent p => Sys2Proof.Machine.execPartitionReset agent p s
  | .vfReset agent v => Sys2Proof.Machine.execVfReset agent v s
  | .doorbellRing agent v q tail => Sys2Proof.Machine.execDoorbellRing agent v q tail s
  | .queueOpen agent v q => Sys2Proof.Machine.execQueueOpen agent v q s
  | .queueDestroy agent v q => Sys2Proof.Machine.execQueueDestroy agent v q s
  | .queueClearFault agent v q => Sys2Proof.Machine.execQueueClearFault agent v q s
  | .packetRead v q check => Sys2Proof.Machine.execPacketRead v q check s
  | .waitReread v q => Sys2Proof.Machine.execWaitReread v q s
  | .launchListAppend v q => Sys2Proof.Machine.execLaunchListAppend v q s
  | .bindDispatch agent ix record => Sys2Proof.Machine.execBindDispatch agent ix record s
  | .chargeLoad ix pick => Sys2Proof.Machine.execChargeLoad ix pick s
  | .bindPreempt agent ix record => Sys2Proof.Machine.execBindPreempt agent ix record s
  | .bindResume agent ix pick record => Sys2Proof.Machine.execBindResume agent ix pick record s
  | .bindTeardown agent ix record => Sys2Proof.Machine.execBindTeardown agent ix record s
  | .shadowSwap ix => Sys2Proof.Machine.execShadowSwap ix s
  | .contextFrameWriteDone ix => Sys2Proof.Machine.execContextFrameWriteDone ix s
  | .deferredActivation controller => Sys2Proof.Machine.execDeferredActivation controller s
  | .freezeStart bind => Sys2Proof.Machine.execFreezeStart bind s
  | .freezeComplete bind => Sys2Proof.Machine.execFreezeComplete bind s
  | .faultRecordPost ring => Sys2Proof.Machine.execFaultRecordPost ring s
  | .faultResume agent ring seq => Sys2Proof.Machine.execFaultResume agent ring seq s
  | .faultForward agent ring seq => Sys2Proof.Machine.execFaultForward agent ring seq s
  | .faultAbort agent ring seq => Sys2Proof.Machine.execFaultAbort agent ring seq s
  | .repairPass bind => Sys2Proof.Machine.execRepairPass bind s
  | .repairPassEnd bind => Sys2Proof.Machine.execRepairPassEnd bind s
  | .uncorrectableError place => Sys2Proof.Machine.execUncorrectableError place s
  | .nop w => Sys2Proof.Machine.execNop w s
  | .const w => Sys2Proof.Machine.execConst w s
  | .dup w => Sys2Proof.Machine.execDup w s
  | .steer w => Sys2Proof.Machine.execSteer w s
  | .merge w => Sys2Proof.Machine.execMerge w s
  | .gate w => Sys2Proof.Machine.execGate w s
  | .sync w => Sys2Proof.Machine.execSync w s
  | .sink w => Sys2Proof.Machine.execSink w s
  | .eos w => Sys2Proof.Machine.execEos w s
  | .isbub w => Sys2Proof.Machine.execIsbub w s
  | .trig w => Sys2Proof.Machine.execTrig w s
  | .hndl w => Sys2Proof.Machine.execHndl w s
  | .loop w => Sys2Proof.Machine.execLoop w s
  | .loopd w => Sys2Proof.Machine.execLoopd w s
  | .lexit w => Sys2Proof.Machine.execLexit w s
  | .tchk w => Sys2Proof.Machine.execTchk w s
  | .tgset w => Sys2Proof.Machine.execTgset w s
  | .tgget w => Sys2Proof.Machine.execTgget w s
  | .scan w => Sys2Proof.Machine.execScan w s
  | .scant w => Sys2Proof.Machine.execScant w s
  | .pstrm w => Sys2Proof.Machine.execPstrm w s
  | .add w => Sys2Proof.Machine.execAdd w s
  | .sub w => Sys2Proof.Machine.execSub w s
  | .adds w => Sys2Proof.Machine.execAdds w s
  | .subs w => Sys2Proof.Machine.execSubs w s
  | .mul w => Sys2Proof.Machine.execMul w s
  | .mulh w => Sys2Proof.Machine.execMulh w s
  | .mad w => Sys2Proof.Machine.execMad w s
  | .div w => Sys2Proof.Machine.execDiv w s
  | .rem w => Sys2Proof.Machine.execRem w s
  | .neg w => Sys2Proof.Machine.execNeg w s
  | .abs w => Sys2Proof.Machine.execAbs w s
  | .min w => Sys2Proof.Machine.execMin w s
  | .max w => Sys2Proof.Machine.execMax w s
  | .avg w => Sys2Proof.Machine.execAvg w s
  | .idx w => Sys2Proof.Machine.execIdx w s
  | .idx2 w => Sys2Proof.Machine.execIdx2 w s
  | .and w => Sys2Proof.Machine.execAnd w s
  | .or w => Sys2Proof.Machine.execOr w s
  | .xor w => Sys2Proof.Machine.execXor w s
  | .andn w => Sys2Proof.Machine.execAndn w s
  | .not w => Sys2Proof.Machine.execNot w s
  | .shl w => Sys2Proof.Machine.execShl w s
  | .shr w => Sys2Proof.Machine.execShr w s
  | .sha w => Sys2Proof.Machine.execSha w s
  | .rot w => Sys2Proof.Machine.execRot w s
  | .clz w => Sys2Proof.Machine.execClz w s
  | .popc w => Sys2Proof.Machine.execPopc w s
  | .brev w => Sys2Proof.Machine.execBrev w s
  | .bfx w => Sys2Proof.Machine.execBfx w s
  | .bfi w => Sys2Proof.Machine.execBfi w s
  | .cmp w => Sys2Proof.Machine.execCmp w s
  | .sel w => Sys2Proof.Machine.execSel w s
  | .fadd w => Sys2Proof.Machine.execFadd w s
  | .fsub w => Sys2Proof.Machine.execFsub w s
  | .fmul w => Sys2Proof.Machine.execFmul w s
  | .fma w => Sys2Proof.Machine.execFma w s
  | .fnma w => Sys2Proof.Machine.execFnma w s
  | .fmin w => Sys2Proof.Machine.execFmin w s
  | .fmax w => Sys2Proof.Machine.execFmax w s
  | .fabs w => Sys2Proof.Machine.execFabs w s
  | .fneg w => Sys2Proof.Machine.execFneg w s
  | .fcmp w => Sys2Proof.Machine.execFcmp w s
  | .fclass w => Sys2Proof.Machine.execFclass w s
  | .frnd w => Sys2Proof.Machine.execFrnd w s
  | .fdiv w => Sys2Proof.Machine.execFdiv w s
  | .fsqrt w => Sys2Proof.Machine.execFsqrt w s
  | .fscal w => Sys2Proof.Machine.execFscal w s
  | .fcpys w => Sys2Proof.Machine.execFcpys w s
  | .frcp w => Sys2Proof.Machine.execFrcp w s
  | .frsq w => Sys2Proof.Machine.execFrsq w s
  | .fex2 w => Sys2Proof.Machine.execFex2 w s
  | .flg2 w => Sys2Proof.Machine.execFlg2 w s
  | .ftnh w => Sys2Proof.Machine.execFtnh w s
  | .fsgm w => Sys2Proof.Machine.execFsgm w s
  | .fsin w => Sys2Proof.Machine.execFsin w s
  | .fcos w => Sys2Proof.Machine.execFcos w s
  | .fsilu w => Sys2Proof.Machine.execFsilu w s
  | .cvt w => Sys2Proof.Machine.execCvt w s
  | .cvto w => Sys2Proof.Machine.execCvto w s
  | .cvtl w => Sys2Proof.Machine.execCvtl w s
  | .pack w => Sys2Proof.Machine.execPack w s
  | .unpk w => Sys2Proof.Machine.execUnpk w s
  | .scac w => Sys2Proof.Machine.execScac w s
  | .scale w => Sys2Proof.Machine.execScale w s
  | .cbdec w => Sys2Proof.Machine.execCbdec w s
  | .key w => Sys2Proof.Machine.execKey w s
  | .vsum w => Sys2Proof.Machine.execVsum w s
  | .vmax w => Sys2Proof.Machine.execVmax w s
  | .vmin w => Sys2Proof.Machine.execVmin w s
  | .vand w => Sys2Proof.Machine.execVand w s
  | .vor w => Sys2Proof.Machine.execVor w s
  | .vscn w => Sys2Proof.Machine.execVscn w s
  | .vspl w => Sys2Proof.Machine.execVspl w s
  | .vcat w => Sys2Proof.Machine.execVcat w s
  | .pand w => Sys2Proof.Machine.execPand w s
  | .por w => Sys2Proof.Machine.execPor w s
  | .pxor w => Sys2Proof.Machine.execPxor w s
  | .pnot w => Sys2Proof.Machine.execPnot w s
  | .pcnt w => Sys2Proof.Machine.execPcnt w s
  | .rdfl w => Sys2Proof.Machine.execRdfl w s
  | .clfl w => Sys2Proof.Machine.execClfl w s
  | .ld w => Sys2Proof.Machine.execLd w s
  | .st w => Sys2Proof.Machine.execSt w s
  | .lds w => Sys2Proof.Machine.execLds w s
  | .sts w => Sys2Proof.Machine.execSts w s
  | .atom w => Sys2Proof.Machine.execAtom w s
  | .cas w => Sys2Proof.Machine.execCas w s
  | .gath w => Sys2Proof.Machine.execGath w s
  | .scat w => Sys2Proof.Machine.execScat w s
  | .tld w => Sys2Proof.Machine.execTld w s
  | .tst w => Sys2Proof.Machine.execTst w s
  | .tqry w => Sys2Proof.Machine.execTqry w s
  | .tclr w => Sys2Proof.Machine.execTclr w s
  | .crd w => Sys2Proof.Machine.execCrd w s
  | .cwr w => Sys2Proof.Machine.execCwr w s
  | .zbmp w => Sys2Proof.Machine.execZbmp w s
  | .pfch w => Sys2Proof.Machine.execPfch w s
  | .bcpy w => Sys2Proof.Machine.execBcpy w s
  | .nmc w => Sys2Proof.Machine.execNmc w s
  | .place w => Sys2Proof.Machine.execPlace w s
  | .fjoin w => Sys2Proof.Machine.execFjoin w s
  | .tlinc w => Sys2Proof.Machine.execTlinc w s
  | .tlwait w => Sys2Proof.Machine.execTlwait w s
  | .tlrd w => Sys2Proof.Machine.execTlrd w s
  | .ntfy w => Sys2Proof.Machine.execNtfy w s
  | .lsend w => Sys2Proof.Machine.execLsend w s
  | .lrecv w => Sys2Proof.Machine.execLrecv w s
  | .redn w => Sys2Proof.Machine.execRedn w s
  | .mlat w => Sys2Proof.Machine.execMlat w s
  | .mgath w => Sys2Proof.Machine.execMgath w s
  | .mma w => Sys2Proof.Machine.execMma w s
  | .mmas w => Sys2Proof.Machine.execMmas w s
  | .mout w => Sys2Proof.Machine.execMout w s
  | .mzer w => Sys2Proof.Machine.execMzer w s
  | .mcbt w => Sys2Proof.Machine.execMcbt w s
  | .jinit w => Sys2Proof.Machine.execJinit w s
  | .jwin w => Sys2Proof.Machine.execJwin w s
  | .jadd w => Sys2Proof.Machine.execJadd w s
  | .jprd w => Sys2Proof.Machine.execJprd w s
  | .jmatch w => Sys2Proof.Machine.execJmatch w s
  | .jprobe w => Sys2Proof.Machine.execJprobe w s
  | .jdro w => Sys2Proof.Machine.execJdro w s
  | .jdrh w => Sys2Proof.Machine.execJdrh w s
  | .jmrg w => Sys2Proof.Machine.execJmrg w s
  | .jstat w => Sys2Proof.Machine.execJstat w s
  | .iwalk w => Sys2Proof.Machine.execIwalk w s
  | .ibal w => Sys2Proof.Machine.execIbal w s
  | .trap w => Sys2Proof.Machine.execTrap w s
  | .halt w => Sys2Proof.Machine.execHalt w s
  | .yield w => Sys2Proof.Machine.execYield w s
  | .splice w => Sys2Proof.Machine.execSplice w s
  | .launch w => Sys2Proof.Machine.execLaunch w s
  | .rdctl w => Sys2Proof.Machine.execRdctl w s
  | .cksum w => Sys2Proof.Machine.execCksum w s
  | .inServiceRepair repair => Sys2Proof.Machine.execInServiceRepair repair s
  | .portOrCoreRetire part => Sys2Proof.Machine.execPortOrCoreRetire part s
  | .moduleReset => Sys2Proof.Machine.execModuleReset s
  | .recoveryImageReceive => Sys2Proof.Machine.execRecoveryImageReceive s
  | .bellowsTick => Sys2Proof.Machine.execBellowsTick s
  | .coolantThresholdCross => Sys2Proof.Machine.execCoolantThresholdCross s
  | .emberHalve => Sys2Proof.Machine.execEmberHalve s
  | .bucketRefill => Sys2Proof.Machine.execBucketRefill s

end Sys2Proof.Machine
end

