-- ==== Sys2Proof/Machine/Select.lean ====
section
/-!
DEFINITION. Sys2Proof/Machine/Select.lean: which firing a CE starts next (R70, R71, R34), which entry its matrix block starts
(R245), how an instruction's bytes are fetched, and what a step does: one action of the agenda, or one that the model's own
scheduler names.
-/

namespace Sys2Proof.Machine

/-! ## Fetching a word (R44, R75) -/

/-- The bytes of the word that a firing of block-local slot `slot` runs. -/
def State.fetch (s : State) (h e c slot : Nat) : Option (List Byte) := (s.wordAt h e c slot).map fun w => leBytes 8 w.toNat

/-- The field and code of R94 and R95 for bits that are no instruction. -/
def errorCode : DecodeError → Nat × Nat
  | .reservedOpcode => (0x20, 63)
  | .reservedTagOp => (0x21, 49)
  | .reservedScope => (0x21, 49)
  | .reservedBits b => (0x21, b)
  | .truncated => (0x20, 63)

/-- What the word of a slot turns out to be. -/
inductive Fetched where
  | instr (i : Instr)
  | bad (e : DecodeError)
  deriving DecidableEq, Repr

def State.fetchInstr (s : State) (h e c slot : Nat) : Option Fetched :=
  (s.fetch h e c slot).map fun bs => match decode bs with
    | .ok (i, _) => .instr i
    | .error e => .bad e

/-! ## Firings that can start -/

/-- Faults that a charge has raised and not yet posted. -/
def State.faultCount (s : State) (b : Nat) : Nat := ((s.charge? b).map fun c => c.faults.length).getD 0

/-- Whether a firing, run now, starts or goes on: its meaning waits exactly where it leaves the ready firings and the faults of its
context, and the join partitions of its hearth, as they are (a queue, a stream, a tile, a page or a partition is not ready: R195, R204,
R235, R245, R261, R309). -/
def State.starts (s : State) (h e c b : Nat) (f : Firing) (i : Instr) : Bool :=
  match exec i { s with sel := some (.firing h e c f) } with
  | .next t => (t.ctx? h e c).map (·.ready) != (s.ctx? h e c).map (·.ready) || t.faultCount b != s.faultCount b ||
      (t.hearth h).joins != (s.hearth h).joins
  | _ => true

/-- A firing that a CE can start, and what its word is. -/
structure Choice where
  ctx : Nat
  f   : Firing
  it  : Fetched
  deriving DecidableEq, Repr

/-- The choice that firing `f` of context `c` offers. -/
def State.choiceOf (s : State) (h e c : Nat) (cc : CeCtx) (f : Firing) : Option Choice :=
  if Machine.heldByOrder (s.isHandler h e c f) cc.ready f then none
  else match s.fetchInstr h e c f.slot with
    | some (.instr i) => if s.starts h e c cc.bind f i then some { ctx := c, f := f, it := .instr i } else none
    | some (.bad x) => some { ctx := c, f := f, it := .bad x }
    | none => none

/-- Of two choices of one context, the one whose firing goes first (R70). -/
def firstChoice : List Choice → Option Choice
  | [] => none
  | x :: rest => match firstChoice rest with
    | none => some x
    | some y => if y.f.before x.f then some y else some x

/-- Whether a ready firing of a charge may run: any of one that runs, of one that has just been halted those of the same cycle (R98), and
of one that freezes or ends those that have started before (R98, R355). -/
def State.firingRuns (s : State) (c : Charge) (f : Firing) : Bool :=
  c.runs || s.haltsNow c || (f.epoch.isSome && c.serves)

/-- The firing that context `c` starts next. -/
def State.contextChoice (s : State) (h e c : Nat) : Option Choice :=
  match s.ctx? h e c with
  | none => none
  | some cc =>
    match s.charge? cc.bind with
    | none => none
    | some ch => if cc.loaded then firstChoice ((cc.ready.filter (s.firingRuns ch)).filterMap (s.choiceOf h e c cc)) else none

/-- The starts of a context that are no firings of the ready list: a loop header's issue, a done pilot's scalar, and a run that a stream
has received (R141, R146, R235). -/
def State.issuesOf (s : State) (h e c : Nat) (cc : CeCtx) : List Instr :=
  .loopIssue h e c :: cc.pdone.map (fun (j, _) => .pstrmDoneEmit h e c j) ++
    s.fab.chimneys.filterMap fun (k, x) =>
      match x.opened with
      | some (h', e', _) => if k / 256 = cc.bind ∧ h' = h ∧ e' = e then some (.lrecvRun cc.bind (k % 256)) else none
      | none => none

/-- The first of them that starts now: its meaning waits exactly where it notes no start. -/
def State.contextIssue (s : State) (h e c : Nat) : Option Instr :=
  match s.ctx? h e c with
  | none => none
  | some cc => (s.issuesOf h e c cc).find? fun i => match exec i s with
    | .next t => (t.ce h e).lastStart == some s.cycle
    | _ => false

/-- What a context can start: its firing that goes first, or an issue. -/
structure Start where
  ctx    : Nat
  firing : Option Choice
  issue  : Option Instr
  deriving DecidableEq, Repr

def State.contextStart (s : State) (h e c : Nat) : Option Start :=
  match s.contextChoice h e c with
  | some y => some { ctx := c, firing := some y, issue := none }
  | none => (s.contextIssue h e c).map fun i => { ctx := c, firing := none, issue := some i }

/-- THE ARBITER of a CE in this cycle: the context in turn while its share lasts, then the next that can start (R70, R71), if the CE is
free and its stove's limit allows a start (R34). -/
def State.ceChoice (s : State) (h e : Nat) : Option Start :=
  let x := s.ce h e
  if !(s.mayStart h e) then none
  else
    let fresh := ((List.range 16).map fun k => (x.turnCtx + 1 + k) % 16).findSome? fun c => s.contextStart h e c
    if x.turnLeft = 0 then fresh else (s.contextStart h e x.turnCtx).orElse fun _ => fresh

/-- Cycles for which a firing holds its CE: a handler run, one for each slot (R70, R139). -/
def State.holdCycles (s : State) (h e : Nat) (y : Choice) : Nat :=
  match s.wordAt h e y.ctx y.f.slot with
  | some w => if wordOp w = 0x0B ∧ y.f.kind ≠ .scale then handlerLength w else 1
  | none => 1

/-- A firing's start noted at the CE: its cycle, how long it holds the CE, and the turn. -/
def State.noteChoice (s : State) (h e : Nat) (y : Choice) : State := s.takeTurn h e y.ctx (s.holdCycles h e y)

/-! ## Actions -/

/-- An instruction word that no CE executes stops the machine; no charge with such a word is bound (R92, R93). -/
def stopAt (x : DecodeError) : Host.Outcome State Fault Refusal := .fault (.refusedWord (errorCode x).1 (errorCode x).2)

/-- A firing whose entries do not match their check when they are read again (R363, R365): its CE is marked, its charge freezes with an
integrity fault, and the firing stays where it is. -/
def State.entryLasting (s : State) (h e : Nat) (y : Choice) : State :=
  match s.ctx? h e y.ctx with
  | none => s
  | some cc =>
    let s := s.ceLasting h e
    let id := (((s.charge? cc.bind).bind fun c => c.block? cc.block).map Block.id).getD 0xFFFFFFFF
    s.raiseFault cc.bind { s.faultRec cc.bind 0x20 h with
      tag := faultTag y.ctx ((y.f.pos.head?.map FPos.iter).getD 0), block := id, slot := y.f.slot, ce := e, unit := 0 }

/-- The start that the arbiter of a CE has chosen, its entries read with the check `k` (R363). -/
def State.runFire (s : State) (h e : Nat) (k : Check) : Host.Outcome State Fault Refusal :=
  match s.ceChoice h e with
  | none => .next s
  | some x =>
    match x.firing, x.issue with
    | some y, _ =>
      if k = .lasting then .next (s.entryLasting h e y)
      else
      let s := if k = .transient then s.countTransient (stoveOf h) else s
      (match y.it with
       | .bad x => stopAt x
       | .instr i => exec i { s.noteChoice h e y with sel := some (.firing h e y.ctx y.f) })
    | none, some i => exec i s
    | none, none => .next s

/-- The CE and the context in which an event is a firing start (R71). -/
def State.startPlace (s : State) (i : Instr) : Option (Nat × Nat × Nat) :=
  match i with
  | .loopIssue h e c => some (h, e, c)
  | .pstrmDoneEmit h e c _ => some (h, e, c)
  | .lrecvRun b k =>
    (match s.charge? b, (s.chimney b k).opened with
     | some c, some (h, e, _) => some (h, e, c.ctx)
     | _, _ => none)
  | _ => none

/-- Whether an event may happen now: one that is a firing start waits for its context's turn at the CE (R71). -/
def State.eventInTurn (s : State) (i : Instr) : Bool :=
  match s.startPlace i with
  | none => true
  | some (h, e, c) => match s.ceChoice h e with
    | none => true
    | some x => x.ctx == c

/-- The start of a matrix entry (R245): a word, or a captured scale (R256). -/
def State.runMatrix (s : State) (h e : Nat) : Host.Outcome State Fault Refusal :=
  match s.mxPick h e with
  | some (m, .word slot hndl pos p0 p1 ep cy) =>
    let y : QEntry := .word slot hndl pos p0 p1 ep cy
    (match ((s.ce h e).mx m).owner.bind s.charge? with
     | some c => match s.fetchInstr h e c.ctx slot with
       | some (.instr i) => exec i { s with sel := some (.entry h e m y) }
       | some (.bad x) => stopAt x
       | none => .next s
     | none => .next s)
  | some (_, .scale ..) => exec (.scaleEntry h e) s
  | none => .next s

/-- One action. -/
def runAction (a : Action) (s : State) : Host.Outcome State Fault Refusal :=
  match a with
  | .event i => if s.eventInTurn i then exec i s else .next s
  | .fire h e k => s.runFire h e k
  | .matrix h e => s.runMatrix h e
  | .advance n => .next { s with cycle := s.cycle + n }
  | .linkAck p n => .next (s.modPort p fun x => { x with retained := x.retained - n })

/-! ## The model's own scheduler -/

/-- An access that the physical world leaves alone. -/
def calm : Phys := { check := .good, miss := false, evict := [] }

/-- Actions of the CEs that hold contexts. -/
def State.ceActions (s : State) : List Action :=
  (s.fab.ctxs.map fun (k, cc) =>
    let h := k / 768
    let e := k / 16 % 48
    let c := k % 16
    let slots := (List.range 32).map fun j => 32 * cc.part + j
    [.fire h e .good, .matrix h e, .event (.loopIssue h e c), .event (.mgathReadReturn h e false calm),
     .event (.mgathReadReturn h e true calm)] ++
    slots.map (fun j => .event (.eosPropagate h e c j)) ++ slots.map (fun j => .event (.matrixEos h e c j)) ++
    cc.pdone.map (fun (j, _) => .event (.pstrmDoneEmit h e c j))).flatten

/-- Actions of a request, and of the programs of an AG or MT. -/
def reqActions (q : Req) : List Action :=
  [.event (.homeAccess (.req q.id) calm), .event (.gatherServe q.id calm), .event (.scatApply q.id calm),
   .event (.portReplyLeave q.id 1)]
def streamActions (u : HomeTarget) (c : Chain) : List Action := [.event (.homeAccess u calm), .event (.chainDone c), .event (.streamDone c)]

/-- Actions of the units of hearth `h`. -/
def hearthActions (h : Nat) (x : Hearth) : List Action :=
  List.flatten
    [[.event (.ieWalk h calm)],
     x.tiles.map (fun (t, _) => .event (.tileDrainDone h t)),
     x.tiles.map (fun (_, y) => .event (.tileSealEos y.bind h y.tile)),
     x.joins.map (fun (_, j) => .event (.jdroDrainDone j.bind h)),
     x.ags.flatMap (fun (k, _) => streamActions (.ag h (k / 1024) (k % 1024)) (.ag h (k / 1024) (k % 1024))),
     x.mts.flatMap (fun (k, _) => streamActions (.mt h (k / 1024) (k % 1024)) (.mt h (k / 1024) (k % 1024))),
     x.mxs.map (fun (k, _) => .event (.chainDone (.mx h (k / 1024) (k % 1024))))]

/-- Actions of a chimney stream. -/
def chimneyActions (k : Nat) (x : Chimney) : List Action :=
  .event (.lsendAck (k / 256) (k % 256)) :: .event (.lrecvRun (k / 256) (k % 256)) ::
    x.contrib.map fun y => .event (.rednResult (k / 256) (k % 256) y.2.1)

/-- Actions of tokens, pilots, requests and engine operations under way. -/
def State.unitActions (s : State) : List Action :=
  let f := s.fab
  List.flatten
    [(List.range f.transit.length).map (fun i => .event (.tokenArrival i .good)),
     (List.range f.pilots.length).map (fun i => .event (.chainStart i)),
     f.reqs.flatMap reqActions,
     f.flights.map (fun q => .event (.storeCompletion q.id)),
     f.pending.flatMap (fun q => [.event (.tlincAdd q.id), .event (.ntfyPost q.id)]),
     f.waits.map (fun q => .event (.tlwaitRelease q.id)),
     f.copies.flatMap (fun q => [.event (.bcpyBeat q.id calm), .event (.bcpyComplete q.id)]),
     f.nmcs.flatMap (fun q => [.event (.nmcStripe q.id none), .event (.nmcComplete q.id)]),
     f.fetches.map (fun q => .event (.homeAccess (.fetch q.id) calm)),
     f.tileReads.map (fun q => .event (.tileReadDone q.id)),
     f.hearths.flatMap (fun (h, x) => hearthActions h x),
     f.chimneys.flatMap (fun (k, x) => chimneyActions k x)]

/-- Actions of charge `b`. -/
def chargeActions (b : Nat) (c : Charge) : List Action :=
  List.append
    [.event (.launchComplete b), .event (.freezeStart b), .event (.freezeComplete b), .event (.repairPass b),
     .event (.repairPassEnd b), .event (.hangDetect b), .event (.quantumExpire b), .event (.selfPreempt b),
     .event (.shadowSwap b), .event (.contextFrameWriteDone b)]
    (c.region.flatMap fun h => (List.range ceCount).map fun e => .event (.spliceSuccessorLoad b h e))

/-- Actions of charges and of the stoker. -/
def State.stokerActions (s : State) : List Action :=
  List.flatten
    [s.fab.charges.flatMap (fun (b, c) => chargeActions b c),
     s.adm.binds.map (fun (i, _) => .event (.chargeLoad i 0)),
     s.adm.queues.flatMap (fun (k, _) =>
       [.event (.packetRead (k / 256) (k % 256) .good), .event (.waitReread (k / 256) (k % 256)),
        .event (.launchListAppend (k / 256) (k % 256))]),
     s.adm.rings.map (fun (n, _) => .event (.faultRecordPost n)),
     s.adm.threads.map (fun (v, _) => .event (.uintDeliver v)),
     s.memSide.shootdowns.flatMap (fun d =>
       List.append (s.fab.hearths.map fun (h, _) => .event (.shootdownHearthAck d.id h)) [.event (.shootdownComplete d.id)]),
     s.memSide.moves.flatMap (fun m => [.event (.migrationLineCopy m.id .none), .event (.migrationComplete m.id)]),
     s.memSide.deferred.map (fun d => .event (.deferredActivation d.controller)),
     (List.range 12).flatMap (fun n => (s.stove n).changing.map fun (k, _) => .event (.ratePointChangeDone { stack := n, index := k })),
     [.event .bellowsTick, .event .emberHalve, .event .bucketRefill, .event .coolantThresholdCross]]

/-- What comes next where the agenda names nothing: the candidates take turns by the cycle. -/
def State.turn (s : State) : Action :=
  let l := s.ceActions ++ s.unitActions ++ s.stokerActions ++
    (s.mod.ports.zipIdx.filter fun (x, _) => x.retained != 0).map fun (x, p) => .linkAck p x.retained
  l.getD (s.cycle % l.length) (.advance 0)

end Sys2Proof.Machine
end

