-- ==== Sys2Proof/Machine/Step.lean ====
section
/-!
DEFINITION. Sys2Proof/Machine/Step.lean: a step of the module, and a word placed where a step runs it. The module has no
program counter: charges are loaded from packets, and their words fire when their operands are there (R57). A step is one
row of spec/opcode_table.json taking place: the head of the agenda, or what the model's scheduler names next.
-/

namespace Sys2Proof.Machine

/-- One step. -/
def step (s : State) : Host.Outcome State Fault Refusal :=
  match s.agenda with
  | [] => runAction s.turn { s with cycle := s.cycle + 1 }
  | a :: rest => runAction a { s with agenda := rest }

/-! ## A word placed -/

/-- Opcode of a word. -/
def probeOp (w : BitVec 64) : Nat := (w.extractLsb' 56 8).toNat

/-- A region of 64 KiB with every attribute, numbered as the word names it: own scratchpad for the scratchpad words, near
memory otherwise. -/
def probeRegion (w : BitVec 64) : BitVec 64 × BitVec 64 × BitVec 64 :=
  let op := probeOp w
  let n := if 0xA0 ≤ op ∧ op < 0xC0 then w.extractLsb' 16 6 else if 0xC0 ≤ op then w.extractLsb' 15 6 else w.extractLsb' 23 6
  let near := !(op == 0x82 || op == 0x83 || op == 0x86 || op == 0x87)
  (BitVec.ofNat 64 (n.toNat + (if near then 2 else 0) * 2 ^ 16 + 7 * 2 ^ 24), 0, 65536)

/-- The page of that region: frame 1 of stack 0. -/
def probeExtent (w : BitVec 64) : Extent :=
  { region := (probeRegion w).1.toNat % 64, vpage := 0, pages := 1, frame := 1, tier := 0, moving := false, watched := false,
    ember := false, xs := false, rd := true, wr := true, rdS := true, wrS := true, fault := none, ppage := 1 }

/-- A chimney stream with the role that the word's instruction has, on module port 0 (R234). -/
def probeStream (w : BitVec 64) : BitVec 128 :=
  BitVec.ofNat 128 (1 + (w.extractLsb' 0 8).toNat * 256 + (probeOp w - 0x98) % 3 * 2 ^ 21 + 2 ^ 32 + 255 * 2 ^ 48)

/-- The charge that withFetchWord binds: one block of one word on hearth 0, with what a word can name. -/
def probeCharge (w : BitVec 64) : Charge :=
  { image :=
      { overflow := 0, tagsel := 0, cid := 0, timelineCount := 0, shape := [0],
        blocks := [{ shape := 0, first := 0, header := 0, words := [w] }],
        edges := [], tracks := [], ags := [], mts := [], pilots := [], tiles := [], policies := [0], shells := [],
        params := [], regions := [probeRegion w], timelines := [], streams := [probeStream w], joins := [] }
    ctx := 0, aspace := 0, vdev := 0, part := 0, packet := List.replicate 128 0, queue := 0, bindings := [0], region := [0],
    timelines := [{ value := 0, rels := [], agent := 1, skipped := false }], acks := 0, phase := .running,
    preempting := false, haltFrom := none, retry := [], loading := false, faults := [], holds := 0, bubbleHolds := 0, bubbled := [], bubbles := [], pass := 0,
    repairing := false, unrepaired := false, occupancy := [], oldest := none, inbox := [], successor := none,
    predecessor := none, extents := [probeExtent w], agent := 0, epoch := 0, acquired := Vec.empty, ctxFrames := [], listEntry := 0, imageMa := 0,
    lastActive := 0, alloc := [], frames := [], paths := [], packetAspace := 0, record := 0, saved := [], savedWalks := [],
    savedMx := [], savedTiles := [], savedJoins := [], savedPad := [], savedParams := [], savedChains := [] }

/-- The tile that a tile word names, in the state that its instruction waits for (R195): READY for TLD, CRD and ZBMP. -/
def probeTile (w : BitVec 64) : TileEntry :=
  let ready := probeOp w == 0x88 || probeOp w == 0x8C || probeOp w == 0x8E
  { TileEntry.reset with
    fmt := Fmt.ofCode (w.extractLsb' 52 4).toNat, mapped := true, state := if ready then 2 else 0, bind := 0
    tile := (w.extractLsb' 9 7).toNat }

/-- A join partition for the word's value format (R258). -/
def probeJoin (w : BitVec 64) : Join :=
  { bind := 0, abase := 0, q := 6, wide := (w.extractLsb' 48 4).toNat == 13, limit := 32, ash := 0, dtl := 255, wlo := 0,
    whi := BitVec.allOnes 64, flags := 0, spills := 0, rejects := 0, longest := 0, drains := 0, draining := none, memo := [], want := none, begun := [], since := 0,
    vec := Vec.empty, epoch := none, parked := none }

/-- A firing of that word with one position whose operands are zeros. -/
def probeFiring : Firing :=
  { slot := 0, pos := [{ iter := 0, l := some 0, r := some 0, p := some 0 }], kind := .data, stamp := 0, acq := [] }

/-- CE 0 with the word in slot 0, and a matrix context at whose head it stands where it is a matrix word. -/
def probeCe (w : BitVec 64) : Ce :=
  { Ce.reset with
    slots := [(0, { ctx := 0, word := w })]
    mx0 := { MCtx.reset with owner := some 0, queue := [.word 0 0 probeFiring.pos 0 0 0 0] } }

/-- `s` with the instruction of bits `w` where the next step runs it: bound as charge 0 in context 0 of CE 0 of hearth 0, ready to
fire, or at the head of that CE's matrix queue. -/
def State.withFetchWord (s : State) (_nbits w : Nat) : State :=
  let word := BitVec.ofNat 64 w
  let matrix := 0xA0 ≤ probeOp word ∧ probeOp word ≤ 0xA6
  let f := { s.fab with
    charges := Table.put s.fab.charges 0 (probeCharge word)
    ctxs := Table.put s.fab.ctxs 0 { CeCtx.reset 0 0 0 0 with ready := [probeFiring] }
    chimneys := Table.put s.fab.chimneys (word.extractLsb' 0 8).toNat { Chimney.reset with credit := 1 } }
  let s := ({ s with fab := f }).modHearth 0 fun x =>
    { x with
      ces := Table.put x.ces 0 (probeCe word), tiles := Table.put x.tiles 0 (probeTile word)
      joins := Table.put x.joins 0 (probeJoin word) }
  let s := s.modBind 0 fun r => { r with state := 3, share := 1 }
  { s with agenda := (if matrix then .matrix 0 0 else .fire 0 0 .good) :: s.agenda }

end Sys2Proof.Machine
end

