-- ==== Sys2Proof/Safety.lean ====
section
/-!
DEFINITION. Sys2Proof/Safety.lean: what holds between the steps of a run.
-/

namespace Sys2Proof.Machine

/-- Between steps memory is in its canonical form, no byte waits to join it, and nothing is selected. -/
def Inv (s : State) : Prop := Memory.wf s.mem = true ∧ s.wlog = [] ∧ s.sel = none

end Sys2Proof.Machine
end

