-- ==== Sys2Proof/Certificates/Slice0/Obligations.lean ====
section
/-!
DEFINITION. Sys2Proof/Certificates/Slice0/Obligations.lean: the statements for the provers, in the order of
OBLIGATIONS.json. The definitions of Sys2Proof.Claim give the vocabulary: a firing that stands selected, the results of
an elementwise firing, and the values of the rules, written with BitVec and Int and not with the model's own arithmetic.
-/

namespace Sys2Proof.Claim

open Sys2Proof.Machine

/-! ## A firing that the step has selected -/

/-- `s` with the firing's operands consumed: off the ready firings, its charge active in this cycle (R347), and the
completions of its tokens acquired (R283). -/
def taken (s : State) (F : Fire) : State :=
  ((s.modCtx F.hearth F.ce F.ctx fun x => { x with ready := x.ready.erase F.f }).modCharge F.cc.bind fun x =>
    { x with lastActive := s.cycle }).acquireRels F.cc.bind .m F.hearth F.f.acq

/-- The step has selected firing F, and its context, charge and block are those that F names; of its charge, the vectors are those
that the start has acquired (R283, R292). -/
def Stands (s : State) (F : Fire) : Prop :=
  s.sel = some (.firing F.hearth F.ce F.ctx F.f) ∧ s.ctx? F.hearth F.ce F.ctx = some F.cc ∧
  (∃ ch, s.charge? F.cc.bind = some ch ∧
    F.ch = { ch with acquired := (((taken s F).charge? F.cc.bind).map (·.acquired)).getD ch.acquired }) ∧
  F.ch.block? F.cc.block = some F.blk

/-- The state of a firing that emits lists of results to its two consumers, and nothing else (R52). -/
def emitted (s : State) (F : Fire) (w : WordA) (cap1 cap2 : Nat) (l1 l2 : List Emit) : State :=
  commit s (((taken s F).emit F 0 w.cons1 cap1 l1).emit F 1 w.cons2 cap2 l2)

/-! ## Elementwise firings (R130) -/

/-- What R130 says of an elementwise word on operands `os`: it completes; the results of its positions go to both
consumers, each under the word's tag operation; a BUBBLE operand gives BUBBLE, a false predicate gives L, and otherwise
the result's bits and flags are related to the operands by `R`; the flags join the context's file. -/
def Elem (i : Instr) (w : WordA) (out : Fmt) (os : List Opnd) (R : Opnd → Nat → Flags → Prop) (s : State) (F : Fire) :
    Prop :=
  ∃ rs : List Res,
    exec i s = .next (commit s (((taken s F).addFlags F.hearth F.ce F.ctx w.nf rs).emitBoth F w.cons1 w.cons2 out.maxRun
      (rs.map Res.emit))) ∧
    rs.length = os.length ∧
    ∀ k o, os[k]? = some o → ∃ r, rs[k]? = some r ∧
      r.iter = tagOut w.tagop F.tagsel w.imm k o.iter o.l ∧
      (o.bubble w.arity.toNat = true → r.val = none ∧ r.flags = 0) ∧
      (o.bubble w.arity.toNat = false → o.pred w.arity.toNat w.inv = false → r.val = o.l ∧ r.flags = 0) ∧
      (o.bubble w.arity.toNat = false → o.pred w.arity.toNat w.inv = true →
        ∃ v, r.val = some (BitVec.ofNat 128 v) ∧ v < 2 ^ out.bits ∧ R o v r.flags)

/-- The operands of a format A word: its matched tokens, or an immediate or a parameter in their place (R83). -/
def opsOf (s : State) (F : Fire) (w : WordA) : List Opnd := (taken s F).operandsA F w.fmt w.isel w.imm

/-- The bits of an operand in a format (R130). -/
def bitsIn (f : Fmt) (v : Option Val) : Nat := (v.getD 0).toNat % 2 ^ f.bits

/-- The integer that the low `g` bits of `n` denote (R109). -/
def num (signed : Bool) (g n : Nat) : Int :=
  if signed then (BitVec.ofNat g n).toInt else ((BitVec.ofNat g n).toNat : Int)

/-- `v` is the exact integer `e` delivered in `g` bits: modulo 2^g, or clamped with sat (R120). -/
def delivered (signed sat : Bool) (g : Nat) (e : Int) (v : Nat) : Prop :=
  (sat = false → v = (BitVec.ofInt g e).toNat) ∧
  (sat = true → num signed g v =
    max (if signed then -((2 : Int) ^ (g - 1)) else 0) (min (if signed then (2 : Int) ^ (g - 1) - 1 else 2 ^ g - 1) e))

/-- A relation between two operands and a result on elements of `f`, or on each sub-element of `g` bits (R153): the word's
mode is 0 for none, 1 for 8 bits, 2 for 16. -/
def parts (f : Fmt) (mode : BitVec 3) (R : Nat → Nat → Nat → Nat → Prop) (a b v : Nat) : Prop :=
  (mode = 0 → R f.bits a b v) ∧
  (∀ g, (mode = 1 ∧ g = 8) ∨ (mode = 2 ∧ g = 16) → ∀ k, k < 32 / g →
    R g (a / 2 ^ (g * k) % 2 ^ g) (b / 2 ^ (g * k) % 2 ^ g) (v / 2 ^ (g * k) % 2 ^ g))

/-- The reads and writes of the present step that no event of the opcode table carries find their checks matching and their lines in the
slices: the world answers nothing else (log entry 113). -/
def Quiet (s : State) : Prop := s.env.checks = [] ∧ s.env.misses = []

/-- The split that a word may ask for: none, or 8 or 16 bits on 32-bit words (R129). -/
def splitOk (w : WordA) : Prop := w.mode = 0 ∨ ((w.mode = 1 ∨ w.mode = 2) ∧ w.fmt.bits = 32)

end Sys2Proof.Claim

open Sys2Proof Sys2Proof.Machine Sys2Proof.Claim


/-! ## Words, steps and reset (R3, R42, R47 to R49, R70, R75, R80 to R92) -/

/-- Every instruction word is written and read without loss: the eight bytes of an instruction's word, least significant
first, decode to that instruction and leave the bytes that follow; a word that decodes to an instruction is that
instruction's word; and a word whose opcode the map of R91 lacks is refused as such (R3, R75, R80 to R92). -/
def Obligations.DecodeAndEncodeAgree : Prop :=
  (∀ (i : Instr) (w : BitVec 64) (rest : List Byte), encode i = some w →
    decode (leBytes 8 w.toNat ++ rest) = .ok (i, rest) ∧ decodeWord w = .ok i) ∧
  (∀ (w : BitVec 64) (i : Instr), decodeWord w = .ok i → encode i = some w) ∧
  (∀ (w : BitVec 64), decodeWord w = .error .reservedOpcode ↔ ∀ i v, encode i = some v → opcodeOf v ≠ opcodeOf w)

/-- Each step that goes on leaves memory in its canonical form, with no byte waiting to join it and nothing selected, from
every state in which that held. The form is the model's own, not a rule of the spec.
The model's choices: log entry 1. -/
def Obligations.EveryStepKeepsTheInvariant : Prop :=
  ∀ (s t : State), Inv s → step s = .next t → Inv t

/-- The invariant holds at reset.
The model's choices: log entry 1. -/
def Obligations.ResetMeetsTheInvariant : Prop := Inv State.reset

/-- A step runs the instruction that the fetched bytes decode to: at a CE, the word of the slot of the firing that its arbiter
has chosen, a transient mismatch of whose entries is counted and a lasting one of which keeps it from starting; at a matrix
block, the word of the queue entry that starts; and a step whose row is an event runs that event, one that is a start of a CE where its
context has the turn. Bytes that are no instruction stop the machine. Between rows, cycles pass, and the far end of a link takes runs out of its
port's retry buffer (R23, R57, R70, R71, R75, R92, R245, R363).
The model's choices: log entries 5, 76. -/
def Obligations.StepRunsTheDecodedFiring : Prop :=
  ∀ (s u : State) (rest : List Action), u = { s with agenda := rest } →
    (∀ i, s.agenda = .event i :: rest → u.eventInTurn i = true → step s = exec i u) ∧
    (∀ i, (∀ h e c, i ≠ .loopIssue h e c) → (∀ h e c j, i ≠ .pstrmDoneEmit h e c j) → (∀ b k, i ≠ .lrecvRun b k) →
      u.eventInTurn i = true) ∧
    (∀ h e c i x, u.startPlace i = some (h, e, c) → u.ceChoice h e = some x → (u.eventInTurn i = true ↔ x.ctx = c)) ∧
    (∀ n, s.agenda = .advance n :: rest → step s = .next { u with cycle := u.cycle + n }) ∧
    (∀ p n, s.agenda = .linkAck p n :: rest → step s = .next (u.modPort p fun x => { x with retained := x.retained - n })) ∧
    (∀ h e k x y bs, s.agenda = .fire h e k :: rest → u.ceChoice h e = some x → x.firing = some y →
      u.fetch h e y.ctx y.f.slot = some bs →
      (k ≠ .lasting → ∀ v, v = (if k = .transient then u.countTransient (stoveOf h) else u) →
        (∀ i r, decode bs = .ok (i, r) →
          step s = exec i { v.noteChoice h e y with sel := some (.firing h e y.ctx y.f) }) ∧
        (∀ x, decode bs = .error x → step s = .fault (.refusedWord (errorCode x).1 (errorCode x).2))) ∧
      (k = .lasting → ∃ t, step s = .next t ∧ t.ctx? h e y.ctx = u.ctx? h e y.ctx ∧ t.mem = u.mem ∧
        e ∈ (t.hearth h).marked)) ∧
    (∀ h e k x i, s.agenda = .fire h e k :: rest → u.ceChoice h e = some x → x.firing = none → x.issue = some i →
      step s = exec i u) ∧
    (∀ h e m b c slot hndl pos p0 p1 ep cy bs, s.agenda = .matrix h e :: rest →
      u.mxPick h e = some (m, .word slot hndl pos p0 p1 ep cy) → ((u.ce h e).mx m).owner = some b → u.charge? b = some c →
      u.fetch h e c.ctx slot = some bs →
      (∀ i r, decode bs = .ok (i, r) →
        step s = exec i { u with sel := some (.entry h e m (.word slot hndl pos p0 p1 ep cy)) }) ∧
      (∀ x, decode bs = .error x → step s = .fault (.refusedWord (errorCode x).1 (errorCode x).2)))

/-- Within a context the firing goes first that comes before all others that can start: older tag, or equal tag and lower
slot, a tag being older than another when their difference modulo 2^24 is negative as a signed number. A CE starts at most
one firing in a cycle, none while a handler run holds it, none in a cycle that its stove's limit on starts shuts out, and none for a
context that is not loaded or whose charge does not run, but for the firings of the very cycle of a halt and those that the join unit
has begun in a charge that freezes or ends (R34, R70, R98, R355).
The model's choices: log entries 11, 12, 13. -/
def Obligations.ArbiterStartsTheOldestFiring : Prop :=
  (∀ (s : State) (h e c : Nat) (cc : CeCtx) (f : Firing) (y : Choice), s.ctx? h e c = some cc → cc.loaded = true →
    (s.charge? cc.bind).any Charge.runs = true → f ∈ cc.ready → s.choiceOf h e c cc f = some y →
    (∀ g ∈ cc.ready, ∀ z, s.choiceOf h e c cc g = some z → z ≠ y → y.f.before z.f = true ∧ z.f.before y.f = false) →
    s.contextChoice h e c = some y ∧ y.ctx = c ∧ y.f = f) ∧
  (∀ (f g : Firing) (p q : FPos) (ps qs : List FPos), f.pos = p :: ps → g.pos = q :: qs →
    (f.before g = true ↔ (p.iter - q.iter).toInt < 0 ∨ p.iter = q.iter ∧ f.slot < g.slot)) ∧
  (∀ (s : State) (h e : Nat), (s.ce h e).lastStart = some s.cycle ∨ s.cycle < (s.ce h e).busyUntil ∨
    (s.stove (stoveOf h)).startRate ≤ s.cycle % 16 → s.ceChoice h e = none) ∧
  (∀ (s : State) (h e : Nat) (x : Start) (y : Choice), s.ceChoice h e = some x → x.firing = some y → x.ctx = y.ctx ∧
    ∃ cc ch, s.ctx? h e y.ctx = some cc ∧ cc.loaded = true ∧ y.f ∈ cc.ready ∧ s.charge? cc.bind = some ch ∧
      (ch.runs = true ∨ (∃ d z, ch.phase = .halting d ∧ ch.haltFrom = some z ∧ z.1 = s.cycle) ∨
        (y.f.epoch ≠ none ∧ ch.serves = true)))

/-- Words that the spec writes out bit by bit decode to the instructions that it writes beside them. -/
def Obligations.SpecWordsDecode : Prop :=
  decodeWord 0x42C809406047E000 = .ok (.fmul
    { fmt := .f32, arity := 2, tagop := .same, cons1 := { slot := 9, port := 1 }, cons2 := { slot := 0, port := 3 },
      nf := false, mode := 0, sat := false, inv := false, isel := 2, imm := 0x7E000 }) ∧
  decodeWord 0x05C88C4060000000 = .ok (.gate
    { fmt := .f32, arity := 2, tagop := .inc, cons1 := { slot := 12, port := 1 }, cons2 := { slot := 0, port := 3 },
      nf := false, mode := 0, sat := false, inv := false, isel := 0, imm := 0 }) ∧
  decodeWord 0x13C80E0788400007 = .ok (.tchk
    { fmt := .f32, arity := 2, subop := 0, cons1 := { slot := 14, port := 0 }, cons2 := { slot := 15, port := 0 },
      fsel := 1, inv := false, isel := 2, imm := 7 }) ∧
  decodeWord 0x82C4864062C00000 = .ok (.lds
    { fmt := .f32, arity := 1, scope := .h, cons1 := { slot := 6, port := 1 }, cons2 := { slot := 0, port := 3 },
      region := 5, chan := true, cmpl := false, op := 0, fpol := false, aux := 0 }) ∧
  decodeWord 0x91C9840700A20000 = .ok (.nmc
    { fmt := .f32, arity := 2, scope := .m, cons1 := { slot := 4, port := 0 }, cons2 := { slot := 14, port := 0 },
      region := 1, chan := false, cmpl := true, op := 1, fpol := false, aux := 0 }) ∧
  decodeWord 0xA388140064400100 = .ok (.mmas
    { fmtA := .e4m3, fmtB := .e4m3, acc64 := false, cons1 := { slot := 20, port := 0 }, cons2 := { slot := 0, port := 3 },
      sel := 4, scl := 1, region := 0, pidx := 0, arity := 1, nf := false }) ∧
  decodeWord 0xBA50070060010100 = .ok (.iwalk
    { fmtA := .n32, fmtB := .s8, acc64 := false, cons1 := { slot := 7, port := 0 }, cons2 := { slot := 0, port := 3 },
      sel := 0, scl := 0, region := 1, pidx := 0, arity := 1, nf := false })

/-- Reset values that the spec's register tables give (R19, R43, R297, R300, R312, R322, R323, R327, R335, R350, R364); the tables call
spare_used fused, and the model's fuse is 0.
The model's choices: log entry 2. -/
def Obligations.ResetLeavesTheSpecsValues : Prop :=
  let s := State.reset
  s.cycle = 0 ∧ s.fab.charges = [] ∧ s.fab.transit = [] ∧
  (∀ n, n < 12 → (s.stove n).bulkState = 0 ∧ (s.stove n).stackState = 0 ∧ (s.stove n).ratePoint = 0 ∧
    (s.stove n).stackBudget = 2450 ∧ (s.stove n).stoveBudget = 1400 ∧ (s.stove n).spareUsed = false ∧ s.edgeMask n = 3 ∧
    (s.stove n).transient = 0 ∧ (s.stove n).lasting = 0 ∧ (s.stove n).lastUnit = 0xFF ∧ (s.stove n).lastHearth = 0xFF) ∧
  (∀ n, n < 24 → (s.port n).dropped = 0 ∧ (s.port n).retry = 16 ∧ (s.port n).mgmt = false ∧ (s.port n).busy = false ∧
    (s.port n).mode = 0) ∧
  s.mod.damperRej = 0 ∧ s.mod.windowRej = 0 ∧ s.mod.exitedDrop = 0 ∧ s.mod.critical = 550 ∧ s.mod.limit = 450 ∧
  s.mod.actLimit = 0 ∧ (∀ h, Table.getD s.mod.injRej h 0 = 0) ∧
  (∀ p, Table.getD s.adm.races p 0 = 0 ∧ Table.getD s.adm.covlost p 0 = 0) ∧
  (∀ a, (s.aspace a).partition = 0xFF ∧ (s.aspace a).wRoot = 0 ∧ (s.aspace a).sRoot = 0 ∧ (s.aspace a).enable = false) ∧
  (∀ p, (s.part p).pq = 0 ∧ (s.part p).hot = 0xFF ∧ (s.part p).cold = 0 ∧ (s.part p).rights = 0 ∧ (s.part p).hang = 0 ∧
    (s.part p).state = 0) ∧
  (∀ v, (s.vdev v).qtable = 0 ∧ (s.vdev v).partition = 0xFF ∧ (s.vdev v).rights = 0 ∧ (s.vdev v).state = 0 ∧
    (s.vdev v).burst = 0 ∧ (s.vdev v).rate = 0) ∧
  (∀ v q, (s.queue v q).state = 0 ∧ (s.queue v q).cause = 0 ∧ (s.queue v q).head = 0 ∧ (s.queue v q).tail = 0) ∧
  (∀ i, (s.bindRec i).entry = 0 ∧ (s.bindRec i).aspace = 0 ∧ (s.bindRec i).vdev = 0 ∧ (s.bindRec i).origin = 0 ∧
    (s.bindRec i).ctx = 0 ∧ (s.bindRec i).share = 0 ∧ (s.bindRec i).quantum = 0 ∧ (s.bindRec i).priority = 0 ∧
    (s.bindRec i).preempt = false ∧ (s.bindRec i).expired = false ∧ (s.bindRec i).state = 0) ∧
  (∀ n, (s.ring n).base = 0 ∧ (s.ring n).lsize = 0 ∧ (s.ring n).lost = 0 ∧ (s.ring n).head = 0 ∧ (s.ring n).tail = 0 ∧
    (s.ring n).nextSeq = 1) ∧
  (∀ n, (s.pool n).owner = 0xFF ∧ (s.pool n).head = 0 ∧ (s.pool n).tail = 0 ∧ (s.pool n).base = 0 ∧ (s.pool n).size = 0)

/-- Results leave in runs: the runs of a list of results are that list cut up, none empty and none longer than the run length
of the format, the tags of a run consecutive and its positions all BUBBLE or none; aligned runs break at multiples of 32
besides. Each run becomes one token at the end of its consumer's way: the producer's charge, the consumer's place, the first
tag, one payload for each position and the check over header and payload (R42, R47, R48, R76, R80). -/
def Obligations.RunsAreCutAndTagged : Prop :=
  (∀ (cap : Nat) (l : List Emit), 0 < cap →
    (∀ rs, rs = runsOf cap l ∨ rs = alignedRuns cap l → rs.flatten = l ∧ ∀ r ∈ rs, r ≠ [] ∧ r.length ≤ cap ∧
      ∀ k a b, r[k]? = some a → r[k + 1]? = some b → b.iter = a.iter + 1 ∧ b.val.isNone = a.val.isNone) ∧
    (∀ r ∈ alignedRuns cap l, ∀ (k : Nat) (a : Emit), r[k + 1]? = some a → a.iter.toNat % 32 ≠ 0)) ∧
  (∀ (s : State) (b blk slot k cap : Nat) (x : Consumer) (l : List Emit),
    (x.port = 3 → (s.sendAll b blk slot k x cap l).fab.transit = s.fab.transit) ∧
    (∀ c d z, x.port ≠ 3 → s.charge? b = some c → c.dest blk slot k x = some d → c.block? d.blk = some z → 0 < cap →
      ∃ ts : List Token, (s.sendAll b blk slot k x cap l).fab.transit = s.fab.transit ++ ts ∧ ts.length = (runsOf cap l).length ∧
        ∀ (n : Nat) (t : Token) (r : List Emit) (e : Emit), ts[n]? = some t → (runsOf cap l)[n]? = some r → r.head? = some e →
          t.bind = b ∧ t.hearth = c.region.getD z.shape 0 ∧ t.ce = z.first + d.slot / 32 ∧ t.slot = d.slot ∧ t.port = d.port ∧
          t.kind = (if e.val = none then .bubble else .data) ∧ t.iter = e.iter ∧ t.vals = r.map (fun y => y.val.getD 0) ∧
          t.task = d.task ∧ t.words = (if cap = 16 then 2 else if cap = 8 then 4 else 1) ∧
          t.check = tokenCheck (headerOf t.kind t.vals.length c.ctx t.iter t.slot t.port t.task t.nd) t.words t.vals)) ∧
  (∀ (c : Charge) (blk slot k : Nat) (x : Consumer) (z : Block), c.block? blk = some z → x.port ≠ 3 → c.image.edges = [] →
    c.dest blk slot k x = some
      { blk := blk, slot := x.slot.toNat, port := portOf x.port.toNat, task := z.isHndl x.slot.toNat })

/-- What a word of format A, HNDL apart, leaves alone as it completes: memory, every register of the module, of the administration, of
memory's side and of the firebox; every unit of the fabric; other contexts and other charges; of its own context all but the ready
firings, for EOS the note of what it has emitted (R67), and the flag file, and the flag file too with nf set (RDFL and CLFL apart) and for
token, integer and logic words; of its charge all but the cycle of its last activity and what it has acquired; every hearth, but for RDFL
and CLFL the flags that the finished entries of their CE's matrix contexts still owe (R255). Tokens join those in transit behind them (R52, R122, R123, R130).
The model's choices: log entry 34. -/
def Obligations.FormatAWordsChangeNothingElse : Prop :=
  ∀ (op : Nat) (mk : WordA → Instr) (w : WordA) (s : State) (F : Fire), opcodeA op = some mk → op ≠ 0x0B → Stands s F →
    s.wlog = [] → ∃ t, exec (mk w) s = .next t ∧ t.firebox = { s.firebox with now := none } ∧
      t.mod = s.mod ∧ t.cycle = s.cycle ∧ t.mem = s.mem ∧ t.memSide = s.memSide ∧ t.adm = s.adm ∧ t.env = s.env ∧
      t.freshIx = s.freshIx ∧ t.agenda = s.agenda ∧
      (∃ l : List Token, (∀ k ∈ l, k.bind = F.cc.bind) ∧ t.fab =
        { s.fab with hearths := t.fab.hearths, ctxs := t.fab.ctxs, charges := t.fab.charges, transit := s.fab.transit ++ l }) ∧
      (∀ h e c, ctxKey h e c ≠ ctxKey F.hearth F.ce F.ctx → t.ctx? h e c = s.ctx? h e c) ∧
      (∃ fl eo, t.ctx? F.hearth F.ce F.ctx = some { F.cc with ready := F.cc.ready.erase F.f, flags := fl, eosOut := eo } ∧
        (op ≠ 0x08 → eo = F.cc.eosOut) ∧
        (w.nf = true → op ≠ 0x7D → op ≠ 0x7E → fl = F.cc.flags) ∧ (op < 0x40 → fl = F.cc.flags)) ∧
      (∀ b, b ≠ F.cc.bind → t.charge? b = s.charge? b) ∧
      (∃ v, t.charge? F.cc.bind = some { F.ch with lastActive := s.cycle, acquired := v }) ∧
      (∀ h, ∃ ces, t.hearth h = { s.hearth h with ces := ces } ∧
        (h ≠ F.hearth ∨ op ≠ 0x7D ∧ op ≠ 0x7E → ces = (s.hearth h).ces) ∧
        (∀ e, e ≠ F.ce → Table.getD ces e .reset = Table.getD (s.hearth h).ces e .reset) ∧
        (∃ p q, Table.getD ces F.ce .reset =
          let x := Table.getD (s.hearth h).ces F.ce .reset
          { x with mx0 := { x.mx0 with pend := p }, mx1 := { x.mx1 with pend := q } }))

/-- What a word of format B, and a word of format M that issues requests at a memory port, leaves alone: memory, every
register of the module, of the administration, of memory's side and of the firebox; other contexts and
other charges; of its own context all but the ready firings, the loop header, the scan counters and the pilots' starts, its flags
among what stays, and of the context of its block's loop header all but the loop; of its charge all but its last activity, what it has
acquired, its acknowledgement count and the faults it has raised; requests, flights, pilots and tokens under way, behind which its own
queue; every other unit of the fabric (R123, R140 to R146, R205 to R210).
The model's choices: log entry 34. -/
def Obligations.IssuingWordsChangeNothingElse : Prop :=
  ∀ (i : Instr) (s t : State) (F : Fire),
    ((∃ op mk w, opcodeB op = some mk ∧ i = mk w) ∨ (∃ op mk w, opcodeM op = some mk ∧ op < 0x88 ∧ i = mk w)) →
    Stands s F → s.wlog = [] → exec i s = .next t →
      t.firebox = { s.firebox with now := none } ∧ t.cycle = s.cycle ∧ t.mem = s.mem ∧ t.mod = s.mod ∧ t.memSide = s.memSide ∧
      t.adm = s.adm ∧ t.env = s.env ∧ t.freshIx = s.freshIx ∧ t.agenda = s.agenda ∧
      (∃ (l : List Token) (rs : List Req) (fs : List Flight) (ps : List Pilot), (∀ k ∈ l, k.bind = F.cc.bind) ∧
        (∀ q ∈ rs, q.bind = F.cc.bind) ∧ (∀ q ∈ fs, q.bind = F.cc.bind) ∧ (∀ q ∈ ps, q.bind = F.cc.bind) ∧
        t.fab.transit = s.fab.transit ++ l ∧ t.fab.reqs = s.fab.reqs ++ rs ∧ t.fab.flights = s.fab.flights ++ fs ∧
        t.fab.pilots = s.fab.pilots ++ ps) ∧
      t.fab.pending = s.fab.pending ∧ t.fab.waits = s.fab.waits ∧ t.fab.copies = s.fab.copies ∧ t.fab.nmcs = s.fab.nmcs ∧
      t.fab.tileReads = s.fab.tileReads ∧ t.fab.tclrs = s.fab.tclrs ∧ t.fab.fetches = s.fab.fetches ∧ t.fab.chimneys = s.fab.chimneys ∧
      t.fab.dropReports = s.fab.dropReports ∧
      (∀ h e c, ctxKey h e c ≠ ctxKey F.hearth F.ce F.ctx → ctxKey h e c ≠ ctxKey F.hearth F.blk.loopCe F.ctx →
        t.ctx? h e c = s.ctx? h e c) ∧
      (∀ x, s.ctx? F.hearth F.blk.loopCe F.ctx = some x → F.blk.loopCe ≠ F.ce → ∃ lp,
        t.ctx? F.hearth F.blk.loopCe F.ctx = some { x with loop := lp }) ∧
      (∃ r lp sc ps, t.ctx? F.hearth F.ce F.ctx =
        some { F.cc with ready := r, loop := lp, scans := sc, pstrm := ps }) ∧
      (∀ b, b ≠ F.cc.bind → t.charge? b = s.charge? b) ∧
      (∃ a v n fs, t.charge? F.cc.bind = some { F.ch with lastActive := a, acquired := v, acks := n, faults := fs }) ∧
      (∀ h, t.hearth h = s.hearth h)
/-! ## Integer arithmetic (R147 to R153) -/

namespace Sys2Proof.Claim

/-- The exact results of R148 for the words that can be split (R153). -/
def splitRows : List ((WordA → Instr) × (Int → Int → Int)) :=
  [(.add, fun a b => a + b), (.sub, fun a b => a - b), (.mul, fun a b => a * b), (.neg, fun a _ => -a),
   (.abs, fun a _ => max a (-a)), (.min, fun a b => min a b), (.max, fun a b => max a b),
   (.avg, fun a b => (a + b + 1) / 2)]

end Sys2Proof.Claim

/-- ADD, SUB, MUL, NEG, ABS, MIN, MAX and AVG deliver R148's exact result, wrapped or clamped, whole or for each
sub-element; MULH delivers the upper half of the product. None raises a flag. -/
def Obligations.IntegerWordsDeliverExactResults : Prop :=
  (∀ mk e, (mk, e) ∈ splitRows → ∀ (w : WordA) (s : State) (F : Fire), splitOk w → Stands s F →
    Elem (mk w) w w.fmt (opsOf s F w) (fun o v fl => fl = 0 ∧
      parts w.fmt w.mode (fun g a b r => delivered w.fmt.isSigned w.sat g (e (num w.fmt.isSigned g a) (num w.fmt.isSigned g b)) r)
        (bitsIn w.fmt o.l) (bitsIn w.fmt o.r) v) s F) ∧
  (∀ (w : WordA) (s : State) (F : Fire), Stands s F →
    Elem (.mulh w) w w.fmt (opsOf s F w) (fun o v fl => fl = 0 ∧
      num w.fmt.isSigned w.fmt.bits v =
        num w.fmt.isSigned w.fmt.bits (bitsIn w.fmt o.l) * num w.fmt.isSigned w.fmt.bits (bitsIn w.fmt o.r) / 2 ^ w.fmt.bits)
      s F)

/-- ADDS and SUBS deliver the sum or difference modulo 2^w to consumer 1, and to consumer 2, at the same tags, whether
the exact one lies outside the format's range: the carry or borrow of an unsigned format. A position with a BUBBLE operand
is BUBBLE on both sides. -/
def Obligations.AddsSubsMarkCarryAndRange : Prop :=
  ∀ mk e, (mk, e) ∈ ([(.adds, fun a b => a + b), (.subs, fun a b => a - b)] : List ((WordA → Instr) × (Int → Int → Int))) →
    ∀ (w : WordA) (s : State) (F : Fire), Stands s F →
      ∃ sums marks : List Emit,
        exec (mk w) s = .next (emitted s F w w.fmt.maxRun 32 sums marks) ∧
        sums.length = (opsOf s F w).length ∧ marks.length = (opsOf s F w).length ∧
        ∀ k o, (opsOf s F w)[k]? = some o →
          ∃ x y, sums[k]? = some x ∧ marks[k]? = some y ∧
            x.iter = tagOut w.tagop F.tagsel w.imm k o.iter o.l ∧ y.iter = x.iter ∧
            (o.bubble 2 = true → x.val = none ∧ y.val = none) ∧
            (o.bubble 2 = false →
              let a := num w.fmt.isSigned w.fmt.bits (bitsIn w.fmt o.l)
              let b := num w.fmt.isSigned w.fmt.bits (bitsIn w.fmt o.r)
              x.val = some (BitVec.ofNat 128 (BitVec.ofInt w.fmt.bits (e a b)).toNat) ∧
              (w.fmt.isSigned = false → y.val = some (if 0 ≤ e a b ∧ e a b < 2 ^ w.fmt.bits then 0 else 1)) ∧
              (w.fmt.isSigned = true →
                y.val = some (if -(2 ^ (w.fmt.bits - 1)) ≤ e a b ∧ e a b < 2 ^ (w.fmt.bits - 1) then 0 else 1)))

/-- DIV truncates toward zero, and gives all ones for a zero divisor; REM is what DIV leaves of the dividend, and the
dividend itself for a zero divisor. Neither raises a flag. -/
def Obligations.DivisionTruncatesWithFixedCorners : Prop :=
  ∀ (w : WordA) (s : State) (F : Fire), Stands s F →
    Elem (.div w) w w.fmt (opsOf s F w) (fun o v fl => fl = 0 ∧
      (let a := num w.fmt.isSigned w.fmt.bits (bitsIn w.fmt o.l)
       let b := num w.fmt.isSigned w.fmt.bits (bitsIn w.fmt o.r)
       (b = 0 → v = 2 ^ w.fmt.bits - 1) ∧
       (b ≠ 0 → delivered w.fmt.isSigned w.sat w.fmt.bits (a.tdiv b) v))) s F ∧
    Elem (.rem w) w w.fmt (opsOf s F w) (fun o v fl => fl = 0 ∧
      (let a := num w.fmt.isSigned w.fmt.bits (bitsIn w.fmt o.l)
       let b := num w.fmt.isSigned w.fmt.bits (bitsIn w.fmt o.r)
       num w.fmt.isSigned w.fmt.bits v = if b = 0 then a else a - a.tdiv b * b)) s F

/-- MAD adds a parameter to the product, exactly before the wrap or clamp (R151); IDX and IDX2 convert between a packed
coordinate and a linear index (R152). -/
def Obligations.MadIdxAndIdx2Compute : Prop :=
  ∀ (w : WordA) (s : State) (F : Fire), Stands s F →
    Elem (.mad w) w w.fmt (opsOf s F w) (fun o v fl => fl = 0 ∧
      delivered w.fmt.isSigned w.sat w.fmt.bits
        (num w.fmt.isSigned w.fmt.bits (bitsIn w.fmt o.l) * num w.fmt.isSigned w.fmt.bits (bitsIn w.fmt o.r) +
         num w.fmt.isSigned w.fmt.bits ((taken s F).paramVal F (w.imm.toNat % 64) w.fmt.bits).toNat) v) s F ∧
    Elem (.idx w) w w.fmt (opsOf s F w) (fun o v fl => fl = 0 ∧
      (let l := bitsIn w.fmt o.l
       let h := w.fmt.bits / 2
       delivered false w.sat w.fmt.bits ((l / 2 ^ h * bitsIn w.fmt o.r + l % 2 ^ h : Nat) : Int) v)) s F ∧
    Elem (.idx2 w) w w.fmt (opsOf s F w) (fun o v fl => fl = 0 ∧
      (let l := bitsIn w.fmt o.l
       let b := bitsIn w.fmt o.r
       let h := w.fmt.bits / 2
       let half (x : Nat) : Nat := if w.sat then min x (2 ^ h - 1) else x % 2 ^ h
       (b = 0 → v = 0) ∧ (b ≠ 0 → v / 2 ^ h = half (l / b) ∧ v % 2 ^ h = half (l % b)))) s F

/-! ## Logic, shift, bits, compare, select and predicates (R154 to R160, R183) -/

/-- AND, OR, XOR, ANDN and NOT act bit by bit on elements of their width, and PAND, POR, PXOR and PNOT on predicates; none
raises a flag. -/
def Sys2Proof.Claim.LogicActsBitByBit : Prop :=
  (∀ mk op, (mk, op) ∈ ([(.and, fun a b => a && b), (.or, fun a b => a || b), (.xor, fun a b => Bool.xor a b),
      (.andn, fun a b => a && !b), (.not, fun a _ => !a)] : List ((WordA → Instr) × (Bool → Bool → Bool))) →
    ∀ (w : WordA) (s : State) (F : Fire), Stands s F →
      Elem (mk w) w w.fmt (opsOf s F w) (fun o v fl => fl = 0 ∧
        ∀ j, j < w.fmt.bits → v.testBit j = op ((bitsIn w.fmt o.l).testBit j) ((bitsIn w.fmt o.r).testBit j)) s F) ∧
  (∀ mk op, (mk, op) ∈ ([(.pand, fun a b => a && b), (.por, fun a b => a || b), (.pxor, fun a b => Bool.xor a b),
      (.pnot, fun a _ => !a)] : List ((WordA → Instr) × (Bool → Bool → Bool))) →
    ∀ (w : WordA) (s : State) (F : Fire), Stands s F →
      Elem (mk w) w .b1 (opsOf s F w) (fun o v fl => fl = 0 ∧
        v = (op ((bitsIn .b1 o.l).testBit 0) ((bitsIn .b1 o.r).testBit 0)).toNat) s F)

/-- SHL, SHR, SHA and ROT shift by the whole unsigned amount, which is never masked: past the width the result is 0, or
the sign in every bit for SHA; ROT rotates by the amount modulo the width. Whole elements or each sub-element. -/
def Sys2Proof.Claim.ShiftsTakeTheWholeAmount : Prop :=
  ∀ mk op, (mk, op) ∈ ([(.shl, fun g a n => (BitVec.ofNat g a <<< n).toNat), (.shr, fun g a n => (BitVec.ofNat g a >>> n).toNat),
      (.sha, fun g a n => ((BitVec.ofNat g a).sshiftRight n).toNat),
      (.rot, fun g a n => ((BitVec.ofNat g a).rotateLeft n).toNat)] : List ((WordA → Instr) × (Nat → Nat → Nat → Nat))) →
    ∀ (w : WordA) (s : State) (F : Fire), splitOk w → Stands s F →
      Elem (mk w) w w.fmt (opsOf s F w) (fun o v fl => fl = 0 ∧
        parts w.fmt w.mode (fun g a n r => r = op g a n) (bitsIn w.fmt o.l) (bitsIn w.fmt o.r) v) s F

/-- CLZ counts leading zeros, POPC ones, and BREV reverses the bits (R157); BFX extracts a field, extended by the format's
sign, and BFI replaces one (R158); a BFI whose field is empty or leaves the width is refused at load (R158) and never runs. -/
def Sys2Proof.Claim.BitCountsAndFields : Prop :=
  ∀ (w : WordA) (s : State) (F : Fire), Stands s F →
    Elem (.clz w) w w.fmt (opsOf s F w) (fun o v fl => fl = 0 ∧ v ≤ w.fmt.bits ∧
      (∀ j, j < v → (bitsIn w.fmt o.l).testBit (w.fmt.bits - 1 - j) = false) ∧
      (v < w.fmt.bits → (bitsIn w.fmt o.l).testBit (w.fmt.bits - 1 - v) = true)) s F ∧
    Elem (.popc w) w w.fmt (opsOf s F w) (fun o v fl => fl = 0 ∧
      v = ((List.range w.fmt.bits).filter fun j => (bitsIn w.fmt o.l).testBit j).length) s F ∧
    Elem (.brev w) w w.fmt (opsOf s F w) (fun o v fl => fl = 0 ∧
      ∀ j, j < w.fmt.bits → v.testBit (w.fmt.bits - 1 - j) = (bitsIn w.fmt o.l).testBit j) s F ∧
    Elem (.bfx w) w w.fmt (opsOf s F w) (fun o v fl => fl = 0 ∧
      (let lo := bitsIn w.fmt o.r % 256
       let len := min (bitsIn w.fmt o.r / 256 % 256) w.fmt.bits
       (len = 0 ∨ w.fmt.bits ≤ lo → v = 0) ∧
       (len ≠ 0 → lo < w.fmt.bits → ∀ j, j < w.fmt.bits → v.testBit j =
         if j < len then (bitsIn w.fmt o.l).testBit (lo + j)
         else w.fmt.isSigned && (bitsIn w.fmt o.l).testBit (lo + len - 1)))) s F ∧
    (0 < w.imm.toNat / 256 % 256 → w.imm.toNat % 256 + w.imm.toNat / 256 % 256 ≤ w.fmt.bits →
      Elem (.bfi w) w w.fmt (opsOf s F w) (fun o v fl => fl = 0 ∧
        (let lo := w.imm.toNat % 256
         let len := w.imm.toNat / 256 % 256
         ∀ j, j < w.fmt.bits → v.testBit j =
           if lo ≤ j ∧ j < lo + len then (bitsIn w.fmt o.r).testBit (j - lo) else (bitsIn w.fmt o.l).testBit j)) s F)

/-- Logic, shift, count and field words deliver the bits that R155 to R158 give, at every position (the three parts above). -/
def Obligations.LogicShiftsAndFieldsActOnBits : Prop :=
  Claim.LogicActsBitByBit ∧ Claim.ShiftsTakeTheWholeAmount ∧ Claim.BitCountsAndFields

/-- CMP delivers a predicate: 1 where the named condition holds between the operands, signed or unsigned by the format
(R129, R159). SEL delivers R where the effective predicate is 1; where it is 0, Elem gives L (R160). -/
def Sys2Proof.Claim.CompareAndSelect : Prop :=
  (∀ c cond, (c, cond) ∈ ([(0, fun a b => a = b), (1, fun a b => a ≠ b), (2, fun a b => a < b), (3, fun a b => a ≤ b),
      (4, fun a b => b < a), (5, fun a b => b ≤ a)] : List (BitVec 3 × (Int → Int → Prop))) →
    ∀ (w : WordA) (s : State) (F : Fire), w.mode = c → Stands s F →
      Elem (.cmp w) w .b1 (opsOf s F w) (fun o v fl => fl = 0 ∧
        (v = 1 ↔ cond (num w.fmt.isSigned w.fmt.bits (bitsIn w.fmt o.l)) (num w.fmt.isSigned w.fmt.bits (bitsIn w.fmt o.r)))) s F) ∧
  (∀ (w : WordA) (s : State) (F : Fire), Stands s F →
    Elem (.sel w) w w.fmt (opsOf s F w) (fun o v fl => fl = 0 ∧ v = bitsIn w.fmt o.r) s F)

/-! ## Floating point (R116 to R119, R161 to R169) -/

namespace Sys2Proof.Claim

/-- Sign bit, exponent field and mantissa field of a floating element's bits (R108). -/
def fSign (f : Fmt) (n : Nat) : Bool := n.testBit (f.bits - 1)
def fExp (f : Fmt) (n : Nat) : Nat := n / 2 ^ (fltSpec f).m % 2 ^ (fltSpec f).e
def fMant (f : Fmt) (n : Nat) : Nat := n % 2 ^ (fltSpec f).m

/-- NaN, infinity and subnormal by the fields (R108). -/
def fNaN (f : Fmt) (n : Nat) : Bool := fExp f n == 2 ^ (fltSpec f).e - 1 && fMant f n != 0
def fSNaN (f : Fmt) (n : Nat) : Bool := fNaN f n && !(n.testBit ((fltSpec f).m - 1))
def fInf (f : Fmt) (n : Nat) : Bool := fExp f n == 2 ^ (fltSpec f).e - 1 && fMant f n == 0
def fSub (f : Fmt) (n : Nat) : Bool := fExp f n == 0 && fMant f n != 0

/-- The bits of a signed zero. -/
def fZero (f : Fmt) (s : Bool) : Nat := if s then 2 ^ (f.bits - 1) else 0

/-- An operand as it is read: with fin a subnormal reads as the zero of its sign (R116). -/
def fRead (p : Policy) (f : Fmt) (n : Nat) : Nat := if p.fin && fSub f n then fZero f (fSign f n) else n

/-- The order of values that are not NaN, by sign and magnitude: equal for the two zeros. -/
def fKey (f : Fmt) (n : Nat) : Int := if fSign f n then -((n % 2 ^ (f.bits - 1) : Nat) : Int) else (n % 2 ^ (f.bits - 1) : Nat)

/-- The same with −0 below +0 (R163). -/
def fKey0 (f : Fmt) (n : Nat) : Int := 2 * fKey f n - (if fSign f n then 1 else 0)

/-- A value delivered without rounding under fout: a subnormal becomes zero, with UF and NX (R116). -/
def fDelivered (p : Policy) (f : Fmt) (n v : Nat) (fl0 fl : Flags) : Prop :=
  if p.fout && fSub f n then v = fZero f (fSign f n) ∧ fl = fl0 ||| 3 else v = n ∧ fl = fl0

/-- Two operands of an arithmetic word, read under the block's policy. -/
def flt2 (w : WordA) (op : Policy → Fmt → Nat → Bool → FVal → FVal → Nat × Flags) (F : Fire) (o : Opnd) (v : Nat) (fl : Flags) :
    Prop :=
  let r := op F.policy w.fmt w.mode.toNat w.sat (readFlt F.policy w.fmt (o.l.getD 0)) (readFlt F.policy w.fmt (o.r.getD 0))
  v = r.1 % 2 ^ w.fmt.bits ∧ fl = r.2

/-- The arithmetic words of one and two operands, and the model's operation of each. -/
def fltRows : List ((WordA → Instr) × (Policy → Fmt → Nat → Bool → FVal → FVal → Nat × Flags)) :=
  [(.fadd, fltAdd), (.fsub, fun p f rnd sat a b => sumFlt p f rnd sat a (negF b) [a, b]), (.fmul, fltMul), (.fdiv, fltDiv),
   (.fsqrt, fun p f rnd _ a _ => fltSqrt p f rnd a), (.frnd, fun p f rnd _ a _ => fltRnd p f rnd a),
   (.frcp, fun p f rnd sat a _ => special .rcp p f rnd sat a), (.frsq, fun p f rnd sat a _ => special .rsq p f rnd sat a),
   (.fex2, fun p f rnd sat a _ => special .ex2 p f rnd sat a), (.flg2, fun p f rnd sat a _ => special .lg2 p f rnd sat a),
   (.ftnh, fun p f rnd sat a _ => special .tnh p f rnd sat a), (.fsgm, fun p f rnd sat a _ => special .sgm p f rnd sat a),
   (.fsin, fun p f rnd sat a _ => special .sin p f rnd sat a), (.fcos, fun p f rnd sat a _ => special .cos p f rnd sat a),
   (.fsilu, fun p f rnd sat a _ => special .silu p f rnd sat a)]

end Sys2Proof.Claim

/-- The rounding words of R162, R167 and R168 complete, and at each position their operands, read under the block's policy, their mode and
their sat reach the model's operation of that word, whose result and flags are delivered: FADD, FSUB, FMUL, FDIV, FSQRT, FRND and the nine
special functions, FMA and FNMA with the parameter as addend, FSCAL with its R operand, from a token or from the word (isel 0 here), read
as s32. That those operations round the exact result once is the next statement.
The model's choices: log entries 4, 48, 105. -/
def Obligations.FloatingWordsApplyTheirOperation : Prop :=
  (∀ mk op, (mk, op) ∈ fltRows → ∀ (w : WordA) (s : State) (F : Fire), Stands s F →
    Elem (mk w) w w.fmt (opsOf s F w) (flt2 w op F) s F) ∧
  (∀ mk neg, (mk, neg) ∈ ([(.fma, false), (.fnma, true)] : List ((WordA → Instr) × Bool)) →
    ∀ (w : WordA) (s : State) (F : Fire), Stands s F →
      Elem (mk w) w w.fmt (opsOf s F w) (flt2 w (fun p f rnd sat a b =>
        fltFma p f rnd sat a b (readFlt p f ((taken s F).paramVal F (w.imm.toNat % 64) f.bits)) neg) F) s F) ∧
  (∀ (w : WordA) (s : State) (F : Fire), Stands s F → w.isel = 0 →
    Elem (.fscal w) w w.fmt (F.f.pos.map fun q => { iter := q.iter, l := q.l, r := q.r, p := q.p }) (fun o v fl =>
      let r := fltScal F.policy w.fmt w.mode.toNat w.sat (readFlt F.policy w.fmt (o.l.getD 0))
        (BitVec.ofNat 32 (o.r.getD 0).toNat).toInt
      v = r.1 % 2 ^ w.fmt.bits ∧ fl = r.2) s F)

/-- The magnitude that the bits below the sign bit encode, in units of the format's least subnormal, and the first of them that encodes
none (R108). -/
def Sys2Proof.Claim.fUnits (f : Fmt) (k : Nat) : Nat :=
  if k < 2 ^ (fltSpec f).m then k else (2 ^ (fltSpec f).m + k % 2 ^ (fltSpec f).m) * 2 ^ (k / 2 ^ (fltSpec f).m - 1)
def Sys2Proof.Claim.fTop (f : Fmt) : Nat := if f = .e4m3 then 0x7F else (2 ^ (fltSpec f).e - 1) * 2 ^ (fltSpec f).m

/-- `q` halves of the least subnormal beside the number whose power `pow` (1, or 2 for a square root) is `n` / `den` × 2^`e`. -/
def Sys2Proof.Claim.fBeside (f : Fmt) (pow n den : Nat) (e : Int) (q : Nat) : Ordering :=
  let b : Int := pow * ((fltSpec f).bias + (fltSpec f).m : Nat)
  compare (q ^ pow * den * 2 ^ (-b - e).toNat) (n * 2 ^ (e + b).toNat)

/-- `r` delivers a number that is not 0, with the sign of `v` and |v| / `den` × 2^`e` for its power `pow`, rounded once in mode `rnd` to
format `f` (R118): with OF raised the number lies beyond the largest finite value; otherwise the magnitude delivered is the nearest to its
magnitude, at a tie the even encoding or the greater one, or the nearest one toward zero, or the nearest one that is not less, as the mode
and the sign say, and NX is raised where it differs. -/
def Sys2Proof.Claim.Rounded (f : Fmt) (rnd pow : Nat) (v : Int) (den : Nat) (e : Int) (r : Nat × Flags) : Prop :=
  let k := r.1 % 2 ^ (f.bits - 1)
  let c (i j : Nat) : Ordering := Claim.fBeside f pow v.natAbs den e (Claim.fUnits f i + Claim.fUnits f j)
  let top := Claim.fTop f
  (r.2 &&& 4 ≠ 0 → c (top - 1) (top - 1) = .lt) ∧
  (r.2 &&& 4 = 0 → k < top ∧ (k ≠ 0 → fSign f r.1 = decide (v < 0)) ∧ (r.2 &&& 1 ≠ 0 ↔ c k k ≠ .eq) ∧ ∀ j, j < top →
    (rnd = 0 → (j < k → c j k = .lt ∨ (c j k = .eq ∧ k % 2 = 0)) ∧ (k < j → c j k = .gt ∨ (c j k = .eq ∧ k % 2 = 0))) ∧
    (rnd = 4 → (j < k → c j k ≠ .gt) ∧ (k < j → c j k = .gt)) ∧
    (rnd = 1 ∨ (rnd = 2 ∧ v < 0) ∨ (rnd = 3 ∧ 0 < v) → c k k ≠ .gt ∧ (c j j ≠ .gt → j ≤ k)) ∧
    ((rnd = 2 ∧ 0 < v) ∨ (rnd = 3 ∧ v < 0) → c k k ≠ .lt ∧ (c j j ≠ .lt → k ≤ j)))

/-- Sums, differences, products, quotients, square roots, fused products and sums, scalings and conversions of finite operands
(-1)^s × m × 2^e deliver their exact result rounded once, in every floating format and mode with fout = 0 (R116, R118, R162, R171). -/
def Sys2Proof.Claim.FloatingResultsAreRoundedOnce : Prop :=
  ∀ (p : Policy) (f : Fmt) (rnd : Nat) (sat : Bool), f ∈ [Fmt.e4m3, .e5m2, .f16, .bf16, .f32, .f64] → rnd ≤ 4 → p.fout = false →
    ∀ (s t u : Bool) (m n l : Nat) (e g h : Int),
      let signed (s : Bool) (m : Nat) : Int := if s then -(m : Int) else m
      let plus (v : Int) (e : Int) (w : Int) (g : Int) : Int := v * 2 ^ (e - min e g).toNat + w * 2 ^ (g - min e g).toNat
      let x := signed s m
      let y := signed t n
      let a := FVal.fin s m e
      let b := FVal.fin t n g
      (plus x e y g ≠ 0 → Claim.Rounded f rnd 1 (plus x e y g) 1 (min e g) (fltAdd p f rnd sat a b)) ∧
      (plus x e (-y) g ≠ 0 → Claim.Rounded f rnd 1 (plus x e (-y) g) 1 (min e g) (sumFlt p f rnd sat a (negF b) [a, b])) ∧
      (x * y ≠ 0 → Claim.Rounded f rnd 1 (x * y) 1 (e + g) (fltMul p f rnd sat a b)) ∧
      (x ≠ 0 → y ≠ 0 → Claim.Rounded f rnd 1 (if t then -x else x) n (e - g) (fltDiv p f rnd sat a b)) ∧
      (0 < x → Claim.Rounded f rnd 2 x 1 e (fltSqrt p f rnd a)) ∧
      (∀ neg : Bool, let xy := if neg then -(x * y) else x * y
        plus xy (e + g) (signed u l) h ≠ 0 → Claim.Rounded f rnd 1 (plus xy (e + g) (signed u l) h) 1 (min (e + g) h)
          (fltFma p f rnd sat a b (.fin u l h) neg)) ∧
      (∀ k : Int, x ≠ 0 → Claim.Rounded f rnd 1 x 1 (e + k) (fltScal p f rnd sat a k)) ∧
      (x ≠ 0 → Claim.Rounded f rnd 1 x 1 e (fltToFlt p f rnd sat a)) ∧
      (∀ v : Int, v ≠ 0 → Claim.Rounded f rnd 1 v 1 0 (intToFlt p f rnd sat v))

/-- The invalid operations, divisions by zero and special operands of R162 and R169, in every class F format, mode and
policy: what is delivered and which flag is raised. The canonical NaN is R108's. -/
def Sys2Proof.Claim.FloatingCornersRaiseTheirFlags : Prop :=
  ∀ (p : Policy) (f : Fmt) (rnd : Nat) (sat : Bool), f.classF = true →
    let nan : Nat := if f = .f16 then 0x7E00 else if f = .bf16 then 0x7FC0 else if f = .f32 then 0x7FC00000 else 0x7FF8000000000000
    let inf (s : Bool) : Nat := fZero f s + (2 ^ (fltSpec f).e - 1) * 2 ^ (fltSpec f).m
    let one : Nat := if f = .f16 then 0x3C00 else if f = .bf16 then 0x3F80 else if f = .f32 then 0x3F800000 else 0x3FF0000000000000
    (∀ s, fltAdd p f rnd sat (.inf s) (.inf !s) = (nan, 16)) ∧
    (∀ s t e, fltMul p f rnd sat (.fin s 0 e) (.inf t) = (nan, 16) ∧ fltMul p f rnd sat (.inf t) (.fin s 0 e) = (nan, 16)) ∧
    (∀ s t m e g, m ≠ 0 → fltDiv p f rnd sat (.fin s m e) (.fin t 0 g) = (inf (s != t), 8)) ∧
    (∀ s t e g, fltDiv p f rnd sat (.fin s 0 e) (.fin t 0 g) = (nan, 16) ∧ fltDiv p f rnd sat (.inf s) (.inf t) = (nan, 16)) ∧
    (∀ m e, m ≠ 0 → fltSqrt p f rnd (.fin true m e) = (nan, 16)) ∧
    (∀ s e, fltSqrt p f rnd (.fin s 0 e) = (fZero f s, 0)) ∧
    (∀ s e, special .rcp p f rnd sat (.fin s 0 e) = (inf s, 8) ∧ special .rsq p f rnd sat (.fin s 0 e) = (inf s, 8) ∧
      special .lg2 p f rnd sat (.fin s 0 e) = (inf true, 8) ∧ special .ex2 p f rnd sat (.fin s 0 e) = (one, 0) ∧
      special .cos p f rnd sat (.fin s 0 e) = (one, 0) ∧ special .tnh p f rnd sat (.fin s 0 e) = (fZero f s, 0) ∧
      special .sin p f rnd sat (.fin s 0 e) = (fZero f s, 0) ∧ special .silu p f rnd sat (.fin s 0 e) = (fZero f s, 0)) ∧
    (∀ s, special .rcp p f rnd sat (.inf s) = (fZero f s, 0) ∧ special .sin p f rnd sat (.inf s) = (nan, 16) ∧
      special .cos p f rnd sat (.inf s) = (nan, 16)) ∧
    special .rsq p f rnd sat (.inf true) = (nan, 16) ∧ special .lg2 p f rnd sat (.inf true) = (nan, 16) ∧
    special .ex2 p f rnd sat (.inf false) = (inf false, 0) ∧ special .ex2 p f rnd sat (.inf true) = (0, 0) ∧
    special .tnh p f rnd sat (.inf false) = (one, 0) ∧ special .sgm p f rnd sat (.inf false) = (one, 0) ∧
    special .sgm p f rnd sat (.inf true) = (0, 0) ∧ special .silu p f rnd sat (.inf true) = (fZero f true, 0) ∧
    (∀ m e, m ≠ 0 → special .rsq p f rnd sat (.fin true m e) = (nan, 16) ∧ special .lg2 p f rnd sat (.fin true m e) = (nan, 16))

/-- Floating results are rounded once, and the corners raise their flags (the two parts above). -/
def Obligations.FloatingResultsRoundAndCornersFlag : Prop :=
  Claim.FloatingResultsAreRoundedOnce ∧ Claim.FloatingCornersRaiseTheirFlags

/-- FABS, FNEG and FCPYS act on the sign bit alone, on bits as they stand, and raise no flag. -/
def Obligations.SignWordsActOnTheSignBit : Prop :=
  ∀ mk sgn, (mk, sgn) ∈ ([(.fabs, fun _ _ => false), (.fneg, fun a _ => !a), (.fcpys, fun _ b => b)] :
      List ((WordA → Instr) × (Bool → Bool → Bool))) →
    ∀ (w : WordA) (s : State) (F : Fire), Stands s F →
      Elem (mk w) w w.fmt (opsOf s F w) (fun o v fl => fl = 0 ∧
        (∀ j, j < w.fmt.bits - 1 → v.testBit j = (bitsIn w.fmt o.l).testBit j) ∧
        v.testBit (w.fmt.bits - 1) = sgn (fSign w.fmt (bitsIn w.fmt o.l)) (fSign w.fmt (bitsIn w.fmt o.r))) s F

/-- FCMP compares values by sign and magnitude, with the NaN rules of R165; FCLASS sets the one bit of R166's class; FMIN
and FMAX deliver the lesser or greater operand with −0 below +0, or the operand that is not NaN (R163). The class F formats
order as their sign and magnitude bits do. -/
def Sys2Proof.Claim.FloatingCompareClassifyAndMinMax : Prop :=
  ∀ (w : WordA) (s : State) (F : Fire), w.fmt.classF = true → Stands s F →
    (w.mode.toNat ≤ 6 →
      Elem (.fcmp w) w .b1 (opsOf s F w) (fun o v fl =>
        let a := fRead F.policy w.fmt (bitsIn w.fmt o.l)
        let b := fRead F.policy w.fmt (bitsIn w.fmt o.r)
        let c := w.mode.toNat
        (fNaN w.fmt a || fNaN w.fmt b) = true →
          (v = 1 ↔ c = 1 ∨ c = 6) ∧
          (fl = if fSNaN w.fmt a || fSNaN w.fmt b || (2 ≤ c && c ≤ 5) then 16 else 0)) s F ∧
      Elem (.fcmp w) w .b1 (opsOf s F w) (fun o v fl =>
        let a := fRead F.policy w.fmt (bitsIn w.fmt o.l)
        let b := fRead F.policy w.fmt (bitsIn w.fmt o.r)
        let c := w.mode.toNat
        (fNaN w.fmt a || fNaN w.fmt b) = false → fl = 0 ∧
          (v = 1 ↔ (c = 0 ∧ fKey w.fmt a = fKey w.fmt b) ∨ (c = 1 ∧ fKey w.fmt a ≠ fKey w.fmt b) ∨
            (c = 2 ∧ fKey w.fmt a < fKey w.fmt b) ∨ (c = 3 ∧ fKey w.fmt a ≤ fKey w.fmt b) ∨
            (c = 4 ∧ fKey w.fmt b < fKey w.fmt a) ∨ (c = 5 ∧ fKey w.fmt b ≤ fKey w.fmt a))) s F) ∧
    Elem (.fclass w) w .n32 (opsOf s F w) (fun o v fl =>
      let a := bitsIn w.fmt o.l
      let sg := fSign w.fmt a
      fl = 0 ∧ v = 2 ^ (if fSNaN w.fmt a then 8 else if fNaN w.fmt a then 9
        else if fInf w.fmt a then (if sg then 0 else 7)
        else if fExp w.fmt a ≠ 0 then (if sg then 1 else 6)
        else if fMant w.fmt a ≠ 0 then (if sg then 2 else 5) else if sg then 3 else 4)) s F ∧
    (∀ mk mx, (mk, mx) ∈ ([(.fmin, false), (.fmax, true)] : List ((WordA → Instr) × Bool)) →
      Elem (mk w) w w.fmt (opsOf s F w) (fun o v fl =>
        let a := fRead F.policy w.fmt (bitsIn w.fmt o.l)
        let b := fRead F.policy w.fmt (bitsIn w.fmt o.r)
        let nv : Flags := if fSNaN w.fmt a || fSNaN w.fmt b then 16 else 0
        (fNaN w.fmt a = true → fNaN w.fmt b = true → fNaN w.fmt v = true ∧ fSNaN w.fmt v = false ∧ fl = nv) ∧
        (fNaN w.fmt a = true → fNaN w.fmt b = false → fDelivered F.policy w.fmt b v nv fl) ∧
        (fNaN w.fmt a = false → fNaN w.fmt b = true → fDelivered F.policy w.fmt a v nv fl) ∧
        (fNaN w.fmt a = false → fNaN w.fmt b = false →
          fDelivered F.policy w.fmt
            (if mx then (if fKey0 w.fmt a < fKey0 w.fmt b then b else a) else (if fKey0 w.fmt a < fKey0 w.fmt b then a else b))
            v nv fl)) s F)

/-- Comparisons, selections and classes, of integers and of floating values (the two parts above).
The model's choices: log entry 48. -/
def Obligations.ComparisonsSelectAndClassify : Prop :=
  Claim.CompareAndSelect ∧ Claim.FloatingCompareClassifyAndMinMax

/-! ## Conversion, packing, reduction, flags (R121, R170 to R184) -/

namespace Sys2Proof.Claim

/-- The tag of position `k` of a format A firing under the word's tag operation (R84). -/
def tagAt (F : Fire) (w : WordA) (k : Nat) (q : FPos) : Iter := tagOut w.tagop F.tagsel w.imm k q.iter q.l

/-- A reduction: one scalar to both consumers with position 0's tag; any BUBBLE makes it BUBBLE; otherwise `R` relates the
elements' bits to the result's bits and flags (R179). -/
def Reduces (i : Instr) (w : WordA) (out : Fmt) (R : List Nat → Nat → Flags → Prop) (s : State) (F : Fire) : Prop :=
  ∃ r : Res,
    exec i s = .next (commit s (((taken s F).addFlags F.hearth F.ce F.ctx w.nf [r]).emitBoth F w.cons1 w.cons2 out.maxRun [r.emit])) ∧
    (∀ q rest, F.f.pos = q :: rest → r.iter = tagAt F w 0 q) ∧
    ((∃ q ∈ F.f.pos, q.l = none) → r.val = none ∧ r.flags = 0) ∧
    ((∀ q ∈ F.f.pos, q.l ≠ none) →
      ∃ v, r.val = some (BitVec.ofNat 128 v) ∧ v < 2 ^ out.bits ∧ R (F.f.pos.map fun q => bitsIn w.fmt q.l) v r.flags)

end Sys2Proof.Claim

/-- CVT converts to the target format: an integer exactly, then wrapped or clamped without a flag; a NaN to 0 with NV;
everything else by the model's rounding conversion (R171). SCALE and SCAC multiply by scales, rounded once, an e8 of 0xFF
giving the canonical NaN (R174, R175). KEY joins two elements into one of twice the width (R177).
The model's choices: log entry 78. -/
def Obligations.ConversionsDeliverTheirTarget : Prop :=
  ∀ (w : WordA) (s : State) (F : Fire), Stands s F →
    Elem (.cvt w) w (Fmt.ofCode (w.imm.toNat % 16)) (opsOf s F w) (fun o v fl =>
      let dst := Fmt.ofCode (w.imm.toNat % 16)
      (w.fmt.isInt = true → dst.isInt = true → fl = 0 ∧
        delivered dst.isSigned w.sat dst.bits (num w.fmt.isSigned w.fmt.bits (bitsIn w.fmt o.l)) v) ∧
      (w.fmt.classF = true → dst.isInt = true → fNaN w.fmt (bitsIn w.fmt o.l) = true → v = 0 ∧ fl = 16) ∧
      (let r := convert F.policy w.fmt dst w.mode.toNat w.sat (o.l.getD 0); v = r.1 % 2 ^ dst.bits ∧ fl = r.2)) s F ∧
    Elem (.scale w) w w.fmt (opsOf s F w) (fun o v fl =>
      let a := readFlt F.policy w.fmt (o.l.getD 0)
      let k := (o.r.getD 0).toNat % 2 ^ 16
      (w.imm.toNat % 4 = 1 → k % 256 = 255 → v = fltNaN w.fmt % 2 ^ w.fmt.bits ∧ fl = (if isSNaN a then 16 else 0)) ∧
      (¬(w.imm.toNat % 4 = 1 ∧ k % 256 = 255) →
        let r := fltMul F.policy w.fmt w.mode.toNat w.sat a (scaleVal F.policy (w.imm.toNat % 4 == 1) k)
        v = r.1 % 2 ^ w.fmt.bits ∧ fl = r.2)) s F ∧
    Elem (.scac w) w w.fmt (opsOf s F w) (fun o v fl =>
      let r := scacElem w F.policy (readFlt F.policy w.fmt (o.l.getD 0)) (readFlt F.policy w.fmt (o.r.getD 0)) o.pair.1.toNat
        o.pair.2.toNat
      v = r.1 % 2 ^ w.fmt.bits ∧ fl = r.2) s F ∧
    (w.fmt = .n8 ∨ w.fmt = .n16 ∨ w.fmt = .n32 →
      Elem (.key w) w (Fmt.ofCode (w.fmt.code + 2)) (opsOf s F w) (fun o v fl => fl = 0 ∧
        v = bitsIn w.fmt o.l * 2 ^ w.fmt.bits + bitsIn w.fmt o.r) s F)

/-- CVTO and CVTL send the converted run to consumer 1, with the outlier positions clamped (CVTO) or zero (CVTL), and one
scalar for each outlier to consumer 2, of kind OVF or DATA, with consumer 1's tag and the unrounded source element. -/
def Obligations.NarrowingSeparatesOutliers : Prop :=
  ∀ mk lost, (mk, lost) ∈ ([(.cvto, false), (.cvtl, true)] : List ((WordA → Instr) × Bool)) →
    ∀ (w : WordA) (s : State) (F : Fire), Stands s F →
      let dst := Fmt.ofCode (w.imm.toNat % 16)
      let out (v : Val) : Bool := isOutlier dst w.mode.toNat (readFlt F.policy w.fmt v)
      ∃ rs : List Res,
        exec (mk w) s = .next (commit s
          ((F.f.pos.zipIdx.filterMap fun (q, k) => match q.l with
            | some v => if out v then some (tagAt F w k q, BitVec.ofNat 128 (v.toNat % 2 ^ w.fmt.bits)) else none
            | none => none).foldl
            (fun t x => t.sendCons F.cc.bind F.cc.block F.slot 1 w.cons2 (if lost then .data else .ovf) x.1 [x.2] []
              (if w.fmt.bits = 64 then 2 else 1))
            (((taken s F).addFlags F.hearth F.ce F.ctx w.nf rs).emit F 0 w.cons1 dst.maxRun (rs.map Res.emit)))) ∧
        rs.length = F.f.pos.length ∧
        ∀ k q, F.f.pos[k]? = some q → ∃ r, rs[k]? = some r ∧ r.iter = tagAt F w k q ∧
          (q.l = none → r.val = none ∧ r.flags = 0) ∧
          (∀ v, q.l = some v → out v = true → lost = true → r.val = some 0 ∧ r.flags = 0) ∧
          (∀ v, q.l = some v → out v = true → lost = false →
            r.val = some (BitVec.ofNat 128 (outlierValue dst (readFlt F.policy w.fmt v) % 2 ^ dst.bits)) ∧
            r.flags = outlierFlags (readFlt F.policy w.fmt v)) ∧
          (∀ v, q.l = some v → out v = false →
            let c := convert F.policy w.fmt dst w.mode.toNat false v
            r.val = some (BitVec.ofNat 128 (c.1 % 2 ^ dst.bits)) ∧ r.flags = c.2)

/-- PACK, UNPK and CBDEC number their results themselves (R173, R176): UNPK's position k of the word at tag t stands at
g × t + k and holds its element extended by the format's sign; CBDEC's weight k of the index at tag t stands at 8 × t + k;
PACK's word at a tag holds, at place k, the element of tag g × (that tag) + k, zero where the firing has none. A BUBBLE
position makes all that comes of it BUBBLE. -/
def Obligations.PackedWordsNumberTheirPositions : Prop :=
  ∀ (w : WordA) (s : State) (F : Fire), Stands s F →
    (∃ l : List Emit, exec (.unpk w) s = .next (emitted s F w 32 32 l l) ∧
      l.length = 32 / w.fmt.bits * F.f.pos.length ∧
      ∀ i q k, F.f.pos[i]? = some q → k < 32 / w.fmt.bits → ∃ x, l[32 / w.fmt.bits * i + k]? = some x ∧
        x.iter = BitVec.ofNat 24 (32 / w.fmt.bits * q.iter.toNat + k) ∧
        (q.l = none → x.val = none) ∧
        (∀ v, q.l = some v →
          let e := v.toNat % 2 ^ 32 / 2 ^ (w.fmt.bits * k) % 2 ^ w.fmt.bits
          x.val = some (if w.fmt.isSigned then BitVec.ofNat 128 (BitVec.ofInt 32 (BitVec.ofNat w.fmt.bits e).toInt).toNat
            else BitVec.ofNat 128 e))) ∧
    (∃ l : List Emit, exec (.cbdec w) s = .next (emitted s F w 32 32 l l) ∧ l.length = 8 * F.f.pos.length ∧
      ∀ i q k, F.f.pos[i]? = some q → k < 8 → ∃ x, l[8 * i + k]? = some x ∧
        x.iter = BitVec.ofNat 24 (8 * q.iter.toNat + k) ∧
        (q.l = none → x.val = none) ∧
        (∀ v, q.l = some v →
          let shell := F.ch.image.shells.getD F.policy.cbtab []
          let dst := Fmt.ofCode (w.imm.toNat % 16)
          let entry := (shell.getD (v.toNat % 65536 / 256) 0).toNat
          let h := v.toNat % 2
          let neg := if k < 7 then v.toNat.testBit (k + 1) else ((List.range 7).filter (fun j => v.toNat.testBit (j + 1))).length % 2 == 1
          let mag : Int := (2 * (entry / 2 ^ (4 * k) % 8) + h : Nat)
          x.val = some (BitVec.ofNat 128 (weightBits dst (if neg then -mag else mag) % 2 ^ dst.bits)))) ∧
    (∀ t : Iter, F.f.pos.length ≤ 32 → (∀ k q, F.f.pos[k]? = some q → q.iter = t + BitVec.ofNat 24 k) →
      w.fmt.bits = 8 ∨ w.fmt.bits = 16 →
      ∃ l : List Emit, exec (.pack w) s = .next (emitted s F w 32 32 l l) ∧
        (l.map Emit.iter).Nodup ∧
        (∀ u, u ∈ l.map Emit.iter ↔ ∃ q ∈ F.f.pos, u = BitVec.ofNat 24 (q.iter.toNat / (32 / w.fmt.bits))) ∧
        ∀ x ∈ l,
          ((∃ q ∈ F.f.pos, x.iter = BitVec.ofNat 24 (q.iter.toNat / (32 / w.fmt.bits)) ∧ q.l = none) → x.val = none) ∧
          ((∀ q ∈ F.f.pos, x.iter = BitVec.ofNat 24 (q.iter.toNat / (32 / w.fmt.bits)) → q.l ≠ none) →
            ∃ n, x.val = some (BitVec.ofNat 128 n) ∧ n < 2 ^ 32 ∧ ∀ k, k < 32 / w.fmt.bits →
              n / 2 ^ (w.fmt.bits * k) % 2 ^ w.fmt.bits =
                match F.f.pos.find? fun q => q.iter.toNat == 32 / w.fmt.bits * x.iter.toNat + k with
                | some q => bitsIn w.fmt q.l
                | none => 0))

/-- VSUM, VMAX, VMIN, VAND, VOR and PCNT reduce a firing to one scalar: the exact sum wrapped or clamped once, the greatest
or least, the bits of all or any, the count of ones; over floating elements by the tree of R125, each node rounded. -/
def Sys2Proof.Claim.ReductionsEmitOneScalar : Prop :=
  ∀ (w : WordA) (s : State) (F : Fire), Stands s F → F.f.pos ≠ [] → F.f.pos.length ≤ 32 →
    Reduces (.vsum w) w w.fmt (fun l v fl =>
      (w.fmt.isFloat = false → fl = 0 ∧
        delivered w.fmt.isSigned w.sat w.fmt.bits ((l.map (num w.fmt.isSigned w.fmt.bits)).sum) v) ∧
      (w.fmt.isFloat = true →
        let r := treeFlt w F.policy (fun p a b => fltAdd p w.fmt w.mode.toNat w.sat a b) l
        v = r.1 % 2 ^ w.fmt.bits ∧ fl = r.2)) s F ∧
    (∀ mk mx, (mk, mx) ∈ ([(.vmax, true), (.vmin, false)] : List ((WordA → Instr) × Bool)) →
      Reduces (mk w) w w.fmt (fun l v fl =>
        (w.fmt.isFloat = false → fl = 0 ∧ v ∈ l ∧
          ∀ x ∈ l, if mx then num w.fmt.isSigned w.fmt.bits x ≤ num w.fmt.isSigned w.fmt.bits v
            else num w.fmt.isSigned w.fmt.bits v ≤ num w.fmt.isSigned w.fmt.bits x) ∧
        (w.fmt.isFloat = true →
          let r := treeFlt w F.policy (fun p a b => fltMinMax p w.fmt mx a b) l
          v = r.1 % 2 ^ w.fmt.bits ∧ fl = r.2)) s F) ∧
    Reduces (.vand w) w w.fmt (fun l v fl => fl = 0 ∧
      ∀ j, j < w.fmt.bits → v.testBit j = l.all fun x => x.testBit j) s F ∧
    Reduces (.vor w) w w.fmt (fun l v fl => fl = 0 ∧
      ∀ j, j < w.fmt.bits → v.testBit j = l.any fun x => x.testBit j) s F ∧
    Reduces (.pcnt w) w .n32 (fun _ v fl => fl = 0 ∧
      v = (F.f.pos.filter fun q => ((q.l.getD 0).toNat.testBit 0)).length) s F

/-- VSCN delivers running sums, each step wrapped, clamped or rounded, BUBBLE from the first BUBBLE position on (R181); VSPL
sends even and odd tags, halved, to its two consumers, and VCAT interleaves two runs at doubled tags (R182). -/
def Sys2Proof.Claim.ScanSumSplitAndConcatenate : Prop :=
  ∀ (w : WordA) (s : State) (F : Fire), Stands s F →
    (∃ rs : List Res,
      exec (.vscn w) s = .next (commit s (((taken s F).addFlags F.hearth F.ce F.ctx w.nf rs).emitBoth F w.cons1 w.cons2
        w.fmt.maxRun (rs.map Res.emit))) ∧
      rs.length = F.f.pos.length ∧
      ∀ k q, F.f.pos[k]? = some q → ∃ r, rs[k]? = some r ∧ r.iter = tagAt F w k q ∧
        ((∃ j p, j ≤ k ∧ F.f.pos[j]? = some p ∧ p.l = none) → r.val = none ∧ r.flags = 0) ∧
        ((∀ j p, j ≤ k → F.f.pos[j]? = some p → p.l ≠ none) →
          ∃ v, r.val = some (BitVec.ofNat 128 v) ∧ v < 2 ^ w.fmt.bits ∧
            (k = 0 → w.fmt.isFloat = false → v = bitsIn w.fmt q.l ∧ r.flags = 0) ∧
            (k = 0 → w.fmt.isFloat = true → let x := oneFlt w F.policy (bitsIn w.fmt q.l)
              v = x.1 % 2 ^ w.fmt.bits ∧ r.flags = x.2) ∧
            (∀ j, k = j + 1 → ∃ p u, rs[j]? = some p ∧ p.val = some (BitVec.ofNat 128 u) ∧ u < 2 ^ w.fmt.bits ∧
              (w.fmt.isFloat = false → r.flags = 0 ∧ delivered w.fmt.isSigned w.sat w.fmt.bits
                (num w.fmt.isSigned w.fmt.bits u + num w.fmt.isSigned w.fmt.bits (bitsIn w.fmt q.l)) v) ∧
              (w.fmt.isFloat = true →
                let x := fltAdd F.policy w.fmt w.mode.toNat w.sat (readFlt F.policy w.fmt (BitVec.ofNat 128 u))
                  (readFlt F.policy w.fmt (q.l.getD 0))
                v = x.1 % 2 ^ w.fmt.bits ∧ r.flags = x.2)))) ∧
    (let side (b : Bool) : List Emit :=
        (F.f.pos.filter fun q => q.iter.getLsbD 0 == b).map fun q => Emit.mk (BitVec.ushiftRight q.iter 1) q.l
     exec (.vspl w) s = .next (emitted s F w w.fmt.maxRun w.fmt.maxRun (side false) (side true))) ∧
    (∃ l : List Emit, exec (.vcat w) s = .next (emitted s F w w.fmt.maxRun w.fmt.maxRun l l) ∧
      l.length = 2 * F.f.pos.length ∧
      ∀ k q, F.f.pos[k]? = some q →
        l[2 * k]? = some (Emit.mk (q.iter + q.iter) (if q.l = none ∨ q.r = none then none else q.l)) ∧
        l[2 * k + 1]? = some (Emit.mk (q.iter + q.iter + 1) (if q.l = none ∨ q.r = none then none else q.r)))

/-- Run reductions emit one scalar; running sums, splits and concatenations emit theirs (the two parts above).
The model's choices: log entry 25. -/
def Obligations.ReductionsScansSplitsAndConcatenations : Prop :=
  Claim.ReductionsEmitOneScalar ∧ Claim.ScanSumSplitAndConcatenate

/-- The flag file that a word of the charge finds: the context's, with the flags of the matrix entries that have finished by now
(R255). -/
def Sys2Proof.Claim.fileOf (s : State) (F : Fire) : List Flags :=
  [false, true].foldl (init := F.cc.flags) fun file m =>
    let x := (s.ce F.hearth F.ce).mx m
    if x.owner = some F.cc.bind ∧ x.until_ ≤ s.cycle then
      x.pend.foldl (fun file p => orFlag file (BitVec.ofNat 24 p.1) p.2) file
    else file

/-- RDFL delivers the flag entry of each trigger position's iter modulo 32; CLFL clears the mask's bits in those entries,
and in no other, and passes the trigger run on (R184). Both find the flags of every matrix entry that has finished, and of none that
still runs (R255). -/
def Sys2Proof.Claim.FlagWordsReadAndClearEntries : Prop :=
  ∀ (w : WordA) (s : State) (F : Fire), Stands s F →
    let u := (taken s F).settleFlags F.hearth F.ce F.ctx F.cc.bind
    let old := fileOf s F
    (∃ l : List Emit, exec (.rdfl w) s = .next (commit s (u.emitBoth F w.cons1 w.cons2 32 l)) ∧ l.length = F.f.pos.length ∧
      ∀ k q, F.f.pos[k]? = some q → l[k]? = some
        (Emit.mk (tagAt F w k q) (q.l.map fun _ => BitVec.ofNat 128 (old.getD (q.iter.toNat % 32) 0).toNat))) ∧
    (∃ (l : List Emit) (file : List Flags),
      exec (.clfl w) s = .next (commit s ((u.modCtx F.hearth F.ce F.ctx fun x => { x with flags := file }).emitBoth F
        w.cons1 w.cons2 32 l)) ∧
      l.length = F.f.pos.length ∧ (∀ k q, F.f.pos[k]? = some q → l[k]? = some (Emit.mk (tagAt F w k q) q.l)) ∧
      file.length = old.length ∧
      ∀ j, j < file.length → file.getD j 0 =
        if F.f.pos.any fun q => q.l.isSome && q.iter.toNat % 32 == j then old.getD j 0 &&& ~~~(BitVec.ofNat 5 w.imm.toNat)
        else old.getD j 0)

/-! ## Tokens and control (R132 to R139) -/

namespace Sys2Proof.Claim

/-- A list of results, one for each position of the firing: `x` gives position `k`'s tag and value. -/
def Each (F : Fire) (l : List Emit) (x : Nat → FPos → Iter × Option Val) : Prop :=
  l.length = F.f.pos.length ∧ ∀ k q, F.f.pos[k]? = some q → l[k]? = some (Emit.mk (x k q).1 (x k q).2)

/-- An immediate read in the format (R85). -/
def immIn (f : Fmt) (imm : BitVec 21) : Nat :=
  if f = .f32 then imm.toNat * 2 ^ 11
  else if f = .f64 then imm.toNat * 2 ^ 43
  else if f.isSigned then (BitVec.ofInt f.bits imm.toInt).toNat
  else imm.toNat % 2 ^ f.bits

/-- The positions, in order, that `pick` gives a value, at their tags. -/
def picked (F : Fire) (w : WordA) (pick : FPos → Option (Option Val)) : List Emit :=
  F.f.pos.zipIdx.filterMap fun (q, k) => (pick q).map fun v => Emit.mk (tagAt F w k q) v

/-- The value operand of a format B word at a position: the immediate, a parameter, or the R token (R131). -/
def valueOf (s : State) (F : Fire) (w : WordB) (q : FPos) : Option Nat :=
  if w.isel = 2 then some w.imm.toNat
  else if w.isel = 3 then some ((taken s F).paramVal F (w.imm.toNat % 64) 32).toNat
  else q.r.map fun v => v.toNat % 2 ^ w.fmt.bits

end Sys2Proof.Claim

/-- NOP and SINK consume and emit nothing; DUP, SYNC, CONST, ISBUB, TRIG and EOS complete with R134's, R135's and R138's
results, a BUBBLE position passing as BUBBLE where the rule does not give it data. -/
def Sys2Proof.Claim.TokenWordsForwardTheirRuns : Prop :=
  ∀ (w : WordA) (s : State) (F : Fire), Stands s F →
    exec (.nop w) s = .next (commit s (taken s F)) ∧ exec (.sink w) s = .next (commit s (taken s F)) ∧
    (∃ l, exec (.dup w) s = .next (emitted s F w w.fmt.maxRun w.fmt.maxRun l l) ∧
      Each F l fun k q => (tagAt F w k q, q.l)) ∧
    (∃ l m, exec (.sync w) s = .next (emitted s F w w.fmt.maxRun w.fmt.maxRun l m) ∧
      Each F l (fun k q => (tagAt F w k q, if q.l = none ∨ q.r = none then none else q.l)) ∧
      Each F m (fun k q => (tagAt F w k q, if q.l = none ∨ q.r = none then none else q.r))) ∧
    (∃ l, exec (.const w) s = .next (emitted s F w w.fmt.maxRun w.fmt.maxRun l l) ∧
      Each F l fun k q => (tagAt F w k q, if q.l = none then none
        else some (if w.isel = 3 then (taken s F).paramVal F (w.imm.toNat % 64) w.fmt.bits
          else BitVec.ofNat 128 (immIn w.fmt w.imm)))) ∧
    (∃ l m, exec (.isbub w) s = .next (emitted s F w 32 w.fmt.maxRun l m) ∧
      Each F l (fun k q => (tagAt F w k q, some (if q.l = none then 1 else 0))) ∧
      Each F m (fun k q => (tagAt F w k q, q.l))) ∧
    (∀ q rest, F.f.pos = q :: rest →
      (let l := [Emit.mk (tagAt F w 0 q) (some (BitVec.ofNat 128 (F.f.pos.filter fun p => p.l.isSome).length))]
       exec (.trig w) s = .next (emitted s F w 32 32 l l)) ∧
      exec (.eos w) s = .next (commit s
        ((((taken s F).sendCons F.cc.bind F.cc.block F.slot 0 w.cons1 .eos (tagAt F w 0 q) [0]).sendCons F.cc.bind F.cc.block
          F.slot 1 w.cons2 .eos (tagAt F w 0 q) [0]).modCtx F.hearth F.ce F.ctx fun x =>
            { x with eosOut := Table.put x.eosOut F.slot (tagAt F w 0 q) })))

/-- STEER sends each position to consumer 1 where the control is 1 or BUBBLE and to consumer 2 where it is 0; GATE sends the
former to both consumers and discards the latter; a BUBBLE control gives BUBBLE (R136). MERGE sends the run that arrived to
both, with its kind (R137). -/
def Sys2Proof.Claim.SteerGateAndMergeRoute : Prop :=
  ∀ (w : WordA) (s : State) (F : Fire), Stands s F →
    let yes := picked F w fun q => match q.r with
      | none => some none
      | some c => if c.getLsbD 0 then some q.l else none
    let no := picked F w fun q => match q.r with
      | none => none
      | some c => if c.getLsbD 0 then none else some q.l
    exec (.steer w) s = .next (emitted s F w w.fmt.maxRun w.fmt.maxRun yes no) ∧
    exec (.gate w) s = .next (emitted s F w w.fmt.maxRun w.fmt.maxRun yes yes) ∧
    (∃ l, exec (.merge w) s = .next (commit s
        (((taken s F).emitKind F 0 w.cons1 F.f.kind w.fmt.maxRun l).emitKind F 1 w.cons2 F.f.kind w.fmt.maxRun l)) ∧
      Each F l fun k q => (tagAt F w k q, q.l))

/-- Token words forward their runs; control words route them (the two parts above).
The model's choices: log entries 25, 26. -/
def Obligations.TokenAndControlWordsForward : Prop :=
  Claim.TokenWordsForwardTheirRuns ∧ Claim.SteerGateAndMergeRoute

/-- HNDL appends one entry for each matrix word of its body to the queue of the charge's matrix context, each with the waking run and
the two parameter registers that the word names, and sends the waking run on unchanged; a captured scale appends one scale entry and
goes to nobody: for the streamed operand where the capturing word is MMAS (0xA3), e8 from bits [7:0] of the payload where the word's scale
field is 1 and bf16 from bits [15:0] otherwise; either waits, with nothing changed, while the queue of 16 has too few free entries
(R139, R245, R256).
The model's choices: log entry 14. -/
def Obligations.HandlerRunsQueueTheirBody : Prop :=
  ∀ (w : WordA) (s : State) (F : Fire), Stands s F →
    let m := ((s.ce F.hearth F.ce).mxOf F.cc.bind).getD false
    let body := F.blk.bodyWords F.slot
    let free := 16 - ((s.ce F.hearth F.ce).mx m).queue.length
    let append (l : List QEntry) : State := (taken s F).modCe F.hearth F.ce fun x =>
      x.setMx m { x.mx m with queue := (x.mx m).queue ++ l }
    (F.f.kind ≠ .scale → ((s.ce F.hearth F.ce).mx m).queue.length ≤ 16 → body.length ≤ free → ∃ l : List QEntry,
      exec (.hndl w) s = .next (commit s
        (((append l).emitKind F 0 w.cons1 F.f.kind w.fmt.maxRun F.runL).emitKind F 1 w.cons2 F.f.kind w.fmt.maxRun F.runL)) ∧
      l.length = body.length ∧
      ∀ (k : Nat) (x : Nat × BitVec 64), body[k]? = some x →
        let g := (x.2.extractLsb' 10 6).toNat
        let p (n : Nat) : BitVec 32 := BitVec.ofNat 32 ((taken s F).param F.hearth F.ce F.ctx (g + n) 32)
        l[k]? = some (QEntry.word x.1 F.slot F.f.pos (p 0) (p 1) F.ch.epoch s.cycle)) ∧
    (F.f.kind = .scale → ((s.ce F.hearth F.ce).mx m).queue.length < 16 → ∀ (q : FPos) (rest : List FPos) (k : Nat) (x : BitVec 64),
      F.f.pos = q :: rest → body.find? (fun y => y.2.extractLsb' 22 2 != 0) = some (k, x) →
      let v := (q.l.getD 0).toNat
      let enc := BitVec.ofNat 16 (if x.extractLsb' 22 2 = 1 then v % 2 ^ 8 else v % 2 ^ 16)
      exec (.hndl w) s = .next (commit s (append [.scale F.slot ((x.extractLsb' 56 8).toNat == 0xA3) q.iter enc]))) ∧
    (F.f.kind = .scale → 16 ≤ ((s.ce F.hearth F.ce).mx m).queue.length → exec (.hndl w) s = .next { s with wlog := [], sel := none }) ∧
    (F.f.kind ≠ .scale → free < body.length → exec (.hndl w) s = .next { s with wlog := [], sel := none })

/-! ## Loops, tags, scans and pilots (R140 to R146) -/

/-- LOOP and LOOPD append one trip for each position that is not BUBBLE: of the value operand's length, or of the header's
max_iter (R141). -/
def Sys2Proof.Claim.LoopHeadersQueueTrips : Prop :=
  ∀ (w : WordB) (s : State) (F : Fire), Stands s F →
    let l := (taken s F).loopOf F
    exec (.loop w) s = .next (commit s ((taken s F).setLoop F { l with
      queue := l.queue ++ F.f.pos.filterMap fun q => if q.l = none then none
        else (valueOf s F w q).map fun n => { n := n % 2 ^ 32, j := 0 } })) ∧
    exec (.loopd w) s = .next (commit s ((taken s F).setLoop F { l with
      queue := l.queue ++ F.f.pos.filterMap fun q => if q.l = none then none
        else some { n := F.blk.maxIter, j := 0 } }))

/-- LEXIT and TCHK retire one iteration for each position. LEXIT emits the kept positions; TCHK sends positions whose tag
field equals the value operand, and BUBBLE ones, to consumer 1 and the others to consumer 2. When more positions retire
than are outstanding the charge takes a loop-credit fault; a differing position with no consumer 2 is a tag-check fault
(R142, R143). -/
def Sys2Proof.Claim.ExitsRetireIterations : Prop :=
  ∀ (w : WordB) (s : State) (F : Fire), Stands s F →
    let l := (taken s F).loopOf F
    let u := (taken s F).setLoop F { l with out := l.out - F.f.pos.length }
    let credit (t : State) : State := match F.f.pos[l.out]? with
      | some q => t.fireFault F 0x12 q.iter []
      | none => t
    (let kept := F.f.pos.filterMap fun q =>
       if q.l = none ∨ (w.arity = 2 ∧ q.r = none) then some (Emit.mk q.iter none)
       else if w.arity = 2 ∧ (q.r.getD 0).getLsbD 0 = false then none else some (Emit.mk q.iter q.l)
     exec (.lexit w) s = .next (commit s (credit (u.emitBoth F w.cons1 w.cons2 w.fmt.maxRun kept)))) ∧
    (let field (q : FPos) : Nat := getField F.tagsel q.iter w.fsel.toNat
     let differs (q : FPos) : Bool := match q.l, valueOf s F w q with
       | some _, some v => field q != v
       | _, _ => false
     let val (q : FPos) : Option Val := if valueOf s F w q = none then none else q.l
     let side (b : Bool) : List Emit := (F.f.pos.filter fun q => differs q == b).map fun q => Emit.mk q.iter (val q)
     let t := (u.emit F 0 w.cons1 w.fmt.maxRun (side false)).emit F 1 w.cons2 w.fmt.maxRun (side true)
     let t := match F.f.pos.find? differs with
       | some q => if w.cons2.port = 3 then t.fireFault F 0x13 q.iter [field q] else t
       | none => t
     exec (.tchk w) s = .next (commit s (credit t)))

/-- Loop headers queue trips and exits retire iterations (the two parts above). -/
def Obligations.LoopsQueueTripsAndRetireIterations : Prop :=
  Claim.LoopHeadersQueueTrips ∧ Claim.ExitsRetireIterations

/-- TGSET rewrites a tag field with the value operand modulo 2^w, TGGET delivers it (R144); SCAN and SCANT turn mask words into
coordinates, SCAN numbering them by the slot's counter and SCANT by themselves, with population counts at consumer 2 (R145). -/
def Obligations.TagFieldsAndScans : Prop :=
  ∀ (w : WordB) (s : State) (F : Fire), Stands s F →
    (∃ l, exec (.tgset w) s = .next (commit s ((taken s F).emitBoth F w.cons1 w.cons2 w.fmt.maxRun l)) ∧
      Each F l fun _ q => match valueOf s F w q with
        | some v => (setField F.tagsel q.iter w.fsel.toNat v, q.l)
        | none => (q.iter, none)) ∧
    (∃ l, exec (.tgget w) s = .next (commit s ((taken s F).emitBoth F w.cons1 w.cons2 32 l)) ∧
      Each F l fun _ q => (q.iter, q.l.map fun _ => BitVec.ofNat 128 (getField F.tagsel q.iter w.fsel.toNat))) ∧
    (let mask (q : FPos) : Option Nat := match q.l, q.r with
       | some a, r => (if w.subop = 3 then some 0 else r.map fun b => b.toNat % 2 ^ 32).map fun b =>
         let a := a.toNat % 2 ^ 32
         if w.subop = 0 then a &&& b else if w.subop = 1 then a ||| b else if w.subop = 3 then a else a &&& (b ^^^ 0xFFFFFFFF)
       | none, _ => none
     let coords : List Nat := F.f.pos.flatMap fun q => match mask q with
       | some m => ((List.range 32).filter fun j => m.testBit j).map fun j => 32 * q.iter.toNat + j
       | none => []
     let counts : List Emit := F.f.pos.map fun q =>
       Emit.mk q.iter ((mask q).map fun m => BitVec.ofNat 128 ((List.range 32).filter fun j => m.testBit j).length)
     let sc := Table.getD F.cc.scans F.slot 0
     exec (.scan w) s = .next (commit s
       ((((taken s F).modCtx F.hearth F.ce F.ctx fun x =>
           { x with scans := Table.put x.scans F.slot (sc + BitVec.ofNat 24 coords.length) }).emit F 0 w.cons1 32
         (coords.zipIdx.map fun (c, i) => Emit.mk (sc + BitVec.ofNat 24 i) (some (BitVec.ofNat 128 c)))).emit F 1 w.cons2 32 counts)) ∧
     exec (.scant w) s = .next (commit s
       (((taken s F).emit F 0 w.cons1 32 (coords.map fun c => Emit.mk (BitVec.ofNat 24 c) (some (BitVec.ofNat 128 c)))).emit F 1
         w.cons2 32 counts)))

/-- PSTRM sends one start pilot for each position and remembers its tag, in order (R62, R146). It waits, with nothing
changed, while the hearth of the AG or MT that its route starts has too many streams outstanding (R204). -/
def Sys2Proof.Claim.PilotsStartOncePerPosition : Prop :=
  ∀ (w : WordB) (s : State) (F : Fire), Stands s F →
    ((∀ h, F.ch.streamHearth (w.imm.toNat % 256) = some h → (taken s F).streams h + F.f.pos.length ≤ 2048) → ∃ t,
      exec (.pstrm w) s = .next t ∧
      t.fab.pilots = s.fab.pilots ++ List.replicate F.f.pos.length
        { bind := F.cc.bind, route := w.imm.toNat % 256, hearth := F.hearth, ce := F.ce, slot := F.slot } ∧
      t.fab.transit = s.fab.transit ∧
      ∃ cc, t.ctx? F.hearth F.ce F.ctx = some cc ∧
        Table.getD cc.pstrm F.slot [] = Table.getD F.cc.pstrm F.slot [] ++
          F.f.pos.map fun q => (q.iter, q.l.isNone || q.r.isNone)) ∧
    (∀ h, F.ch.streamHearth (w.imm.toNat % 256) = some h → 2048 < (taken s F).streams h + F.f.pos.length →
      exec (.pstrm w) s = .next { s with wlog := [], sel := none })

/-- A header that can start issues the next run of its head trip: consecutive tags from cnt, payloads from j, no more than
the credit, the trip and the next multiple of 32 allow; a finished trip leaves the queue (R141). PSTRM_DONE_EMIT emits one
scalar 0 with the tag of the oldest start that has had its done, which carries what the stream's end released (R146, R283). Both are
starts of the CE, which its own starts and its stove's limit delay (R34, R70). -/
def Sys2Proof.Claim.HeadersIssueAndPilotsReport : Prop :=
  (∀ (s : State) (h e c : Nat) (cc : CeCtx) (ch : Charge) (b : Block) (t : Trip) (rest : List Trip),
    s.ctx? h e c = some cc → s.charge? cc.bind = some ch → ch.block? cc.block = some b → ch.runs = true → cc.loaded = true →
    b.loopCe = e → b.loopSlot < b.words.length → (s.ce h e).lastStart ≠ some s.cycle → (s.ce h e).busyUntil ≤ s.cycle →
    s.cycle % 16 < (s.stove (stoveOf h)).startRate → cc.loop.reissue = [] → cc.loop.queue = t :: rest → t.j ≤ t.n →
    let len := min (2 ^ b.credit - cc.loop.out) (min (t.n - t.j) (32 - cc.loop.cnt.toNat % 32))
    (0 < len ∨ t.j = t.n) → ∃ u cc' l,
      exec (.loopIssue h e c) s = .next u ∧ u.ctx? h e c = some cc' ∧
      cc'.loop.cnt = cc.loop.cnt + BitVec.ofNat 24 len ∧ cc'.loop.out = cc.loop.out + len ∧
      cc'.loop.queue = (if t.j + len = t.n then rest else { t with j := t.j + len } :: rest) ∧
      u.fab.transit = (((s.sendAll cc.bind cc.block b.loopSlot 0 (rawCons (b.words.getD b.loopSlot 0) 0) 32 l).sendAll cc.bind
        cc.block b.loopSlot 1 (rawCons (b.words.getD b.loopSlot 0) 1) 32 l)).fab.transit ∧
      l.length = len ∧ ∀ i, i < len → l[i]? = some
        (Emit.mk (cc.loop.cnt + BitVec.ofNat 24 i) (some (BitVec.ofNat 128 ((t.j + i) % 2 ^ 32))))) ∧
  (∀ (s : State) (h e c slot : Nat) (cc : CeCtx) (ch : Charge) (b : Block) (it : Iter) (bub : Bool) (rest : List (Iter × Bool))
    (acq : List Rel) (more : List (List Rel)), s.cycle % 16 < (s.stove (stoveOf h)).startRate →
    s.ctx? h e c = some cc → s.charge? cc.bind = some ch → ch.block? cc.block = some b → ch.runs = true →
    Table.getD cc.pstrm slot [] = (it, bub) :: rest → Table.getD cc.pdone slot [] = acq :: more →
    (s.ce h e).lastStart ≠ some s.cycle → (s.ce h e).busyUntil ≤ s.cycle → ∃ u cc',
      exec (.pstrmDoneEmit h e c slot) s = .next u ∧ u.ctx? h e c = some cc' ∧
      Table.getD cc'.pstrm slot [] = rest ∧ Table.getD cc'.pdone slot [] = more ∧
      u.fab.transit = (((s.sendAll cc.bind cc.block slot 0 (rawCons (b.words.getD slot 0) 0) 1
          [Emit.mk it (if bub then none else some 0)] acq).sendAll cc.bind cc.block slot 1 (rawCons (b.words.getD slot 0) 1) 1
          [Emit.mk it (if bub then none else some 0)] acq)).fab.transit)

/-- Pilots start once for each position; loop headers issue their runs and returned pilots report (the two parts above).
The model's choices: log entry 25. -/
def Obligations.PilotsAndHeadersIssue : Prop :=
  Claim.PilotsStartOncePerPosition ∧ Claim.HeadersIssueAndPilotsReport

/-! ## Memory ports (R205 to R217) and homes (R218) -/

namespace Sys2Proof.Claim

/-- What a port word asks of its positions: the operation, whether a position owes a reply, whether R is a data operand,
whether P is one, whether the access goes to the gather unit, and whether an element has 16 bytes (R205, R206). -/
structure PortRow where
  op     : WordM → MemOp
  owes   : WordM → Bool
  data   : Bool
  cas    : Bool
  gather : Bool
  wide   : WordM → Bool

def portRows : List ((WordM → Instr) × PortRow) :=
  [(.ld, ⟨fun _ => .load, fun _ => true, false, false, false, fun _ => false⟩),
   (.lds, ⟨fun _ => .load, fun _ => true, false, false, false, fun _ => false⟩),
   (.gath, ⟨fun _ => .load, fun _ => true, false, false, true, fun _ => false⟩),
   (.st, ⟨fun _ => .store, fun _ => false, true, false, false, fun _ => false⟩),
   (.sts, ⟨fun _ => .store, fun _ => false, true, false, false, fun _ => false⟩),
   (.scat, ⟨fun w => .scat w.op, fun _ => false, true, false, true, fun _ => false⟩),
   (.atom, ⟨fun w => .atom w.op, fun w => w.aux.getLsbD 0, true, false, false, fun _ => false⟩),
   (.cas, ⟨fun _ => .cas, fun _ => true, true, true, false, fun w => w.aux.getLsbD 0⟩)]

/-- A position with a BUBBLE operand, and a position that makes an access: no BUBBLE operand, and a true predicate where P
is one (R206). -/
def bubAt (w : WordM) (r : PortRow) (q : FPos) : Bool :=
  q.l.isNone || (r.data && q.r.isNone) || (w.arity == 3 && q.p.isNone)

def liveAt (w : WordM) (r : PortRow) (q : FPos) : Bool :=
  !(bubAt w r q) && (w.arity != 3 || r.cas || (q.p.getD 0).getLsbD 0)

/-- Byte `a` of memory after a step that ends in `t`. -/
def after (t : State) (a : Nat) : Byte := Memory.get t.mem a

/-- A request that its home may perform now: live, not done, not parked and behind no parked one in the order of retries, its charge
served, and held back by no other. -/
def Ready (s : State) (id : Nat) (q : Req) (c : Charge) : Prop :=
  s.req? id = some q ∧ s.charge? q.bind = some c ∧ q.live = true ∧ q.done = false ∧ q.parked = false ∧ c.serves = true ∧
  s.heldByOrder c q = false ∧ c.mayTry (reqKey id) = true

/-- The `n` bytes at offset `off` of a region stand at the machine address `ma`, which they may be read and written at: in the scratchpad
of a hearth that the damper admits, or in near, bulk or pooled memory through a page of an extent, or of this module's own domain, that is
neither watched nor shared across modules. No beat of them is poisoned, and their page is not in motion (R187, R190, R298, R305). -/
def AtHome (s : State) (c : Charge) (h : Nat) (r : Region) (off n : Nat) (rd wr : Bool) (ma : Nat) : Prop :=
  s.anyPoison ma n = false ∧ s.moveAt ma = none ∧ (if wr then s.writable ma else s.visible ma) = true ∧
  ((∃ g, s.place c h r off rd wr = .ok (.pad g ma) ∧ s.passes h g = true ∧ slotBase ≤ ma ∧ ma < slotEnd ∧
      (ma - slotBase) % slotSize + n ≤ 0x800000) ∨
    (∃ x, s.place c h r off rd wr = .ok (.mem ma x) ∧ x.xs = false ∧ x.watched = false ∧ (tierOf ma).isSome = true) ∨
    (∃ va x, s.place c h r off rd wr = .ok (.remote s.mod.number.toNat va) ∧ (s.aspace c.aspace).enable = true ∧
      (s.walkPage (s.aspace c.aspace) (some c.image.cid) 0 va).grant rd wr = .ok x ∧ x.xs = false ∧ x.machine va = ma ∧
      (tierOf ma).isSome = true))

/-- What the physical world leaves alone: the check of the first beat matches, its line is in the slice, and none is evicted. -/
def Calm (phys : Phys) : Prop := phys.check = .good ∧ phys.miss = false ∧ phys.evict = []

/-- A core that may make an access now, and an access that the physical world leaves alone. -/
def HartReady (s : State) (k : Nat) (phys : Phys) : Prop :=
  Quiet s ∧ k < 24 ∧ s.mod.flash.retired.contains (.core k) = false ∧ s.wlog = [] ∧ Memory.wf s.mem = true ∧ s.memSide.moves = [] ∧
  phys.check = .good ∧ phys.miss = false ∧ phys.evict = []

/-- Bytes of a tier that can be written: in the pooled tier, bytes that are mapped and hold no image. -/
def Plain (s : State) (a n : Nat) : Prop := 0 < n ∧ ∀ i, i < n → (tierOf (a + i)).isSome = true ∧ s.writable (a + i) = true

/-- Bytes of memory after a step: `bs` from `a` on, everything else as before. -/
def Wrote (s t : State) (a : Nat) (bs : List Byte) : Prop :=
  ∀ c, after t c = if a ≤ c ∧ c < a + bs.length then bs.getD (c - a) 0 else s.byte c

/-- A hart, and a register of it. -/
def hartOf (s : State) (k : Nat) : Hart := Table.getD s.firebox.harts k .reset
def regOf (s : State) (k rd : Nat) : BitVec 64 := Table.getD (hartOf s k).x (rd % 32) 0

/-- A line that a core has written: it alone holds it, tagged with the mode and device of the writer, and the wholesaler's data stands
in the mirror (R366). -/
def Tagged (t : State) (k : Nat) (m : HartMode) (line : Nat) : Prop :=
  ∃ x, Table.get? t.firebox.lines line = some x ∧ x.holders = [k] ∧ x.dirty = some m ∧
    x.mirror = if m = .hs then t.bytesHome (256 * line) 256 else []

end Sys2Proof.Claim

/-- LD, LDS, GATH, ST, STS, SCAT, ATOM and CAS put one access for each live position into the issue order, with the element
that L names and the operands of R and P; a BUBBLE position of a word that owes replies takes a place that is done, and
positions with a false predicate take none; the accesses stand in the order of their positions, one for each. A storing word raises the store-acknowledgement count by its live positions, and
one that owes no reply acknowledges that number at once. -/
def Obligations.PortWordsIssueTheirPositions : Prop :=
  ∀ mk row, (mk, row) ∈ portRows → ∀ (w : WordM) (s : State) (F : Fire), Stands s F →
    s.portHeld F.cc.bind F.hearth w.region.toNat + F.f.pos.length ≤ 256 →
    let n := (F.f.pos.filter (liveAt w row)).length
    let ack : Option Val := some (BitVec.ofNat 128 n)
    ∃ t reqs, exec (mk w) s = .next t ∧ t.fab.reqs = s.fab.reqs ++ reqs ∧ (reqs.map Req.index).Pairwise (· < ·) ∧
      (∀ x ∈ reqs, x.bind = F.cc.bind ∧ x.hearth = F.hearth ∧ x.ce = F.ce ∧ x.slot = F.slot ∧ x.op = row.op w ∧
        x.fmt = w.fmt ∧ x.region = w.region.toNat ∧ x.wide = row.wide w ∧ x.owes = row.owes w ∧ x.reply = none ∧
        x.parked = false ∧ x.unit = (if row.gather then .gather else .port w.region.toNat) ∧
        ∃ q, F.f.pos[x.index]? = some q ∧ x.iter = q.iter ∧ x.live = liveAt w row q ∧ x.done = bubAt w row q ∧
          (liveAt w row q || (row.owes w && bubAt w row q)) = true ∧
          x.elem = (q.l.getD 0).toNat % 2 ^ 32 ∧ x.r = q.r.getD 0 ∧ x.p = q.p.getD 0) ∧
      (∀ k q, F.f.pos[k]? = some q → (liveAt w row q || (row.owes w && bubAt w row q)) = true → ∃ x ∈ reqs, x.index = k) ∧
      (t.charge? F.cc.bind).map (·.acks) = some (F.ch.acks + if opWrites (row.op w) then n else 0) ∧
      (let u := if row.owes w then taken s F else (taken s F).emitOne F 0 w.cons1 F.tag0 ack
       let u := if row.owes w || w.cmpl then u else u.emitOne F 1 w.cons2 F.tag0 ack
       t.fab.transit = (if w.cmpl && n == 0 then u.emitOne F 1 w.cons2 F.tag0 (some 0) else u).fab.transit)

/-- HOME_ACCESS, GATHER_SERVE and SCAT_APPLY perform one access at its home: on bytes of the scratchpad, of memory or of the module's own
domain that are in bounds, not poisoned and not being moved, the element takes the operation's new value, every other byte of memory stays,
and an owed reply holds the old value. Through a peer's window a load reads and a store writes the context's own join slots and parameters,
and what is not the context's own reads as zero and takes nothing; an element of another module is read and written there, or refused with
a code of its own, at which the position faults (R190, R191, R305). -/
def Sys2Proof.Claim.RequestsPerformOneOperation : Prop :=
  ∀ (s : State) (id : Nat) (q : Req) (c : Charge) (r : Region) (g ma : Nat) (phys : Phys) (i : Instr),
    (q.unit ≠ .gather ∧ i = .homeAccess (.req id) phys ∨ q.unit = .gather ∧ q.op = .load ∧ i = .gatherServe id phys ∨
      q.unit = .gather ∧ opWrites q.op = true ∧ i = .scatApply id phys) →
    s.wlog = [] → Memory.wf s.mem = true → Ready s id q c → c.region? q.region = some r →
    (let n := elemBytes q.fmt q.wide
     let off := r.base + q.elem * n
     let at_ := s.place c q.hearth r off (opReads q.op) (opWrites q.op)
     let answered (t : State) (v : Nat) : Prop :=
       (q.owes = true → ∃ x, t.req? id = some x ∧ x.done = true ∧ x.reply = some (BitVec.ofNat 128 v)) ∧
       (q.owes = false → t.req? id = none)
     r.inBounds q.elem n = true →
     (Calm phys → AtHome s c q.hearth r off n (opReads q.op) (opWrites q.op) ma →
       ∃ t, exec i s = .next t ∧
         (∀ a, after t a = match opNew q.op (s.reqPolicy c q) q.fmt n (s.nat ma n) q.r q.p with
           | some v => if ma ≤ a ∧ a < ma + n then BitVec.ofNat 8 (v / 256 ^ (a - ma)) else s.byte a
           | none => s.byte a) ∧
         answered t (s.nat ma n)) ∧
     (∀ win o, at_ = .ok (.window g win o) → s.passes q.hearth g = true →
       (opWrites q.op = false → ∃ t, exec i s = .next t ∧ (∀ a, after t a = s.byte a) ∧
         answered t (if win = 2 then leNat ((List.range n).map fun k => s.tileTableByte g c.ctx (o + k))
           else ((s.windowAddr g c.ctx win o).map fun a => s.nat a n).getD 0)) ∧
       (∀ b, opWrites q.op = true → s.windowAddr g c.ctx win o = some b → s.windowHeld g c.ctx win o n = false →
         ∃ t, exec i s = .next t ∧ (∀ a, after t a =
             if b ≤ a ∧ a < b + n then
               (let v := BitVec.ofNat 8 (q.r.toNat % 256 ^ n / 256 ^ (a - b))
                if win = 1 then jafByte ((o + (a - b)) % 64) v else v)
             else s.byte a) ∧ answered t 0) ∧
       (opWrites q.op = true → s.windowAddr g c.ctx win o = none → ∃ t, exec i s = .next t ∧ (∀ a, after t a = s.byte a) ∧
         answered t 0)) ∧
     (∀ m va, at_ = .ok (.remote m va) → m ≠ s.mod.number.toNat →
       (refusalOf phys = none → ∃ t v, exec i s = .next t ∧ (∀ a, after t a = s.byte a) ∧ v < 256 ^ n ∧ answered t v) ∧
       (∀ k, refusalOf phys = some k → c.phase = .running → q.bubbleOk = false → ∃ t f, exec i s = .next t ∧ (∀ a, after t a = s.byte a) ∧
         (t.req? id).map (·.parked) = some true ∧ (t.charge? q.bind).map (·.faults) = some (c.faults ++ [f]) ∧ f.code = k ∧
         f.remote = true ∧ f.address = BitVec.ofNat 64 va)))

/-- The line that PFCH has asked for: where it stands in its slice already, nothing but the request ends; where it does not, and the
controller of its stack lets it by, its four beats are charged to the charge's device and the miss counts in the slice (R227, R318, R342).
A read of it changes no byte of memory. -/
def Sys2Proof.Claim.PrefetchedLinesArrive : Prop :=
  ∀ (s : State) (id : Nat) (x : Fetch) (c : Charge) (phys : Phys),
    (s.fab.fetches.find? fun y => y.id == id) = some x → s.charge? x.bind = some c → c.serves = true → phys.evict = [] →
    phys.check = .good → s.mod.stoves.length = 12 →
    let rest := s.fab.fetches.filter fun y => y.id != id
    let n := owningStove x.ma
    (phys.miss = false → ∃ t, exec (.homeAccess (.fetch id) phys) s = .next t ∧ t.fab.fetches = rest ∧
      (s.wlog = [] → t.mem = s.mem) ∧ t.memSide = s.memSide ∧ t.mod = s.mod) ∧
    (phys.miss = true → s.channelBusy x.ma = false → s.deferredOf id = none → s.mod.actLimit = 0 →
      4 ≤ s.bucket (s.controllerOf x.ma) c.vdev → s.cycle / cyclesPerMs ≤ s.mod.emberMs →
      ∃ t, exec (.homeAccess (.fetch id) phys) s = .next t ∧ t.fab.fetches = rest ∧
        (t.stove n).misses = (s.stove n).misses + 1 ∧
        Table.get? t.memSide.buckets (bucketKey (s.controllerOf x.ma) c.vdev) =
          some (max (-((s.vdev c.vdev).burst.toNat : Int)) (s.bucket (s.controllerOf x.ma) c.vdev - 4)))

/-- Accesses of a firebox hart: a load puts the bytes' value into its register, extended; a store writes its bytes and nothing else, and
tags the last line written; an AMO reads, computes and writes as one action; a store-conditional writes only where the reservation
stands, and says so; a store takes the reservations of the other harts on its bytes; register 0 takes no value; an atomic access at a
misaligned address, or on a frame shared across modules, raises an exception and touches no memory; an instruction that makes no access
writes the hart's own registers, its program counter, floating, vector and control registers among them, and nothing else (R13, R314, R320,
R366). The causes and the value of a failed store-conditional are the RISC-V architecture's (log entries 100, 103). -/
def Sys2Proof.Claim.HartAccessesAct : Prop :=
  ∀ (s : State) (k : Nat) (m : HartMode) (phys : Phys) (rd a : Nat), HartReady s k phys →
    let run (op : HartOp) : Host.Outcome State Fault Refusal := exec (.homeAccess (.hart k m op) phys) s
    let now (n : Nat) : Nat := s.nat a n
    (∀ n signed, n ≤ 8 → Plain s a n → s.anyPoison a n = false → ∃ t, run (.load rd a n signed) = .next t ∧
      Wrote s t a [] ∧ (rd % 32 ≠ 0 → regOf t k rd = extend n (now n) signed) ∧
      (rd % 32 = 0 → (hartOf t k).x = (hartOf s k).x)) ∧
    (∀ bs : List Byte, Plain s a bs.length → ∃ t, run (.store a bs) = .next t ∧ Wrote s t a bs ∧
      Tagged t k m ((a + bs.length - 1) / 256) ∧
      (∀ j b l c, j ≠ k → (hartOf s j).reserved = some (b, l) → b ≤ c → c < b + l → a ≤ c → c < a + bs.length →
        (hartOf t j).reserved = none)) ∧
    (∀ (wide : Bool) (v : BitVec 64), let n := if wide then 8 else 4
      let old := hartOf s k
      (∀ cause op, (cause, op) ∈ ([(6, .amo rd a wide .swap v), (6, .sc rd a wide v), (4, .lr rd a wide)] : List (Nat × HartOp)) →
        (a % n ≠ 0 → ∃ t, run op = .next t ∧ Wrote s t a [] ∧ hartOf t k = { old with trap := some (cause, a) }) ∧
        (a % n = 0 → s.sharedFrame (a / 65536) = true → ∃ t, run op = .next t ∧ Wrote s t a [] ∧
          hartOf t k = { old with trap := some (cause + 1, a) })) ∧
      (a % n = 0 → s.sharedFrame (a / 65536) = false → Plain s a n →
        (s.anyPoison a n = false → ∀ op, ∃ t, run (.amo rd a wide op v) = .next t ∧
          Wrote s t a (leBytes n (amoNew op (8 * n) (now n) (v.toNat % 256 ^ n))) ∧
          (rd % 32 ≠ 0 → regOf t k rd = extend n (now n) true)) ∧
        (s.anyPoison a n = false → ∃ t, run (.lr rd a wide) = .next t ∧ Wrote s t a [] ∧ (hartOf t k).reserved = some (a, n) ∧
          (rd % 32 ≠ 0 → regOf t k rd = extend n (now n) true)) ∧
        (old.reserved = some (a, n) → ∃ t, run (.sc rd a wide v) = .next t ∧ Wrote s t a (leBytes n v.toNat) ∧
          (hartOf t k).reserved = none ∧ (rd % 32 ≠ 0 → regOf t k rd = 0)) ∧
        (old.reserved ≠ some (a, n) → ∃ t, run (.sc rd a wide v) = .next t ∧ Wrote s t a [] ∧
          (hartOf t k).reserved = none ∧ (rd % 32 ≠ 0 → regOf t k rd = 1)))) ∧
    (∀ n o, 0 < n → n ≤ 8 → rd % 32 ≠ 0 → ∃ t, run (.register rd o n) = .next t ∧ Wrote s t 0 [] ∧
      ∀ i, i < n → (regOf t k rd).toNat / 256 ^ i % 256 = (s.windowByte k m (o + i)).toNat) ∧
    (∀ (r : HartReg) (v : Nat), ∃ t, run (.execute [(r, v)]) = .next t ∧ Wrote s t 0 [] ∧ (∀ j, j ≠ k → hartOf t j = hartOf s j) ∧
      (r = .pc → hartOf t k = { hartOf s k with pc := BitVec.ofNat 64 v }) ∧
      (∀ j, j < 32 → (r = .x j → j ≠ 0 → regOf t k j = BitVec.ofNat 64 v) ∧ (r = .x 0 → hartOf t k = hartOf s k) ∧
        (r = .f j → Table.getD (hartOf t k).f j 0 = BitVec.ofNat 64 v) ∧ (r = .v j → Table.getD (hartOf t k).v j 0 = v)) ∧
      (∀ j, j < 4096 → r = .csr j → Table.getD (hartOf t k).csr j 0 = BitVec.ofNat 64 v))

/-- Accesses are performed at their homes (the three parts above).
The model's choices: log entries 1, 17, 33, 55, 100, 103, 116. -/
def Obligations.HomeAccessPerformsOneOperation : Prop :=
  Claim.RequestsPerformOneOperation ∧ Claim.PrefetchedLinesArrive ∧ Claim.HartAccessesAct

/-- PORT_REPLY_LEAVE takes the replies that may leave together to the word's consumers and frees their places; CAS's
consumer 2 gets whether each wrote (R208, R217). STORE_COMPLETION, once nothing of the firing is left, lowers the charge's
store-acknowledgement count by the positions accepted and tells consumer 2 how many were performed, where the word asks
(R209); that token carries what the operation of a copy or memory command releases (R283).
The model's choices: log entries 17, 18. -/
def Obligations.RepliesAndCompletionsLeave : Prop :=
  (∀ (s : State) (id count : Nat) (q : Req) (c : Charge) (f : Flight) (cc : CeCtx) (b : Block) (l : List Req),
    s.req? id = some q → s.charge? q.bind = some c → s.flight? q.flight = some f → s.ctx? q.hearth q.ce c.ctx = some cc →
    c.block? cc.block = some b → q.owes = true → (∀ n, q.unit ≠ .ag n) → c.phase = .running ∨ c.phase = .freezing → s.leaving q f count = some l →
    let w := b.words.getD q.slot 0
    let cap := if q.wide then 8 else q.fmt.maxRun
    let vals := l.map fun x => Emit.mk x.iter x.reply
    let oks := l.map fun x => Emit.mk x.iter (x.reply.map fun _ => if x.wrote then 1 else 0)
    ∃ t, exec (.portReplyLeave id count) s = .next t ∧
      t.fab.reqs = s.fab.reqs.filter (fun x => !((l.map Req.id).contains x.id)) ∧
      t.fab.transit = (let u := s.sendAll q.bind cc.block q.slot 0 (rawCons w 0) cap vals
        if f.cmpl then u else if q.op = .cas then u.sendAll q.bind cc.block q.slot 1 (rawCons w 1) 32 oks
        else u.sendAll q.bind cc.block q.slot 1 (rawCons w 1) cap vals).fab.transit) ∧
  (∀ (s : State) (id : Nat) (f : Flight) (c : Charge) (cc : CeCtx) (b : Block),
    (s.fab.flights.filter fun g => g.id == id) = [f] → s.charge? f.bind = some c → s.ctx? f.hearth f.ce c.ctx = some cc → c.block? cc.block = some b →
    f.closed = false → c.serves = true → (∀ q ∈ s.fab.reqs, q.flight = id → q.done = true ∧ f.store = true) →
    (∀ x ∈ s.fab.copies, x.flight ≠ id) → (∀ x ∈ s.fab.nmcs, x.flight ≠ id) →
    ∃ t, exec (.storeCompletion id) s = .next t ∧
      (t.charge? f.bind).map (·.acks) = some (if f.store then c.acks - f.accepted else c.acks) ∧
      (∀ g, t.flight? id = some g → g.closed = true) ∧
      t.fab.transit = (if f.cmpl then s.sendAll f.bind cc.block f.slot 1 (rawCons (b.words.getD f.slot 0) 1) 1
        [Emit.mk f.iter0 (some (BitVec.ofNat 128 f.count))] f.rels else s).fab.transit)

/-! ## Tiles (R193 to R198, R219 to R221) -/

namespace Sys2Proof.Claim

/-- A firing of a tile word, the entry of the tile that it names, and the tile-table entry. -/
def OnTile (s : State) (F : Fire) (w : WordM) (e : Nat) (x : TileEntry) : Prop :=
  Stands s F ∧ s.tileOf F.cc.bind F.hearth (w.aux.toNat / 512) = some e ∧ Table.get? (s.hearth F.hearth).tiles e = some x

end Sys2Proof.Claim

/-- TLD, CRD and ZBMP read a READY tile: each position that is not BUBBLE emits the tile's elements, its nonzero elements, or
its zero bitmap's words (all ones while the bitmap is not valid), at base + index; CRD counts them at consumer 2; the tile's
busy count rises by the reads. They wait, with nothing changed, for a tile that is not READY. TQRY delivers the tile-table
entry, and TCLR passes its run on from an EMPTY tile and otherwise drains it. -/
def Sys2Proof.Claim.TileWordsReadAndClear : Prop :=
  ∀ (w : WordM) (s : State) (F : Fire) (e : Nat) (x : TileEntry), OnTile s F w e x →
    (let n := (F.f.pos.filter fun q => q.l.isSome).length
     let all := (List.range (4096 / tileBytes x.fmt)).map fun k => (k, s.nat (tileAddr F.hearth e x k) (tileBytes x.fmt))
     ∀ mk elems counts, (mk, elems, counts) ∈ ([(.tld, all, false), (.crd, all.filter fun y => nonzeroElem x.fmt y.2, true),
         (.zbmp, (List.range (4096 / tileBytes x.fmt / 32)).map fun k =>
           (k, if x.bmv then x.bitmap / 2 ^ (32 * k) % 2 ^ 32 else 0xFFFFFFFF), false)] :
         List ((WordM → Instr) × List (Nat × Nat) × Bool)) →
       (x.state ≠ 2 → exec (mk w) s = .next { s with wlog := [], sel := none }) ∧
       (x.state = 2 → x.busy.toNat + n ≤ 63 → s.tilePoisoned F.hearth e = false →
         let per (q : FPos) : List Emit := match q.l with
           | none => [Emit.mk q.iter none]
           | some b => elems.map fun y => Emit.mk (b.extractLsb' 0 24 + BitVec.ofNat 24 y.1) (some (BitVec.ofNat 128 y.2))
         ∃ t, exec (mk w) s = .next t ∧
           t.fab.transit = (F.f.pos.foldl (fun u q =>
             let u := u.sendAligned F.cc.bind F.cc.block F.slot 0 w.cons1 w.fmt.maxRun (per q)
             if counts then u.sendAll F.cc.bind F.cc.block F.slot 1 w.cons2 1
               [Emit.mk q.iter (q.l.map fun _ => BitVec.ofNat 128 elems.length)]
             else u.sendAligned F.cc.bind F.cc.block F.slot 1 w.cons2 w.fmt.maxRun (per q)) (taken s F)).fab.transit ∧
           (t.tile F.hearth e).busy = x.busy + BitVec.ofNat 6 n ∧ t.fab.tileReads.length = s.fab.tileReads.length + n)) ∧
    (∃ l, exec (.tqry w) s = .next (commit s ((taken s F).emitBoth F w.cons1 w.cons2 32 l)) ∧
      Each F l fun _ q => (q.iter, q.l.map fun _ => BitVec.ofNat 128 x.word)) ∧
    (x.state = 0 → exec (.tclr w) s = .next (commit s ((taken s F).emitBoth F w.cons1 w.cons2 32 F.runL))) ∧
    (x.state ≠ 0 → (∃ q ∈ F.f.pos, q.l ≠ none) → ∃ t, exec (.tclr w) s = .next t ∧ (t.tile F.hearth e).state = 3 ∧
      t.fab.transit = s.fab.transit ∧ t.fab.tclrs = s.fab.tclrs ++ [TclrWait.mk F.cc.bind F.hearth F.ce F.slot e (w.aux.toNat / 512) F.f.pos])

/-- TST and CWR with one live position, on an EMPTY or FILLING tile: the element that the tag names takes the value, an
EMPTY tile's other elements become 0, no other byte of memory changes, and the element joins the fill mask; the tile goes to
FILLING, or to READY with the last element or CWR's true mark. They wait for a tile that is READY or DRAINING. -/
def Sys2Proof.Claim.TileWordsWriteElements : Prop :=
  ∀ mk, mk ∈ ([.tst, .cwr] : List (WordM → Instr)) →
    ∀ (w : WordM) (s : State) (F : Fire) (e : Nat) (x : TileEntry) (q : FPos) (v : Val), OnTile s F w e x →
      (x.state.toNat ≥ 2 → exec (mk w) s = .next { s with wlog := [], sel := none }) ∧
      (s.wlog = [] → Memory.wf s.mem = true → x.state.toNat < 2 → F.f.pos = [q] → q.l = some v → w.arity ≠ 2 ∨ q.r ≠ none →
        let size := tileBytes x.fmt
        let k := q.iter.toNat % (4096 / size)
        let base := tileAddr F.hearth e x 0
        let fill := (if x.state = 0 then 0 else x.fill) ||| 2 ^ k
        let full := fill == 2 ^ (4096 / size) - 1 || (w.arity == 2 && (q.r.getD 0).getLsbD 0)
        ∃ t, exec (mk w) s = .next t ∧
          (∀ a, after t a =
            if base + k * size ≤ a ∧ a < base + k * size + size then BitVec.ofNat 8 (v.toNat / 256 ^ (a - (base + k * size)))
            else if x.state = 0 ∧ base ≤ a ∧ a < base + 4096 then 0 else s.byte a) ∧
          (t.tile F.hearth e).fill = fill ∧ (t.tile F.hearth e).state = if full then 2 else 1)

/-- TILE_SEAL_EOS seals a FILLING tile whose writers all hold EOS and discards those EOS tokens; TILE_READ_DONE ends a read;
TILE_DRAIN_DONE empties a DRAINING tile that no read keeps busy (R195, R219, R221). -/
def Sys2Proof.Claim.TileEventsChangeTheState : Prop :=
  (∀ (s : State) (b h tile e : Nat) (c : Charge), s.charge? b = some c → s.tileOf b h tile = some e → c.runs = true →
    (s.tile h e).state = 1 → c.tileWriters h tile ≠ [] →
    (∀ x ∈ c.tileWriters h tile, ∃ cc k, s.ctx? h x.2.1 c.ctx = some cc ∧ c.block? x.1 = some k ∧
      s.eosReady h x.2.1 c.ctx cc c k x.2.2.1 = true) →
    ∃ t, exec (.tileSealEos b h tile) s = .next t ∧ (t.tile h e).state = 2 ∧
      (∀ x ∈ c.tileWriters h tile, ∀ cc, t.ctx? h x.2.1 c.ctx = some cc →
        ∀ y ∈ cc.entries, ¬(y.slot = x.2.2.1 ∧ y.kind = .eos))) ∧
  (∀ (s : State) (id : Nat) (r : TileRead), s.fab.tileReads.find? (fun r => r.id == id) = some r →
    Table.get? (s.hearth r.hearth).tiles r.entry ≠ none →
    ∃ t, exec (.tileReadDone id) s = .next t ∧ t.fab.tileReads = s.fab.tileReads.erase r ∧
      (t.tile r.hearth r.entry).busy = (s.tile r.hearth r.entry).busy - 1) ∧
  (∀ (s : State) (h e : Nat) (c : Charge), (s.tile h e).mapped = true → (s.tile h e).state = 3 → (s.tile h e).busy = 0 →
    s.charge? (s.tile h e).bind = some c → c.serves = true →
    ∃ t, exec (.tileDrainDone h e) s = .next t ∧ (t.tile h e).state = 0 ∧ (t.tile h e).bmv = false ∧
      t.fab.tclrs = s.fab.tclrs.filter fun y => !(y.hearth == h && y.entry == e))

/-- The tile words and the events of a tile's life (the three parts above).
The model's choices: log entry 74. -/
def Obligations.TileWordsAndEventsActOnTheTable : Prop :=
  Claim.TileWordsReadAndClear ∧ Claim.TileWordsWriteElements ∧ Claim.TileEventsChangeTheState

/-! ## Engines, hints, timelines and notifications (R223 to R233, R345, R346) -/

/-- BCPY and NMC start one operation for each position that is not BUBBLE, with the fields of its operands, and refuse one that names a
region it may not use, or bytes outside it, with its status: a copy with 4 where a region is not declared or the source not readable, and
with 3 where an offset is not aligned or a side too short; a command with 3 where an operand is not aligned or does not fit its region, or
R's upper bits are not zero. BUBBLE positions emit BUBBLE (R223, R224, R226). -/
def Sys2Proof.Claim.EngineWordsStartOperations : Prop :=
  (∀ (w : WordM) (s : State) (F : Fire), Stands s F →
    (let live := F.f.pos.filter fun q => q.l.isSome && q.r.isSome
     (taken s F).streams F.hearth + live.length ≤ 2048 → ∃ (t : State) (l : List Copy), exec (.bcpy w) s = .next t ∧
       t.fab.copies = s.fab.copies ++ l ∧ l.length = live.length ∧
       ∀ (k : Nat) (q : FPos), live[k]? = some q → ∃ x, l[k]? = some x ∧ x.bind = F.cc.bind ∧ x.hearth = F.hearth ∧ x.ce = F.ce ∧
         x.slot = F.slot ∧ x.iter = q.iter ∧ x.next = 0 ∧ x.parked = false ∧
         x.srcRegion = (q.l.getD 0).toNat / 2 ^ 58 % 64 ∧ x.src = (q.l.getD 0).toNat % 2 ^ 58 ∧
         x.dstRegion = w.region.toNat ∧ x.dst = (q.r.getD 0).toNat % 2 ^ 46 ∧
         x.length = 256 * ((q.r.getD 0).toNat / 2 ^ 46 % 2 ^ 18 + 1) ∧
         ((F.ch.region? x.srcRegion = none ∨ F.ch.region? x.dstRegion = none) → x.status = some 4) ∧
         (∀ a b, F.ch.region? x.srcRegion = some a → F.ch.region? x.dstRegion = some b →
           let al := if a.injects = true ∨ b.injects = true then 256 else 64
           let fits := x.src % al = 0 ∧ x.dst % al = 0 ∧ x.src + x.length ≤ a.length ∧ x.dst + x.length ≤ b.length
           (a.rd = false → x.status = some 4) ∧ (a.rd = true → fits → x.status = none) ∧
             (a.rd = true → ¬fits → x.status = some 3)))) ∧
  (∀ (w : WordM) (s : State) (F : Fire) (r : Region), Stands s F → F.ch.region? w.region.toNat = some r →
    (let live := F.f.pos.filter fun q => q.l.isSome && (w.arity != 2 || q.r.isSome)
     ∃ (t : State) (l : List Nmc), exec (.nmc w) s = .next t ∧ t.fab.nmcs = s.fab.nmcs ++ l ∧ l.length = live.length ∧
       ∀ (k : Nat) (q : FPos), live[k]? = some q → ∃ x, l[k]? = some x ∧ x.bind = F.cc.bind ∧ x.hearth = F.hearth ∧ x.ce = F.ce ∧
         x.slot = F.slot ∧ x.iter = q.iter ∧ x.done = 0 ∧ x.region = w.region.toNat ∧ x.fmt = w.fmt ∧ x.op = w.op.toNat ∧
         x.count = (q.l.getD 0).toNat / 2 ^ 46 % 2 ^ 18 + 1 ∧ x.target = (q.l.getD 0).toNat % 2 ^ 46 ∧
         x.second = (q.r.getD 0).toNat % 2 ^ 46 ∧
         (let binary := w.op.toNat ∈ [0, 1, 4]
          let fits := x.target % 4096 = 0 ∧ x.target + 4096 * x.count ≤ r.length ∧
            (binary → x.second % 4096 = 0 ∧ x.second + 4096 * x.count ≤ r.length ∧ (q.r.getD 0).toNat / 2 ^ 46 % 2 ^ 18 = 0)
          (fits → x.status = none) ∧ (¬fits → x.status = some (3, 0xFF)))))

/-- The status of an operation: one element of a format with runs of `cap`, to consumer 1 and, where the word does not ask for a completion
token, to consumer 2; its consumer acquires what the operation releases (R209, R223, R226, R283). -/
def Sys2Proof.Claim.StatusSent (s t : State) (b blk slot : Nat) (w : BitVec 64) (cap : Nat) (it : Iter) (v : Nat) (rel : Rel) : Prop :=
  let l := [Emit.mk it (some (BitVec.ofNat 128 v))]
  let u := s.sendAll b blk slot 0 (rawCons w 0) cap l [rel]
  t.fab.transit = (if w.getLsbD 21 then u else u.sendAll b blk slot 1 (rawCons w 1) cap l [rel]).fab.transit

/-- A beat of a copy between scratchpad bytes moves 64 bytes and changes no other byte; the copy's end advances its timeline
by one and sends the status (R223). A stripe of a near-memory command on unwatched, clean pages of one stack, whose controller
serves it now, replaces each element by R225's value and changes no other byte, also where it crosses a page; the command's end sends the stripes done, the failing chunk and the
code (R226). -/
def Sys2Proof.Claim.EngineOperationsMoveData : Prop :=
  (∀ (s : State) (id src dst g h : Nat) (p : Copy) (c : Charge) (sr dr : Region) (u : Nat × Block × BitVec 64) (phys : Phys),
    s.wlog = [] → Memory.wf s.mem = true → s.fab.copies.find? (fun x => x.id == id) = some p → s.charge? p.bind = some c →
    c.region? p.srcRegion = some sr → c.region? p.dstRegion = some dr → s.unitWord p.bind p.hearth p.ce p.slot = some u →
    c.engines = true → p.parked = false → p.status = none → p.next < p.length → dr.injects = false →
    s.place c p.hearth sr (sr.base + (p.src + p.next)) true false = .ok (.pad g src) →
    s.place c p.hearth dr (dr.base + (p.dst + p.next)) false true = .ok (.pad h dst) →
    s.passes p.hearth g = true → s.passes p.hearth h = true → c.mayTry (engineKey id) = true →
    phys.check = .good → phys.evict = [] → s.anyPoison src 64 = false →
    ∃ t, exec (.bcpyBeat id phys) s = .next t ∧
      (∀ a, after t a = if dst ≤ a ∧ a < dst + 64 then s.byte (src + (a - dst)) else s.byte a) ∧
      (t.fab.copies.find? (fun x => x.id == id)).map (·.next) = some (p.next + 64)) ∧
  (∀ (s : State) (id : Nat) (p : Copy) (c : Charge) (u : Nat × Block × BitVec 64),
    s.fab.copies.find? (fun x => x.id == id) = some p → s.charge? p.bind = some c →
    s.unitWord p.bind p.hearth p.ce p.slot = some u → c.engines = true → p.status ≠ none ∨ p.length ≤ p.next →
    ∃ t, exec (.bcpyComplete id) s = .next t ∧ t.fab.copies = s.fab.copies.filter (fun x => x.id != id) ∧
      (∀ n tl, n = u.2.2.toNat % 256 → c.timelines[n]? = some tl →
        ((t.charge? p.bind).bind fun d => d.timelines[n]?).map (·.value) = some (tl.value + 1)) ∧
      Claim.StatusSent s t p.bind u.1 p.slot u.2.2 32 p.iter (p.status.getD p.worst)
        (s.engineRel p.bind (u.2.2.toNat % 256) (wordScope u.2.2) p.hearth p.vec)) ∧
  (∀ (s : State) (id : Nat) (m : Nmc) (c : Charge) (r : Region) (u : Nat × Block × BitVec 64) (x : Stripe)
      (y : Option Stripe),
    s.wlog = [] → Memory.wf s.mem = true → s.fab.nmcs.find? (fun q => q.id == id) = some m → s.charge? m.bind = some c →
    c.region? m.region = some r → s.unitWord m.bind m.hearth m.ce m.slot = some u → c.engines = true → m.status = none →
    m.done < m.count → s.nmcPages c r m = .ok (x, y) → x.lo.2.watched = false → x.hi.2.watched = false →
    (∀ z, y = some z → z.lo.2.watched = false ∧ z.hi.2.watched = false) → c.mayTry (engineKey id) = true → x.va % 64 = 0 →
    (∀ o, o < 4096 → Plain s (x.at o) 1) → s.memSide.moves = [] →
    (∀ z, z ∈ x :: y.toList → s.controllerWaits id (z.at 0) c.vdev 64 (s.fundedAt id) = none) → s.memSide.poison = [] → m.fmt.bits = 16 ∨ m.fmt.bits = 32 ∨ m.fmt.bits = 64 →
    let size := m.fmt.bits / 8
    let elem (k : Nat) : Nat := nmcElem m.op (c.policyOf u.2.1) m.fmt m.c0.toNat m.c1.toNat (s.nat (x.at (size * k)) size)
      (match y with | some z => s.nat (z.at (size * k)) size | none => 0)
    ∃ t, exec (.nmcStripe id none) s = .next t ∧
      (∀ o, o < 4096 → after t (x.at o) = BitVec.ofNat 8 (elem (o / size) / 256 ^ (o % size))) ∧
      (∀ a, (∀ o, o < 4096 → a ≠ x.at o) → after t a = s.byte a) ∧
      (t.fab.nmcs.find? (fun q => q.id == id)).map (·.done) = some (m.done + 1)) ∧
  (∀ (s : State) (id : Nat) (m : Nmc) (c : Charge) (u : Nat × Block × BitVec 64),
    s.fab.nmcs.find? (fun q => q.id == id) = some m → s.charge? m.bind = some c →
    s.unitWord m.bind m.hearth m.ce m.slot = some u → c.engines = true → m.status ≠ none ∨ m.count ≤ m.done →
    ∃ t, exec (.nmcComplete id) s = .next t ∧ t.fab.nmcs = s.fab.nmcs.filter (fun x => x.id != id) ∧
      (∀ n tl, n = u.2.2.toNat / 256 % 256 → c.timelines[n]? = some tl →
        ((t.charge? m.bind).bind fun d => d.timelines[n]?).map (·.value) = some (tl.value + 1)) ∧
      (let code := (m.status.map Prod.fst).getD 0
       let chunk := (m.status.map Prod.snd).getD 0xFF
       Claim.StatusSent s t m.bind u.1 m.slot u.2.2 16 m.iter (m.done * 2 ^ 32 + chunk * 2 ^ 16 + code)
         (s.engineRel m.bind (u.2.2.toNat / 256 % 256) (wordScope u.2.2) m.hearth m.vec)))

/-- Engine words start operations and these move data (the two parts above).
The model's choices: log entries 36, 37. -/
def Obligations.EngineWordsStartAndOperationsMoveData : Prop :=
  Claim.EngineWordsStartOperations ∧ Claim.EngineOperationsMoveData

/-- PLACE and PFCH never fault: a position that is BUBBLE, or whose page cannot be reached, is passed over; PLACE sets the
ember of the page's frame to 255 for near and 0 otherwise, and PFCH asks for the element's line and, with a nearer tier than the page's,
raises the ember by 16 up to 255 (R227), seen here on frames whose embers nobody owns and whose pages are not shared across modules. FJOIN emits its count, or its R run at arity 2 (R232). -/
def Sys2Proof.Claim.HintsAndJoinsComplete : Prop :=
  (∀ (w : WordM) (s : State) (F : Fire) (r : Region), Stands s F → F.ch.region? w.region.toNat = some r →
    (∀ mk, mk ∈ ([.place, .pfch] : List (WordM → Instr)) →
      (∃ t, exec (mk w) s = .next t) ∧
      ((∀ q ∈ F.f.pos, ∀ v, q.l = some v → F.ch.hintPage r w.fmt (v.toNat % 2 ^ 32) = none) →
        exec (mk w) s = .next (commit s (taken s F)))) ∧
    (∀ (q : FPos) (v : Val) (ma : Nat) (e : Extent), s.wlog = [] → Memory.wf s.mem = true → F.f.pos = [q] → q.l = some v →
      F.ch.hintPage r w.fmt (v.toNat % 2 ^ 32) = some (ma, e) → s.emberOwner (ma / 65536) = 0xFF →
      (s.part F.ch.part).pq = 0 → e.xs = false →
      s.cycle / 1600000 ≤ s.mod.emberMs →
      let at_ := emberBase + ma / 65536
      let tier := w.aux.toNat % 4
      (∃ t, exec (.place w) s = .next t ∧ ∀ a, after t a = if a = at_ then (if tier = 0 then 255 else 0) else s.byte a) ∧
      (∃ t, exec (.pfch w) s = .next t ∧ ∀ a, after t a =
        if a = at_ ∧ tier < e.tier.toNat then BitVec.ofNat 8 (min 255 ((s.byte at_).toNat + 16)) else s.byte a) ∧
      (∃ t x, exec (.pfch w) s = .next t ∧ t.fab.fetches = s.fab.fetches ++ [x] ∧ x.bind = F.cc.bind ∧ x.ma = ma ∧ x.ember = e.ember))) ∧
  (∀ (w : WordM) (s : State) (F : Fire), Stands s F →
    (w.arity = 2 → exec (.fjoin w) s = .next (commit s
      (((taken s F).emitKind F 0 w.cons1 F.f.kind w.fmt.maxRun F.runR).emitKind F 1 w.cons2 F.f.kind w.fmt.maxRun F.runR))) ∧
    (w.arity ≠ 2 → ∀ q rest, F.f.pos = q :: rest → exec (.fjoin w) s = .next (commit s ((taken s F).emitBoth F w.cons1 w.cons2 1
      [Emit.mk q.iter (q.l.map fun _ => BitVec.ofNat 128 (w.aux.toNat % 128))]))))

/-- TLINC and NTFY hold their run back as one pending operation, TLINC's amount being the sum of its live payloads; TLWAIT
parks its thresholds; TLRD delivers the counter (R229 to R231, R233). -/
def Sys2Proof.Claim.TimelineWordsPend : Prop :=
  ∀ (w : WordM) (s : State) (F : Fire), Stands s F →
    (∀ mk ntf, (mk, ntf) ∈ ([(.tlinc, false), (.ntfy, true)] : List ((WordM → Instr) × Bool)) →
      ∃ (t : State) (x : Pending), exec (mk w) s = .next t ∧ t.fab.pending = s.fab.pending ++ [x] ∧ x.notify = ntf ∧ x.bind = F.cc.bind ∧
        x.hearth = F.hearth ∧ x.ce = F.ce ∧ x.slot = F.slot ∧ x.index = w.aux.toNat % 256 ∧ x.pos = F.f.pos ∧
        (ntf = false → x.amount = BitVec.ofNat 64 (F.f.pos.map fun q => (q.l.getD 0).toNat % 2 ^ 32).sum) ∧
        t.fab.transit = s.fab.transit) ∧
    (∃ (t : State) (l : List TlWait), exec (.tlwait w) s = .next t ∧ t.fab.waits = s.fab.waits ++ l ∧
      l.map (fun x => (x.iter, x.level)) = F.f.pos.filterMap (fun q => q.l.map fun v => (q.iter, v.extractLsb' 0 64)) ∧
      (∀ x ∈ l, x.bind = F.cc.bind ∧ x.hearth = F.hearth ∧ x.ce = F.ce ∧ x.slot = F.slot ∧ x.index = w.aux.toNat % 256) ∧
      t.fab.transit = ((taken s F).emitBoth F w.cons1 w.cons2 16
        ((F.f.pos.filter fun q => q.l.isNone).map fun q => Emit.mk q.iter none)).fab.transit) ∧
    (∃ l, exec (.tlrd w) s = .next (commit s ((taken s F).emitBoth F w.cons1 w.cons2 16 l)) ∧
      Each F l fun _ q => (q.iter, q.l.map fun _ =>
        BitVec.ofNat 128 (((F.ch.timelines[w.aux.toNat % 256]?).map Timeline.value).getD 0).toNat))

/-- Hints, joins of firings and timeline words (the two parts above).
The model's choices: log entries 27, 47, 79. -/
def Obligations.HintsJoinsAndTimelineWordsComplete : Prop :=
  Claim.HintsAndJoinsComplete ∧ Claim.TimelineWordsPend

namespace Sys2Proof.Claim

/-- A thread whose record of 4 KiB stands at `ma`, where every byte can be written; `wr` is its write index (R345). -/
def Record (s : State) (th : Thread) (ma wr : Nat) : Prop :=
  Quiet s ∧ s.wlog = [] ∧ Memory.wf s.mem = true ∧ s.memSide.moves = [] ∧ ma + 4096 ≤ slotBase ∧
  s.stokerAddr th.aspace th.juirec.toNat true true = some ma ∧ (∀ i, i < 4096 → s.writable (ma + i) = true) ∧ wr = s.nat (ma + 36) 4

/-- Posts in the record that its reader has not taken yet (R346). -/
def unread (s : State) (ma wr : Nat) : Nat := (wr + 2 ^ 32 - s.nat (ma + 40) 4) % 2 ^ 32

/-- One post has been made to the thread of device `v`: the vector's mask bit is set, slot wr mod 63 holds vector, tag, payload and launch
id, the write index is one higher, and a user interrupt is raised where the thread runs and pending otherwise (R345, R346). -/
def Posted (t : State) (v : Nat) (th : Thread) (ma wr vector tag payload launch : Nat) : Prop :=
  let slot := ma + 64 + 64 * (wr % 63)
  (after t (ma + vector / 8)).getLsbD (vector % 8) = true ∧ t.nat slot 1 = vector ∧ t.nat (slot + 4) 4 = tag ∧
  t.nat (slot + 8) 8 = payload ∧ t.nat (slot + 16) 8 = launch ∧ t.nat (ma + 36) 4 = (wr + 1) % 2 ^ 32 ∧
  ∃ u, t.thread? v = some u ∧ (th.running = true → u.raised = th.raised + 1) ∧ (th.running = false → u.pending = true)

end Sys2Proof.Claim

/-- A pending TLINC whose charge's earlier accesses and engine operations have ended adds its amount to the counter and sends
its run; NTFY then posts one user interrupt for each live position: to a registered thread's record, or where that is full to its lost
count, or where no thread is registered to the device's; TLWAIT's lowest threshold that the counter has reached is
released with the counter's value; UINT_DELIVER raises a pending user interrupt once (R229, R230, R233, R346).
The model's choices: log entries 24, 28. -/
def Obligations.TimelineEventsTakePlace : Prop :=
  (∀ (s : State) (id : Nat) (p : Pending) (c : Charge) (u : Nat × Block × BitVec 64),
    s.fab.pending.find? (fun x => x.id == id && !x.notify) = some p → s.charge? p.bind = some c →
    s.unitWord p.bind p.hearth p.ce p.slot = some u → c.engines = true → s.pendingMet p = true →
    ∃ t, exec (.tlincAdd id) s = .next t ∧ t.fab.pending = s.fab.pending.filter (fun x => x.id != id) ∧
      (∀ tl, c.timelines[p.index]? = some tl →
        ((t.charge? p.bind).bind fun d => d.timelines[p.index]?).map (·.value) = some (tl.value + p.amount)) ∧
      t.fab.transit = (s.sendTrigger p).fab.transit) ∧
  (∀ (s : State) (id : Nat) (p : Pending) (c : Charge),
    s.fab.pending.find? (fun x => x.id == id && x.notify) = some p → s.charge? p.bind = some c → c.engines = true →
    s.pendingMet p = true →
    ∃ t, exec (.ntfyPost id) s = .next t ∧ t.fab.pending = s.fab.pending.filter (fun x => x.id != id) ∧
      t.fab.transit = (s.sendTrigger p).fab.transit ∧
      (s.thread? c.vdev = none → (Table.getD t.adm.uintLost c.vdev 0).toNat =
        min ((Table.getD s.adm.uintLost c.vdev 0).toNat + (p.pos.filter fun q => q.l.isSome).length) (2 ^ 64 - 1)) ∧
      (∀ th ma wr q v, s.thread? c.vdev = some th → Record s th ma wr →
        (p.pos.filter fun x => x.l.isSome) = [q] → q.l = some v → p.index < 256 →
        (unread s ma wr < 63 →
          Posted t c.vdev th ma wr p.index (faultTag c.ctx q.iter).toNat (v.toNat % 2 ^ 64) (c.launchId % 2 ^ 64)) ∧
        (63 ≤ unread s ma wr → (after t (ma + p.index / 8)).getLsbD (p.index % 8) = true ∧
          t.nat (ma + 36) 4 = wr ∧ t.nat (ma + 32) 4 = (s.nat (ma + 32) 4 + 1) % 2 ^ 32))) ∧
  (∀ (s : State) (id : Nat) (x : TlWait) (c : Charge) (u : Nat × Block × BitVec 64) (tl : Timeline),
    s.fab.waits.find? (fun y => y.id == id) = some x → s.charge? x.bind = some c →
    s.unitWord x.bind x.hearth x.ce x.slot = some u → c.runs = true → c.timelines[x.index]? = some tl →
    x.level.toNat ≤ tl.value.toNat →
    (∀ y ∈ s.fab.waits, y.bind = x.bind → y.hearth = x.hearth → y.ce = x.ce → y.slot = x.slot →
      x.level.toNat < y.level.toNat ∨ x.level = y.level ∧ x.id ≤ y.id) →
    ∃ t, exec (.tlwaitRelease id) s = .next t ∧ t.fab.waits = s.fab.waits.filter (fun y => y.id != id) ∧
      (let l := [Emit.mk x.iter (some (BitVec.ofNat 128 tl.value.toNat))]
       t.fab.transit = ((s.sendAll x.bind u.1 x.slot 0 (rawCons u.2.2 0) 16 l).sendAll x.bind u.1 x.slot 1 (rawCons u.2.2 1) 16
         l).fab.transit)) ∧
  (∀ (s : State) (v : Nat) (th : Thread), s.thread? v = some th → th.pending = true →
    ∃ t, exec (.uintDeliver v) s = .next t ∧ t.thread? v = some { th with
      running := true, pending := false, raised := th.raised + 1 })


/-! ## Chimney streams (R24, R69, R234 to R237) -/

namespace Sys2Proof.Claim

/-- The L run of a firing as a frame (R235): BUBBLE throughout or not at all, with the check of its header, which names no slot, and of its
values (R42). -/
def runFrame (F : Fire) (nd : Bool) : Frame :=
  let k : Kind := if F.f.pos.any fun q => q.l.isNone then .bubble else .data
  let vals := F.f.pos.map fun q => q.l.getD 0
  { kind := k, ctx := BitVec.ofNat 4 F.ctx, iter := F.tag0, vals := vals, nd := nd
    check := tokenCheck (headerOf k vals.length F.ctx F.tag0 0 .L false nd) 4 vals }

/-- The retry buffer of the port of stream `k` holds one run more, where the port stands and is not down (R23). -/
def Kept (s t : State) (c : Charge) (k : Nat) : Prop :=
  ∀ e, c.stream? k = some e → e.port < s.mod.ports.length → (s.port e.port).mode ≠ 2 →
    (t.port e.port).retained = (s.port e.port).retained + 1

/-- The positions of a run as the contributions of a rank (R236). -/
def contribOf (rank : BitVec 8) (it : Iter) (bub : Bool) (vals : List Val) : List (BitVec 8 × Iter × Option Val) :=
  vals.zipIdx.map fun (v, i) => (rank, it + BitVec.ofNat 24 i, if bub then none else some v)

end Sys2Proof.Claim

/-- LSEND hands its run to the link, where its port's retry buffer keeps it until the far end has it, and uses one credit, and waits with nothing changed while its stream has none; LRECV
opens its stream; REDN adds its run, at the word's rank, to the contributions of its stream and sends it to the other
participants, emitting nothing yet (R235, R236). -/
def Sys2Proof.Claim.LinkWordsHandRunsOver : Prop :=
  ∀ (w : WordM) (s : State) (F : Fire), Stands s F →
    let b := F.cc.bind
    let k := w.aux.toNat % 256
    let ch := s.chimney b k
    (ch.credit = 0 → exec (.lsend w) s = .next { s with wlog := [], sel := none }) ∧
    (ch.credit ≠ 0 → ∃ t nd, exec (.lsend w) s = .next t ∧ (t.chimney b k).credit = ch.credit - 1 ∧
      (t.chimney b k).sent = ch.sent ++ [runFrame F nd] ∧ (t.chimney b k).sentNo = ch.sentNo + 1 ∧ t.fab.transit = s.fab.transit ∧
      Kept s t F.ch k ∧ ∀ e, F.ch.stream? k = some e → nd = e.nd) ∧
    (∃ t, exec (.lrecv w) s = .next t ∧ (t.chimney b k).opened = some (F.hearth, F.ce, F.slot) ∧
      (t.chimney b k).arrived = ch.arrived ∧ t.fab.transit = s.fab.transit) ∧
    (∀ e, F.ch.stream? k = some e →
      let new := contribOf e.rank F.tag0 (F.f.pos.any fun q => q.l.isNone) (F.f.pos.map fun q => q.l.getD 0)
      (∀ x ∈ new, ∀ y ∈ ch.contrib, ¬(y.1 = x.1 ∧ y.2.1 = x.2.1)) →
      ∃ t, exec (.redn w) s = .next t ∧ (t.chimney b k).contrib = ch.contrib ++ new ∧
        (t.chimney b k).sent = ch.sent ++ [runFrame F false] ∧ t.fab.transit = s.fab.transit ∧ Kept s t F.ch k)

/-- LSEND_ACK gives the credit back and advances the stream's timeline; LRECV_RUN emits the oldest arrived run; REDN_RESULT
reduces the contributions of a tag in ascending rank, BUBBLE where one is; CHIMNEY_FRAME_RECEIVE queues a frame at its
stream, leaves one that does not match its check to the link's retry, drops it at a port that is down and counts it there, and, where no charge holds the stream, drops it, counts it with the runs
of exited charges and, with nd set, reports it to its sender; a remote drop report posts one drop record. Nothing but a recovery image is
taken while the ROM waits for one (R24, R29, R42, R69, R235, R236). -/
def Sys2Proof.Claim.LinkEventsMoveFrames : Prop :=
  (∀ (s : State) (b k : Nat) (c : Charge) (e : Stream), s.charge? b = some c → c.stream? k = some e →
    (s.chimney b k).ackNo < (s.chimney b k).sentNo →
    ∃ t, exec (.lsendAck b k) s = .next t ∧ (t.chimney b k).credit = (s.chimney b k).credit + 1 ∧
      (∀ tl, e.tl ≠ 0xFF → c.timelines[e.tl]? = some tl →
        ((t.charge? b).bind fun d => d.timelines[e.tl]?).map (·.value) = some (tl.value + 1))) ∧
  (∀ (s : State) (b k h e slot : Nat) (c : Charge) (f : Frame) (rest : List Frame) (u : Nat × Block × BitVec 64),
    s.charge? b = some c → (s.chimney b k).opened = some (h, e, slot) → (s.chimney b k).arrived = f :: rest →
    s.unitWord b h e slot = some u → c.runs = true → f.kind ≠ .abort → (s.ce h e).lastStart ≠ some s.cycle →
    (s.ce h e).busyUntil ≤ s.cycle → c.image.tracks = [] →
    s.cycle % 16 < (s.stove (stoveOf h)).startRate →
    let n := if f.kind = .data ∨ f.kind = .ovf ∨ f.kind = .bubble then (if (wordFmt u.2.2).bits = 64 then 2 else 1) else 1
    ∃ t, exec (.lrecvRun b k) s = .next t ∧ (t.chimney b k).arrived = rest ∧
      ((t.chimney b k).opened = if f.kind = .eos then none else some (h, e, slot)) ∧
      t.fab.transit = ((s.sendCons b u.1 slot 0 (rawCons u.2.2 0) f.kind f.iter f.vals [] n).sendCons b u.1 slot 1
        (rawCons u.2.2 1) f.kind f.iter f.vals [] n).fab.transit) ∧
  (∀ (s : State) (b k h ce slot : Nat) (c : Charge) (e : Stream) (u : Nat × Block × BitVec 64) (it : Iter)
      (vs : List (Option Val)),
    s.charge? b = some c → c.stream? k = some e → e.role = 2 → (s.chimney b k).place = some (h, ce, slot) →
    s.unitWord b h ce slot = some u → c.runs = true → vs.length = e.count →
    (∀ r v, vs[r]? = some v →
      ((s.chimney b k).contrib.find? fun x => x.1.toNat == r && x.2.1 == it) = some (BitVec.ofNat 8 r, it, v)) →
    (∃ r, r < e.count ∧ ∀ x ∈ (s.chimney b k).contrib, ¬(x.1.toNat = r ∧ x.2.1 = it + 1)) →
    let f := wordFmt u.2.2
    let op := updateOf (BitVec.extractLsb' 17 4 u.2.2).toNat
    let bits (v : Val) : Nat := v.toNat % 2 ^ f.bits
    let add (a v : Option Val) : Option Val := match a, v with
      | some a, some v => some (BitVec.ofNat 128 (applyUpdate op (c.policyOf u.2.1) f (bits a) (bits v) % 2 ^ f.bits))
      | _, _ => none
    ∀ x xs, vs = x :: xs →
      (let out := [Emit.mk it (xs.foldl add x)]
       ∃ t, exec (.rednResult b k it) s = .next t ∧ (∀ y ∈ (t.chimney b k).contrib, y.2.1 ≠ it) ∧
         t.fab.transit = ((s.sendAll b u.1 slot 0 (rawCons u.2.2 0) f.maxRun out).sendAll b u.1 slot 1 (rawCons u.2.2 1)
           f.maxRun out).fab.transit)) ∧
  (∀ (s : State) (port k : Nat) (rank : BitVec 8) (f : Frame), s.mod.boot = .recoveryResponder →
    exec (.chimneyFrameReceive port k rank f) s = .next { s with wlog := [], sel := none } ∧
    ∀ v hd, exec (.exitedDropReport v hd) s = .next { s with wlog := [], sel := none }) ∧
  (∀ (s : State) (port k b : Nat) (rank : BitVec 8) (f : Frame) (c : Charge) (e : Stream), port < s.mod.ports.length →
    s.mod.boot ≠ .recoveryResponder → s.portPresent port = true →
    let intact := f.check = tokenCheck (headerOf f.kind f.vals.length f.ctx.toNat f.iter 0 .L false f.nd) 4 f.vals
    ((s.port port).mode = 1 → ¬intact → exec (.chimneyFrameReceive port k rank f) s = .next { s with wlog := [], sel := none }) ∧
    ((s.port port).mode = 2 → ∃ t, exec (.chimneyFrameReceive port k rank f) s = .next t ∧
      (t.port port).dropped = satAdd (s.port port).dropped 1 ∧ t.fab = s.fab) ∧
    ((s.port port).mode = 1 → intact → s.streamHolder port k = some (b, c, e) → c.phase = .running → f.kind ≠ .abort → e.role = 1 →
      ∃ t, exec (.chimneyFrameReceive port k rank f) s = .next t ∧
        (t.chimney b k).arrived = (s.chimney b k).arrived ++ [f] ∧ t.mod = s.mod) ∧
    ((s.port port).mode = 1 → intact → s.streamHolder port k = none → ∃ t, exec (.chimneyFrameReceive port k rank f) s = .next t ∧
      t.mod.exitedDrop = satAdd s.mod.exitedDrop 1 ∧
      t.fab.dropReports = s.fab.dropReports ++ (if f.nd then [(port, k, f)] else []))) ∧
  (∀ (s : State) (v : Nat) (hd : BitVec 64), s.mod.boot ≠ .recoveryResponder → exec (.exitedDropReport v hd) s = .next (commit s (s.postDrop v hd.toNat)))

/-- Link words hand runs over and the link moves frames (the two parts above).
The model's choices: log entries 39, 99, 118. -/
def Obligations.LinkWordsAndEventsMoveFrames : Prop :=
  Claim.LinkWordsHandRunsOver ∧ Claim.LinkEventsMoveFrames

/-! ## The matrix block (R241 to R257) -/

namespace Sys2Proof.Claim

/-- The step has selected the head entry `y` of a matrix queue, and M holds the records that it reads. -/
def MxEntry (s : State) (M : MxRun) (y : QEntry) : Prop :=
  s.sel = some (.entry M.hearth M.ce M.second y) ∧ (M.state s).queue.head? = some y ∧
  s.mxRun M.hearth M.ce M.second y = some M

/-- N of a matrix word, and the columns that a block has (R241, R249). -/
def cols (w : WordX) : Nat := 2 ^ (w.sel.toNat % 8)

/-- The element of the latch that a position names, row-major modulo 32 N (R250). -/
def latchElem (w : WordX) (q : FPos) : Nat := q.iter.toNat % (32 * cols w)

/-- The entry leaves its queue and nothing else leaves it. -/
def leaves (s t : State) (M : MxRun) : Prop := (M.state t).queue = (M.state s).queue.drop 1

end Sys2Proof.Claim

/-- MLAT writes each element to the latch, row-major; MCBT writes the eight weights of each index; a BUBBLE position sets the
latch mark (R250). MZER clears the rows that its run names or all of them, and with Z the latch, the scales and the latch mark
(R254). Each leaves the queue. -/
def Sys2Proof.Claim.LatchWordsLoadAndClear : Prop :=
  ∀ (w : WordX) (s : State) (M : MxRun) (y : QEntry), MxEntry s M y → w.sel.toNat % 8 ≤ 4 →
    let m := M.state s
    (∃ t, exec (.mlat w) s = .next t ∧ leaves s t M ∧
      (M.state t).latchMark = (m.latchMark || M.pos.any fun q => q.l.isNone) ∧
      (∀ (k : Nat) (q : FPos) v, M.pos[k]? = some q → q.l = some v →
        (∀ (j : Nat) (p : FPos), k < j → M.pos[j]? = some p → latchElem w p ≠ latchElem w q) →
        (M.state t).latchAt (latchElem w q / cols w) (latchElem w q % cols w) = v.toNat % 2 ^ w.fmtB.bits) ∧
      (∀ r n, n < cols w → (∀ q ∈ M.pos, latchElem w q ≠ r * cols w + n) → (M.state t).latchAt r n = m.latchAt r n) ∧
      (M.state t).acc = m.acc ∧ t.fab.transit = s.fab.transit) ∧
    (∀ q v, M.pos = [q] → q.l = some v → ∃ t, exec (.mcbt w) s = .next t ∧ leaves s t M ∧
      (∀ k, k < 8 → let e := (8 * q.iter.toNat + k) % (32 * cols w)
        (M.state t).latchAt (e / cols w) (e % cols w) =
          (BitVec.ofInt 8 ((cbWeights (M.ch.image.shells.getD M.policy.cbtab []) (v.toNat % 2 ^ 16)).getD k 0)).toNat) ∧
      (M.state t).acc = m.acc) ∧
    (∃ t, exec (.mcbt w) s = .next t) ∧
    (∃ t, exec (.mzer w) s = .next t ∧ leaves s t M ∧
      (∀ r n, r < 32 → n < cols w → (M.state t).accAt r n =
        if w.sel.getLsbD 3 = true ∨ ∃ q ∈ M.pos, q.iter.toNat % 32 = r then 0 else m.accAt r n) ∧
      (∀ r, r < 32 → (M.state t).accMarks.getLsbD r =
        (m.accMarks.getLsbD r && !(w.sel.getLsbD 3 || M.pos.any fun q => q.iter.toNat % 32 == r))) ∧
      (w.sel.getLsbD 4 = true → (M.state t).latch = [] ∧ (M.state t).sa = none ∧ (M.state t).sb = [] ∧
        (M.state t).latchMark = false) ∧
      (w.sel.getLsbD 4 = false → (M.state t).latch = m.latch ∧ (M.state t).sa = m.sa ∧ (M.state t).sb = m.sb ∧
        (M.state t).latchMark = m.latchMark))

/-- MMA adds to each accumulator element of its row the sum of 32 products with a latch column, and MMAS emits those sums
without the accumulator: for s8 operands the exact integer sum modulo 2^32, otherwise the model's matrix sum, rounded as R124
or R125 says. A BUBBLE position or a marked latch marks the row BUBBLE (R248, R252). -/
def Sys2Proof.Claim.MatrixSumsAccumulate : Prop :=
  ∀ (w : WordX) (s : State) (M : MxRun) (y : QEntry), MxEntry s M y → w.sel.toNat % 8 ≤ 4 →
    (∃ t, exec (.mma w) s = .next t ∧ leaves s t M) ∧ (∃ t, exec (.mmas w) s = .next t ∧ leaves s t M) ∧
    (∀ g, M.pos ≠ [] → (∀ q ∈ M.pos, q.iter.toNat / (if w.fmtA = .cb2 then 4 else 32) = g) →
      let m := M.state s
      let bub := m.latchMark || M.pos.any fun q => q.l.isNone
      let sum (acc n : Nat) : Nat :=
        (matrixSum M.policy w (rowElems w.fmtA (M.ch.image.shells.getD M.policy.cbtab []) M.pos g)
          ((List.range 32).map fun k => m.latchAt k n) acc).1
      (∃ t, exec (.mma w) s = .next t ∧
        (∀ n, n < cols w → (M.state t).accAt (g % 32) n = sum (m.accAt (g % 32) n) n % 2 ^ 128) ∧
        (∀ r n, r < 32 → r ≠ g % 32 → n < cols w → (M.state t).accAt r n = m.accAt r n) ∧
        (∀ r, r < 32 → (M.state t).accMarks.getLsbD r = (m.accMarks.getLsbD r || (bub && r == g % 32))) ∧
        (M.state t).latch = m.latch ∧ t.fab.transit = s.fab.transit) ∧
      (let row := (List.range (cols w)).map fun n =>
         Emit.mk (BitVec.ofNat 24 (32 * g + n)) (if bub then none else some (BitVec.ofNat 128 (sum 0 n)))
       let words := if w.acc64 then 2 else 1
       (w.scl = 0 → ∃ t, exec (.mmas w) s = .next t ∧ (M.state t).acc = m.acc ∧
         t.fab.transit = ((s.sendRun M.bind M.cc.block M.slot 0 w.cons1 .data row words).sendRun M.bind M.cc.block M.slot 1 w.cons2
           .data row words).fab.transit) ∧
       (∀ p : BitVec 16 × BitVec 16, w.scl ≠ 0 → (∀ n, n < cols w → m.pairOf w.scl.toNat n = p) →
         p ≠ m.last M.slot w.scl.toNat →
         let both (u : State) (k : Nat) (x : Consumer) : State :=
           ((u.sendCons M.bind M.cc.block M.slot k x .scale (BitVec.ofNat 24 (32 * g)) [p.1.setWidth 128]).sendCons M.bind
             M.cc.block M.slot k x .scale (BitVec.ofNat 24 (32 * g)) [p.2.setWidth 128]).sendRun M.bind M.cc.block M.slot k x
               .data row words
         ∃ t, exec (.mmas w) s = .next t ∧ t.fab.transit = (both (both s 0 w.cons1) 1 w.cons2).fab.transit ∧
           (M.state t).last M.slot w.scl.toNat = p))) ∧
  (∀ (w : WordX) (p : Policy) (as : List (Option Nat)) (bs : List Nat) (acc : Nat), w.fmtA = .s8 → w.fmtB = .s8 → w.acc64 = false →
    (matrixSum p w as bs acc).1 = (BitVec.ofInt 32 (num true 32 acc +
      ((as.zip bs).map fun x => num true 8 (x.1.getD 0) * num true 8 x.2).sum)).toNat)

/-- MOUT emits the row of each position, BUBBLE where the row is marked or the position is BUBBLE, and with Z clears the row
and its mark (R253). SCALE_ENTRY takes a captured scale to the streaming scale, or to its column's (R256). MATRIX_EOS sends
EOS to the consumers of the body's MMAS and MOUT words once the queue holds nothing of the handler (R246). -/
def Sys2Proof.Claim.MatrixRowsAndScalesLeave : Prop :=
  (∀ (w : WordX) (s : State) (M : MxRun) (y : QEntry), MxEntry s M y → w.sel.toNat % 8 ≤ 4 →
    (∃ t, exec (.mout w) s = .next t ∧ leaves s t M) ∧
    (∀ q, M.pos = [q] →
      let m := M.state s
      let r := q.iter.toNat % 32
      let row := (List.range (cols w)).map fun n => Emit.mk (BitVec.ofNat 24 (32 * q.iter.toNat + n))
        (if m.accMarks.getLsbD r = true ∨ q.l = none then none else some (BitVec.ofNat 128 (m.accAt r n)))
      ∃ t, exec (.mout w) s = .next t ∧
        (let cap := if w.acc64 then 16 else 32
         t.fab.transit = ((s.sendAll M.bind M.cc.block M.slot 0 w.cons1 cap row).sendAll M.bind M.cc.block M.slot 1 w.cons2 cap
          row).fab.transit) ∧
        (∀ k n, k < 32 → n < cols w → (M.state t).accAt k n =
          if k = r ∧ w.sel.getLsbD 3 = true ∧ q.l ≠ none then 0 else m.accAt k n) ∧
        (M.state t).accMarks.getLsbD r = (m.accMarks.getLsbD r && !(w.sel.getLsbD 3 && q.l.isSome)))) ∧
  (∀ (s : State) (h e : Nat) (m streaming : Bool) (k b : Nat) (it : Iter) (enc : BitVec 16) (c : Charge) (blk : Block),
    s.mxPick h e = some (m, .scale k streaming it enc) → ((s.ce h e).mx m).owner = some b → s.charge? b = some c →
    s.blockOf c h e = some blk →
    ∃ t, exec (.scaleEntry h e) s = .next t ∧ ((t.ce h e).mx m).queue = ((s.ce h e).mx m).queue.drop 1 ∧
      (streaming = true → ((t.ce h e).mx m).sa = some enc ∧ ((t.ce h e).mx m).sb = ((s.ce h e).mx m).sb) ∧
      (streaming = false → ((t.ce h e).mx m).sa = ((s.ce h e).mx m).sa ∧
        Table.get? ((t.ce h e).mx m).sb (it.toNat % blk.bodyColumns k) = some enc)) ∧
  (∀ (s : State) (h e ctx slot : Nat) (cc : CeCtx) (c : Charge) (m : Bool) (b : Block) (it : Iter),
    s.ctx? h e ctx = some cc → s.charge? cc.bind = some c → (s.ce h e).mxOf cc.bind = some m → c.block? cc.block = some b →
    Table.get? cc.eosOut slot = some it → c.runs = true → (∀ y ∈ ((s.ce h e).mx m).queue, y.from slot = false) →
    let outs := (b.bodyWords slot).filter fun x => (wordOp x.2 == 0xA3 || wordOp x.2 == 0xA4) && (Table.get? cc.eosOut x.1).isNone
    outs ≠ [] → ∃ t, exec (.matrixEos h e ctx slot) s = .next t ∧
      t.fab.transit = (outs.foldl (fun u x => (u.sendCons cc.bind cc.block x.1 0 (rawCons x.2 0) .eos it [0]).sendCons cc.bind
        cc.block x.1 1 (rawCons x.2 1) .eos it [0]) s).fab.transit)

/-- Matrix sums accumulate, and rows and scales leave (the two parts above).
The model's choices: log entries 40, 41, 42, 77. -/
def Obligations.MatrixSumsAccumulateAndLeave : Prop :=
  Claim.MatrixSumsAccumulate ∧ Claim.MatrixRowsAndScalesLeave

/-- MGATH starts reading and stays at the head of its queue; MGATH_READ_RETURN writes the element at L times the stride plus
base plus column, of a scratchpad region, to the latch row that the tag names, and the last element takes the entry out of
the queue (R251). -/
def Sys2Proof.Claim.GatheredElementsReachTheLatch : Prop :=
  (∀ (w : WordX) (s : State) (M : MxRun) (y : QEntry), MxEntry s M y →
    ∃ t, exec (.mgath w) s = .next t ∧ (M.state t).latchMark = ((M.state s).latchMark || M.pos.any fun q => q.l.isNone) ∧
      ((∃ q ∈ M.pos, q.l ≠ none) → (M.state t).mgath = 1 ∧ (M.state t).queue = (M.state s).queue) ∧
      ((∀ q ∈ M.pos, q.l = none) → leaves s t M)) ∧
  (∀ (s : State) (h e g ma : Nat) (second : Bool) (y : QEntry) (rest : List QEntry) (M : MxRun) (r : Region) (q : FPos) (v : Val)
      (phys : Phys),
    let m := (s.ce h e).mx second
    m.queue = y :: rest → s.mxRun h e second y = some M → m.mgath ≠ 0 → m.parked = false → M.ch.serves = true → M.ch.mayTry (mxKey h e) = true →
    let w := M.blk.words.getD M.slot 0
    let n := 2 ^ ((w.extractLsb' 24 5).toNat % 8)
    let f := Fmt.ofCode (w.extractLsb' 48 4).toNat
    M.ch.region? (w.extractLsb' 16 6).toNat = some r → n ≤ 16 →
    (M.pos.filter fun q => q.l.isSome)[(m.mgath - 1) / n]? = some q → q.l = some v →
    let col := (m.mgath - 1) % n
    let x := v.toNat % 2 ^ 32 * M.p0.toNat + M.p1.toNat + col
    let size := elemBytes f false
    r.inBounds x size = true → s.place M.ch h r (r.base + x * size) true false = .ok (.pad g ma) → s.passes h g = true →
    phys.check = .good → s.anyPoison ma size = false → s.moveAt ma = none → s.visible ma = true →
    ∃ t, exec (.mgathReadReturn h e second phys) s = .next t ∧
      ((t.ce h e).mx second).latchAt (q.iter.toNat % 32) col = s.nat ma size % 2 ^ f.bits ∧
      (let last := m.mgath = n * (M.pos.filter fun q => q.l.isSome).length
       (last → ((t.ce h e).mx second).queue = rest ∧ ((t.ce h e).mx second).mgath = 0) ∧
       (¬last → ((t.ce h e).mx second).queue = m.queue ∧ ((t.ce h e).mx second).mgath = m.mgath + 1)))

/-- Latches are loaded, cleared and gathered into (the two parts above).
The model's choices: log entry 40. -/
def Obligations.LatchesLoadClearAndGather : Prop :=
  Claim.LatchWordsLoadAndClear ∧ Claim.GatheredElementsReachTheLatch

/-! ## The join unit (R258 to R270) -/

namespace Sys2Proof.Claim

/-- A firing of a join word whose partition is free: no drain, no operation under way and no firing that has started (R261), and none of
the unit that was parked before it and waits for its retry (R352). -/
def OnJoin (s : State) (F : Fire) (j : Join) : Prop :=
  Stands s F ∧ s.join? F.hearth F.ctx = some j ∧ j.draining = none ∧ j.parked = none ∧ j.begun = [] ∧ j.memo = [] ∧
  j.want = none ∧ F.f.done = [] ∧
  F.ch.mayTry (juKey F.hearth) = true

/-- The stored slot of a key, where its probe hits (R260). -/
def stored (s : State) (F : Fire) (j : Join) (key : Nat) : Option JSlot :=
  match (s.probe F.hearth j key).1 with
  | .hit _ x => some x
  | _ => none

/-- An ash region in the scratchpad of its own hearth, at machine address `A`. -/
def Pad (s : State) (c : Charge) (h : Nat) (r : Region) (A : Nat) : Prop :=
  r.space = 0 ∧ s.memSide.moves = [] ∧ s.memSide.poison = [] ∧ h < 168 ∧
  Table.getD c.alloc h 0 + r.base + max 64 r.length ≤ 0x800000 ∧ A = padAddr h (Table.getD c.alloc h 0 + r.base)

end Sys2Proof.Claim

/-- One JADD or JPRD position with live operands, a true predicate and a key inside the window inserts its value, rounded
once, with addition count 1 into the empty slot where its probe ends, or adds it, the stored value first, to the slot of its
key; no other byte of memory changes; consumer 1 gets the count 1 and consumer 2 the predicate 1. A key outside the window is
counted and gives 0, a BUBBLE operand gives BUBBLE (R260, R261, R263).
The model's choices: log entry 43. -/
def Obligations.JoinUpdatesInsertOrAdd : Prop :=
  ∀ mk prod, (mk, prod) ∈ ([(.jadd, false), (.jprd, true)] : List ((WordX → Instr) × Bool)) →
    ∀ (w : WordX) (s : State) (F : Fire) (j : Join) (q : FPos), OnJoin s F j → F.f.pos = [q] → s.wlog = [] →
      Memory.wf s.mem = true →
      let out (n : Nat) (v : Option Val) : State :=
        ((taken s F).emitOne F 0 w.cons1 F.tag0 (some (BitVec.ofNat 128 n))).emit F 1 w.cons2 32 [Emit.mk q.iter v]
      (w.arity ≠ 3 → q.l = none ∨ q.r = none → ∃ t, exec (mk w) s = .next t ∧ t.mem = s.mem ∧
        t.fab.transit = (out 0 none).fab.transit) ∧
      (∀ l r, q.l = some l → q.r = some r → (w.arity = 3 → ∃ p, q.p = some p ∧ p.getLsbD 0 = true) →
        let key := l.toNat % 2 ^ w.fmtA.bits
        let inside := j.wlo.toNat ≤ key ∧ key ≤ j.whi.toNat
        let pol := F.policy
        let x := readFlt pol w.fmtB r
        let y := readFlt pol w.fmtB (BitVec.ofNat 128 (r.toNat / 2 ^ w.fmtB.bits))
        (¬inside → ∃ t, exec (mk w) s = .next t ∧ t.mem = s.mem ∧ t.fab.transit = (out 0 (some 0)).fab.transit ∧
          (t.join? F.hearth F.ctx).map (·.rejects) = some (j.rejects + 1)) ∧
        (∀ n steps, inside → (s.probe F.hearth j key = (.empty n, steps) ∨ ∃ z, s.probe F.hearth j key = (.hit n z, steps)) →
          ∃ t z' v, exec (mk w) s = .next t ∧ t.fab.transit = (out 1 (some 1)).fab.transit ∧
            t.jslot F.hearth n j.wide = some z' ∧ z'.key = key ∧ z'.value = v % 2 ^ j.fmt.bits ∧
            (∀ a, ¬(jafAddr F.hearth n ≤ a ∧ a < jafAddr F.hearth n + 64) → after t a = s.byte a) ∧
            (t.join? F.hearth F.ctx).map (·.longest) = some (max j.longest steps) ∧
            (s.probe F.hearth j key = (.empty n, steps) → z'.adds = 1 ∧ v = (posZero pol j.fmt
              (if prod then fltMul pol j.fmt 0 false x y else fltToFlt pol j.fmt 0 false x)).1) ∧
            (∀ z, s.probe F.hearth j key = (.hit n z, steps) → z'.adds = min 65535 (z.adds + 1) ∧
              (let old := readFlt pol j.fmt (BitVec.ofNat 128 z.value)
               (prod = false → v = (fltAdd pol j.fmt 0 false old x).1) ∧
               (prod = true → ∀ xy, prodExact x y = some xy → (∀ c b m, xy ≠ .nan c b m) →
                 v = (sumFlt pol j.fmt 0 false old xy [old, x, y]).1)))))

/-- JPROBE gives the value stored for each key, +0 where there is none, with a hit predicate; JMATCH sends R to consumer 1
where the key is present and to consumer 2 where it is not, a BUBBLE position to consumer 1; JSTAT reads the selected counter;
none changes memory or the partition (R268, R269). No other CE has an operation of the partition ready, with which the
positions would interleave (R261). -/
def Sys2Proof.Claim.JoinReadsChangeNothing : Prop :=
  ∀ (w : WordX) (s : State) (F : Fire) (j : Join), OnJoin s F j → s.juAlone F = true → s.wlog = [] → Quiet s →
    let hit (q : FPos) : Option JSlot := match q.l with
      | some l => stored s F j (l.toNat % 2 ^ w.fmtA.bits)
      | none => none
    (∃ t l m, exec (.jprobe w) s = .next t ∧ t.mem = s.mem ∧ t.join? F.hearth F.ctx = some j ∧
      t.fab.transit = (((taken s F).emit F 0 w.cons1 w.fmtB.maxRun l).emit F 1 w.cons2 32 m).fab.transit ∧
      Each F l (fun _ q => (q.iter, q.l.map fun _ => BitVec.ofNat 128 (((hit q).map JSlot.value).getD 0))) ∧
      Each F m (fun _ q => (q.iter, q.l.map fun _ => if hit q = none then 0 else 1))) ∧
    (let side (yes : Bool) : List Emit := F.f.pos.filterMap fun q =>
       if q.l = none ∨ q.r = none then (if yes then some (Emit.mk q.iter none) else none)
       else if (hit q).isSome = yes then some (Emit.mk q.iter q.r) else none
     ∃ t, exec (.jmatch w) s = .next t ∧ t.mem = s.mem ∧ t.join? F.hearth F.ctx = some j ∧
       t.fab.transit = (((taken s F).emit F 0 w.cons1 w.fmtB.maxRun (side true)).emit F 1 w.cons2 w.fmtB.maxRun
         (side false)).fab.transit) ∧
    (∀ k n, (k, n) ∈ [(0, (s.occupied F.hearth j).length), (3, j.spills), (4, j.rejects), (5, j.longest), (6, j.flags.toNat),
        (7, j.drains)] → w.sel.toNat = k →
      ∃ t l, exec (.jstat w) s = .next t ∧ t.mem = s.mem ∧ t.join? F.hearth F.ctx = some j ∧
        t.fab.transit = ((taken s F).emitBoth F w.cons1 w.cons2 16 l).fab.transit ∧
        Each F l fun _ q => (q.iter, q.l.map fun _ => BitVec.ofNat 128 (n % 2 ^ 64))) ∧
    (∀ r A k, F.ch.region? j.ash = some r → Pad s F.ch F.hearth r A → w.sel.toNat = k → k = 1 ∨ k = 2 →
      ∃ t l, exec (.jstat w) s = .next t ∧ t.mem = s.mem ∧
        t.fab.transit = ((taken s F).emitBoth F w.cons1 w.cons2 16 l).fab.transit ∧
        Each F l fun _ q => (q.iter, q.l.map fun _ => BitVec.ofNat 128 (if k = 1 then s.nat A 4 else s.nat (A + 8) 8)))

/-- JINIT empties the partition's slots, writes the ash header (no runs, 64 bytes used), opens the window and clears the flags
and counters; JWIN sets the window from two parameter pairs; both pass their trigger run on (R262). JMRG answers 1 for each
position while the ash holds at most one run (R265). The ash lies in the hearth's scratchpad; JINIT writes it once no earlier
load of the charge there is outstanding (R280). -/
def Sys2Proof.Claim.JoinTableIsSetUp : Prop :=
  ∀ (w : WordX) (s : State) (F : Fire) (j : Join), OnJoin s F j → s.wlog = [] → Memory.wf s.mem = true → Quiet s →
    (∀ r A, F.ch.region? j.ash = some r → Pad s F.ch F.hearth r A →
      ((taken s F).writeHeld F.cc.bind F.hearth F.ch.ctx s.cycle = false → ∃ t u, exec (.jinit w) s = .next t ∧ t.join? F.hearth F.ctx = some u ∧ t.occupied F.hearth u = [] ∧
        u = { j with wlo := 0, whi := BitVec.allOnes 64, flags := 0, spills := 0, rejects := 0, longest := 0, drains := 0 } ∧
        t.nat A 4 = 0 ∧ t.nat (A + 8) 8 = 64 ∧
        (∀ a, ¬(A ≤ a ∧ a < A + 4) → ¬(A + 8 ≤ a ∧ a < A + 16) →
          (∀ n, j.owns (s.hearth F.hearth).banksOff n = true → ¬(jafAddr F.hearth n ≤ a ∧ a < jafAddr F.hearth n + 64)) →
          after t a = s.byte a) ∧
        t.fab.transit = ((taken s F).emitBoth F w.cons1 w.cons2 32 F.runL).fab.transit) ∧
      (s.nat A 4 ≤ 1 → ∃ t l, exec (.jmrg w) s = .next t ∧ t.mem = s.mem ∧
        t.fab.transit = ((taken s F).emitBoth F w.cons1 w.cons2 32 l).fab.transit ∧
        Each F l fun _ q => (q.iter, q.l.map fun _ => 1))) ∧
    (∃ t, exec (.jwin w) s = .next t ∧ t.mem = s.mem ∧
      t.join? F.hearth F.ctx = some { j with
        wlo := BitVec.ofNat 64 (s.param F.hearth F.ce F.ctx w.pidx.toNat 64)
        whi := BitVec.ofNat 64 (s.param F.hearth F.ce F.ctx (w.pidx.toNat + 2) 64) } ∧
      t.fab.transit = ((taken s F).emitBoth F w.cons1 w.cons2 32 F.runL).fab.transit)

/-- Join partitions are set up, and reads of them change nothing (the two parts above).
The model's choices: log entries 44, 45. -/
def Obligations.JoinReadsAndSetUp : Prop :=
  Claim.JoinReadsChangeNothing ∧ Claim.JoinTableIsSetUp

/-- A spill adds one run, its keys ascending, of the slots' keys and values behind the ash's last run, raises the run count
and the bytes used, and leaves every slot of the partition empty (R264). Combining gives each key that occurs once, keys
ascending, its first value with the later ones added in their order (R263, R265, R266). -/
def Sys2Proof.Claim.SpillsAndMergesKeepEveryKey : Prop :=
  (∀ (s : State) (x : Ash) (p : Policy) (j : Join) (nf : Bool) (A used n : Nat), Pad s x.c x.h x.r A → Quiet s → s.wlog = [] →
    s.writeHeld x.b x.h x.c.ctx x.cycle = false → s.nat A 4 = n → n < 32 → s.nat (A + 8) 8 = used → 64 ≤ used →
    let slots := s.occupied x.h j
    used + 16 + 16 * slots.length ≤ x.r.length →
    ∃ (y : AshSt) (run : List JSlot), let t := y.s
      x.spill p j nf { s := s, left := [], memo := [] } = .ok ((), y) ∧ run.Perm slots ∧ run.Pairwise (fun a b => a.key ≤ b.key) ∧
      t.nat A 4 = n + 1 ∧ t.nat (A + 8) 8 = used + 16 + 16 * slots.length ∧ t.nat (A + used) 4 = slots.length ∧
      (∀ (k : Nat) (y : JSlot), run[k]? = some y → t.nat (A + used + 16 + 16 * k) 8 = y.key ∧
        t.nat (A + used + 24 + 16 * k) 8 = y.value) ∧
      t.occupied x.h j = []) ∧
  (∀ (p : Policy) (f : Fmt) (l : List (Nat × Nat)),
    ((combine p f l).1.map (·.1)).Pairwise (· < ·) ∧
    ∀ k, Table.get? (combine p f l).1 k =
      match (l.filter fun x => x.1 == k).map (·.2) with
      | [] => none
      | v :: vs => some (vs.foldl (fun a b => (fltAdd p f 0 false (readFlt p f (BitVec.ofNat 128 a))
          (readFlt p f (BitVec.ofNat 128 b))).1) v))

/-- A drain of one trigger takes the partition's records from tag L on: JDRH the slots as they stand, JDRO, here with an empty
ash, the keys ascending. While records are left JDRO_DRAIN_DONE emits the next run of them, keys to consumer 1 and values to
consumer 2, up to the next multiple of 32 and of at most 32 positions, 16 where a format has 64 bits; after the last it empties
the slots, for JDRO resets the ash header, and advances the drain timeline (R266, R267). -/
def Sys2Proof.Claim.DrainsEmitAndEmptyTheTable : Prop :=
  (∀ mk ordered, (mk, ordered) ∈ ([(.jdro, true), (.jdrh, false)] : List ((WordX → Instr) × Bool)) →
    ∀ (w : WordX) (s : State) (F : Fire) (j : Join) (q : FPos) (v : Val), OnJoin s F j → F.f.pos = [q] → q.l = some v →
      s.wlog = [] → Quiet s → (ordered = true → ∃ r A, F.ch.region? j.ash = some r ∧ Pad s F.ch F.hearth r A ∧ s.nat A 4 = 0) →
      let slots := (s.occupied F.hearth j).map fun y => (y.key, y.value)
      let recs := if ordered then (combine F.policy j.fmt slots).1 else slots
      ∃ t, exec (mk w) s = .next t ∧ t.mem = s.mem ∧ t.fab.transit = s.fab.transit ∧
        (t.join? F.hearth F.ctx).map (·.draining) = some (some
          { ordered := ordered, ce := F.ce, slot := F.slot, trig := q.iter, cycle := s.cycle, tag := v.toNat % 2 ^ 32
            todo := recs })) ∧
  (∀ (s : State) (b h blk : Nat) (c : Charge) (j : Join) (r : Region) (d : Drain) (x : Block) (raw : BitVec 64), s.charge? b = some c →
    s.join? h c.ctx = some j → j.draining = some d → c.region? j.ash = some r → j.bind = b → c.engines = true →
    c.mayTry (juKey h) = true → s.unitWord b h d.ce d.slot = some (blk, x, raw) → d.todo ≠ [] → s.wlog = [] →
    let w := wordXOf raw
    let cap := if w.fmtA.bits = 64 ∨ w.fmtB.bits = 64 then 16 else 32
    let n := min (min cap (32 - d.tag % 32)) d.todo.length
    let run (f : Fmt) (get : Nat × Nat → Nat) : List Emit := (d.todo.take n).zipIdx.map fun (y, m) =>
      Emit.mk (BitVec.ofNat 24 (d.tag + m)) (some (BitVec.ofNat 128 (get y % 2 ^ f.bits)))
    ∃ t, exec (.jdroDrainDone b h) s = .next t ∧ t.mem = s.mem ∧
      (t.join? h c.ctx).map (·.draining) = some (some { d with tag := d.tag + n, todo := d.todo.drop n }) ∧
      t.fab.transit = ((s.sendAligned b blk d.slot 0 w.cons1 cap (run w.fmtA (·.1)) (fmtWords w.fmtA)).sendAligned
        b blk d.slot 1 w.cons2 cap (run w.fmtB (·.2)) (fmtWords w.fmtB)).fab.transit) ∧
  (∀ (s : State) (b h : Nat) (c : Charge) (j : Join) (r : Region) (A : Nat) (d : Drain), s.charge? b = some c →
    s.join? h c.ctx = some j → j.draining = some d → d.todo = [] → c.region? j.ash = some r → j.bind = b → c.engines = true →
    c.mayTry (juKey h) = true → (d.ordered = true → j.memo = [] ∧ s.writeHeld b h c.ctx d.cycle = false) →
    s.wlog = [] → Memory.wf s.mem = true → Pad s c h r A →
    ∃ t u, exec (.jdroDrainDone b h) s = .next t ∧ t.join? h c.ctx = some u ∧ u.draining = none ∧ u.drains = j.drains + 1 ∧
      t.occupied h u = [] ∧ (d.ordered = true → t.nat A 4 = 0 ∧ t.nat (A + 8) 8 = 64) ∧
      (d.ordered = false → ∀ a, A ≤ a → a < A + 64 → after t a = s.byte a) ∧
      (∀ tl, c.timelines[j.dtl]? = some tl →
        ((t.charge? b).bind fun d => d.timelines[j.dtl]?).map (·.value) = some (tl.value + 1)))

/-- Spills and merges keep every key, and drains emit and empty the table (the two parts above).
The model's choices: log entries 43, 44, 45. -/
def Obligations.SpillsMergesAndDrainsKeepEveryKey : Prop :=
  Claim.SpillsAndMergesKeepEveryKey ∧ Claim.DrainsEmitAndEmptyTheTable

/-! ## The index engine (R271, R272) -/

namespace Sys2Proof.Claim

/-- The engine's next walk, not yet begun, of a region in its hearth's scratchpad that starts at address A, and its word. -/
def Walking (s : State) (h : Nat) (w : Walk) (c : Charge) (r : Region) (A : Nat) (u : Nat × Block × BitVec 64) : Prop :=
  s.nextWalk h = some w ∧ s.charge? w.bind = some c ∧ c.region? w.region = some r ∧
  s.unitWord w.bind h w.ce w.slot = some u ∧ w.memo = [] ∧ Quiet s ∧ h < 168 ∧ r.space = 0 ∧ s.memSide.moves = [] ∧ s.memSide.poison = [] ∧
  ∀ off, padAddr h (Table.getD c.alloc h 0 + (r.base + off)) = A + off

/-- Entry `k` of the row pointers and of the column indices of a walk (R271). -/
def rowPtr (s : State) (w : Walk) (A k : Nat) : Nat := s.nat (A + 4 * ((w.quad.getD 0 0).toNat + k)) 4
def colIdx (s : State) (w : Walk) (A e : Nat) : Nat := s.nat (A + 4 * ((w.quad.getD 1 0).toNat + e)) 4

end Sys2Proof.Claim

/-- IWALK and IBAL queue one walk for each position, with the parameter quad as it stands, and complete (R271, R272). -/
def Sys2Proof.Claim.WalksQueueAtTheEngine : Prop :=
  ∀ mk, mk ∈ ([.iwalk, .ibal] : List (WordX → Instr)) → ∀ (w : WordX) (s : State) (F : Fire), Stands s F →
    ∃ (t : State) (l : List Walk), exec (mk w) s = .next t ∧ t.fab.transit = s.fab.transit ∧ (s.wlog = [] → t.mem = s.mem) ∧
      (t.hearth F.hearth).ie = (s.hearth F.hearth).ie ++ l ∧ l.length = F.f.pos.length ∧
      ∀ (k : Nat) (q : FPos), F.f.pos[k]? = some q → ∃ x, l[k]? = some x ∧ x.bind = F.cc.bind ∧ x.ce = F.ce ∧ x.slot = F.slot ∧
        x.iter = q.iter ∧ x.region = w.region.toNat ∧ x.bubble = q.l.isNone ∧ x.parked = false ∧
        x.e0 = (q.l.getD 0).extractLsb' 0 32 ∧ x.e1 = (q.l.getD 0).extractLsb' 32 32 ∧
        ∀ g, g < 4 → x.quad.getD g 0 = BitVec.ofNat 32 (s.param F.hearth F.ce F.ctx (w.pidx.toNat + g) 32)

/-- IE_WALK takes the next walk whole. For IWALK over nondecreasing row pointers it emits, for each element of the range that
exists, the row that holds it and its column index, at the tag base plus the element's number (R271). For IBAL it emits the
element range of participant q of P and the row that holds the range's first element (R272). -/
def Sys2Proof.Claim.IndexEngineWalksAndBalances : Prop :=
  ∀ (s : State) (h : Nat) (w : Walk) (c : Charge) (r : Region) (A : Nat) (u : Nat × Block × BitVec 64) (phys : Phys),
    Walking s h w c r A u → phys.check = .good → w.bubble = false →
    let R := (w.quad.getD 2 0).toNat
    let rp := rowPtr s w A
    let nnz := rp R
    let sent (cap : Nat) (l m : List Emit) : State :=
      (s.sendAll w.bind u.1 w.slot 0 (rawCons u.2.2 0) cap l).sendAll w.bind u.1 w.slot 1 (rawCons u.2.2 1) 32 m
    0 < R → rp 0 = 0 → (∀ k, k < R → rp k ≤ rp (k + 1)) →
    4 * ((w.quad.getD 0 0).toNat + R) + 4 ≤ r.length → 4 * ((w.quad.getD 1 0).toNat + nnz) ≤ r.length →
    (wordOp u.2.2 = 0xBA →
      let e0 := w.e0.toNat
      let n := min w.e1.toNat nnz - e0
      ∃ (t : State) (l m : List Emit), exec (.ieWalk h phys) s = .next t ∧ (t.hearth h).ie = (s.hearth h).ie.erase w ∧
        (s.wlog = [] → t.mem = s.mem) ∧ t.fab.transit = (sent 32 l m).fab.transit ∧ l.length = n ∧ m.length = n ∧
        ∀ i, i < n → ∃ row, row < R ∧ rp row ≤ e0 + i ∧ e0 + i < rp (row + 1) ∧
          (let tag := BitVec.ofNat 24 ((w.quad.getD 3 0).toNat + e0 + i)
           l[i]? = some (Emit.mk tag (some (BitVec.ofNat 128 row))) ∧
           m[i]? = some (Emit.mk tag (some (BitVec.ofNat 128 (colIdx s w A (e0 + i))))))) ∧
    (wordOp u.2.2 = 0xBB →
      let q := w.e0.toNat % 256
      let p := w.e0.toNat / 256 % 256 + 1
      let a := if q < p then q * nnz / p else nnz
      let b := if q < p then (q + 1) * nnz / p else nnz
      ∃ (t : State) (row : Nat), exec (.ieWalk h phys) s = .next t ∧ (t.hearth h).ie = (s.hearth h).ie.erase w ∧
        row < R ∧ rp row ≤ a ∧ (a < rp (row + 1) ∨ row + 1 = R) ∧
        t.fab.transit = (sent 16 [Emit.mk w.iter (some (BitVec.ofNat 128 (a + 2 ^ 32 * b)))]
          [Emit.mk w.iter (some (BitVec.ofNat 128 row))]).fab.transit)

/-- Walks queue at the index engine, which walks and balances (the two parts above).
The model's choices: log entries 3, 46. -/
def Obligations.IndexEngineQueuesWalksAndBalances : Prop :=
  Claim.WalksQueueAtTheEngine ∧ Claim.IndexEngineWalksAndBalances

/-! ## System words (R97 to R103) -/

namespace Sys2Proof.Claim

/-- A position of TRAP or HALT that is live: not BUBBLE, its predicate 1 (R97). -/
def liveSys (w : WordS) (q : FPos) : Bool :=
  q.l.isSome && (w.arity != 3 || (q.p.isSome && ((q.p.getD 0).getLsbD 0 != w.inv)))

/-- The check function of R77, bit by bit. -/
def crcBit (r : BitVec 16) (b : Bool) : BitVec 16 := if r.getMsbD 0 != b then (r <<< 1) ^^^ 0x8BB7 else r <<< 1
def crcOf (l : List Byte) : BitVec 16 :=
  l.foldl (fun r x => (List.range 8).foldl (fun r k => crcBit r (x.getMsbD k)) r) 0

end Sys2Proof.Claim

/-- TRAP with a live position gives its running charge one program-trap fault with the trap record; HALT with one stops its
charge with its code and discards its tokens but for other firings of HALT, and where another started in the same cycle the one of the lower hearth, then
the lower CE, gives the code; with none, both only consume. YIELD passes its run on and leaves the quantum
marked expired exactly while another bind record waits for the charge's hearths (R97, R98, R99).
The model's choices: log entry 17. -/
def Obligations.TrapHaltAndYieldStopOrPass : Prop :=
  ∀ (w : WordS) (s : State) (F : Fire), Stands s F →
    let live := F.f.pos.filter (liveSys w)
    (live = [] → exec (.trap w) s = .next (commit s (taken s F)) ∧ exec (.halt w) s = .next (commit s (taken s F))) ∧
    (∀ q rest, live = q :: rest →
      (F.ch.phase = .running → ∃ t x, exec (.trap w) s = .next t ∧
        (t.charge? F.cc.bind).map (·.faults) = some (F.ch.faults ++ [x]) ∧ x.code = 0x15 ∧ x.frozen = true ∧
        x.bind = F.cc.bind ∧ x.tag = faultTag F.ctx F.tag0 ∧ x.block = F.blk.id ∧ x.slot = F.slot ∧ x.ce = F.ce ∧
        x.detail = [F.blk.id.toNat, F.slot, F.tag0.toNat, F.f.pos.length, w.code.toNat, (q.l.getD 0).toNat] ∧
        t.fab.transit = s.fab.transit) ∧
      (F.ch.haltFrom = none → ∃ t, exec (.halt w) s = .next t ∧ (t.charge? F.cc.bind).map (·.phase) = some (.halting w.code.toNat) ∧
        (∀ x ∈ t.fab.transit, x.bind ≠ F.cc.bind) ∧
        (∀ h e c cc, t.ctx? h e c = some cc → cc.bind = F.cc.bind → cc.entries = [] ∧
          ∀ f ∈ cc.ready, ∀ k, F.ch.block? cc.block = some k → wordOp (k.words.getD f.slot 0) = 0xC1)) ∧
      (∀ h e, F.ch.haltFrom = some (s.cycle, h, e) → ∃ t, exec (.halt w) s = .next t ∧
        ((F.hearth < h ∨ (F.hearth = h ∧ F.ce < e)) → (t.charge? F.cc.bind).map (·.phase) = some (.halting w.code.toNat)) ∧
        (¬(F.hearth < h ∨ (F.hearth = h ∧ F.ce < e)) → (t.charge? F.cc.bind).map (·.phase) = some F.ch.phase))) ∧
    (∃ t, exec (.yield w) s = .next t ∧ (t.bindRec F.cc.bind).expired = s.wanted F.ch ∧
      t.fab.transit = ((taken s F).emitKind F 0 w.cons1 F.f.kind w.fmt.maxRun F.runL).fab.transit)

/-- RDCTL delivers the selected number for each position: the hearth, the context, the module, the cycle, the stove fields of
an argument whose stove the partition can see and all ones for any other, and the completion counter (R102). CKSUM delivers
the check of R77 over the elements' bytes (R103). -/
def Sys2Proof.Claim.ControlReadsAndChecks : Prop :=
  (∀ (w : WordS) (s : State) (F : Fire), Stands s F →
    let sees (n : Nat) : Bool := n < 12 && s.fab.hearths.any fun x => stoveOf x.1 == n && x.2.owner == some F.ch.part
    ∀ k get, (k, get) ∈ ([(0, fun _ => F.hearth), (1, fun _ => F.ctx), (2, fun _ => s.mod.number.toNat),
        (3, fun _ => s.cycle % 2 ^ 64), (4, fun n => if sees n then (s.stove n).stoveBudget.toNat else 0xFFFFFFFF),
        (5, fun n => if sees n then (s.stove n).stackBudget.toNat else 0xFFFFFFFF),
        (6, fun n => if sees n then (s.stove n).ratePoint.toNat else 0xFFFFFFFF),
        (7, fun n => if sees n then (s.stove n).stackState.toNat else 0xFFFFFFFF),
        (8, fun n => if sees n then (s.stove n).hearthEnable.toNat + (if (s.stove n).spareUsed then 0x8000 else 0) else 0xFFFFFFFF),
        (9, fun n => if sees n then s.edgeMask n else 0xFFFFFFFF)] : List (Nat × (Nat → Nat))) → w.code.toNat = k →
      ∃ l, exec (.rdctl w) s = .next (commit s ((taken s F).emitBoth F w.cons1 w.cons2 w.fmt.maxRun l)) ∧
        Each F l fun _ q => (q.iter, q.l.map fun v => BitVec.ofNat 128 (get (v.toNat % 2 ^ 32)))) ∧
  (∀ (w : WordS) (s : State) (F : Fire) (ma : Nat), Stands s F → Quiet s → w.code = 10 →
    s.stokerAddr F.ch.launch.aspace F.ch.launch.record true false = some ma →
    ∃ l, exec (.rdctl w) s = .next (commit s ((taken s F).emitBoth F w.cons1 w.cons2 w.fmt.maxRun l)) ∧
      Each F l fun _ q => (q.iter, q.l.map fun _ => BitVec.ofNat 128 (s.loadHome ma 8))) ∧
  (∀ (w : WordS) (s : State) (F : Fire), Stands s F →
    let bytes (v : Val) : List Byte := (List.range (max 1 (w.fmt.bits / 8))).map fun k => BitVec.ofNat 8 (v.toNat / 256 ^ k)
    exec (.cksum w) s = .next (commit s ((taken s F).emitBoth F w.cons1 w.cons2 1 [Emit.mk F.tag0
      (if F.f.pos.any fun q => q.l.isNone then none
       else some ((crcOf (F.f.pos.flatMap fun q => bytes (q.l.getD 0))).setWidth 128))])))

/-- The words that read flags, control values and checks (the two parts above).
The model's choices: log entries 3, 25. -/
def Obligations.FlagAndControlWordsReadTheirState : Prop :=
  Claim.FlagWordsReadAndClearEntries ∧ Claim.ControlReadsAndChecks

/-- LAUNCH puts the packet at position 0's offset into the queue's next entry, rings its doorbell, and answers 0; it answers 1
for a full queue, 2 for one the tenant cannot use and 3 for a bad offset, with no other effect; into a queue destroyed in the
same cycle it takes the next entry and answers 0 (R340). SPLICE answers 4 for a bad
offset, 1 where a successor is registered already, 2 for a failed check, 3 for another shape, 5 where nothing is free, and
otherwise registers the successor and answers 0 (R100, R101).
The model's choices: log entries 29, 30, 89. -/
def Obligations.LaunchAndSpliceAnswerStatus : Prop :=
  ∀ (w : WordS) (s : State) (F : Fire) (v : Val) (q : FPos) (rest : List FPos), Stands s F → F.f.pos = q :: rest → q.l = some v →
    let off := v.toNat % 2 ^ 64
    let got := (taken s F).packetAt F w.region.toNat off
    let qu := s.queue F.ch.vdev w.queue.toNat
    let answer (n : Nat) (u : State) : State := u.emitOne F 0 w.cons1 F.tag0 (some (BitVec.ofNat 128 n))
    (got = .misplaced → exec (.launch w) s = .next (commit s (answer 3 (taken s F))) ∧
      exec (.splice w) s = .next (commit s (answer 4 (taken s F)))) ∧
    (∀ p, got = .bytes p → Quiet s →
      (qu.state ≠ 1 → qu.destroyed ≠ some s.cycle → exec (.launch w) s = .next (commit s (answer 2 (taken s F)))) ∧
      (qu.state = 1 → 2 ^ qu.lsize ≤ (qu.tail - qu.head).toNat →
        exec (.launch w) s = .next (commit s (answer 1 (taken s F)))) ∧
      (∀ ma, qu.state = 1 → (qu.tail - qu.head).toNat < 2 ^ qu.lsize →
        s.stokerAddr qu.aspace (qu.ring.toNat + 128 * (qu.tail.toNat % 2 ^ qu.lsize)) false true = some ma →
        s.memSide.moves = [] → s.writable ma = true → ma < slotBase → s.wlog = [] → Memory.wf s.mem = true →
        ∃ t, exec (.launch w) s = .next t ∧ (∀ i, i < 128 → after t (ma + i) = p.getD i 0) ∧
          (t.queue F.ch.vdev w.queue.toNat).tail = qu.tail + 1 ∧ (t.queue F.ch.vdev w.queue.toNat).head = qu.head ∧
          t.fab.transit = (answer 0 (taken s F)).fab.transit) ∧
      (qu.state = 0 ∨ qu.state = 3 → qu.destroyed = some s.cycle → ∃ t, exec (.launch w) s = .next t ∧
        (t.queue F.ch.vdev w.queue.toNat).tail = qu.tail + 1 ∧ t.fab.transit = (answer 0 (taken s F)).fab.transit) ∧
      (F.ch.successor ≠ none → exec (.splice w) s = .next (commit s (answer 1 (taken s F)))) ∧
      (F.ch.successor = none → packetCheckOk p = false → exec (.splice w) s = .next (commit s (answer 2 (taken s F)))) ∧
      (∀ img, F.ch.successor = none → packetCheckOk p = true →
        (taken s F).imageBytes (F.launchOf p .empty) = some img →
        (shapeOf img ≠ F.ch.image.shape → exec (.splice w) s = .next (commit s (answer 3 (taken s F)))) ∧
        (shapeOf img = F.ch.image.shape →
          let free := (List.range 16).find? fun k => !((taken s F).ctxHeld 1024 k F.ch.region)
          (free = none ∨ (taken s F).freeRecord = none → exec (.splice w) s = .next (commit s (answer 5 (taken s F)))) ∧
          (∀ k j, free = some k → (taken s F).freeRecord = some j → ∃ t, exec (.splice w) s = .next t ∧
            (t.charge? F.cc.bind).bind (·.successor) = some j ∧ (t.bindRec j).ctx = BitVec.ofNat 4 k ∧
            (t.bindRec j).state = 2 ∧ t.fab.transit = (answer 0 (taken s F)).fab.transit))))

/-! ## Tokens that arrive (R49, R54 to R60, R69, R372) -/

namespace Sys2Proof.Claim

/-- No earlier token of the same producing instruction, through either of its consumers, is in transit to the port of token `k` (R49). -/
def First (s : State) (k : Nat) (t : Token) : Prop :=
  ∀ u ∈ s.fab.transit.take k, ¬(u.src.take 4 = t.src.take 4 ∧ u.bind = t.bind ∧ u.hearth = t.hearth ∧ u.ce = t.ce ∧ u.slot = t.slot ∧
    u.port = t.port)

/-- Token `k` in transit is `t`, may arrive now, and is for context `cc` of charge `c`, which takes tokens in. -/
def Arriving (s : State) (k : Nat) (t : Token) (c : Charge) (cc : CeCtx) (b : Block) : Prop :=
  s.fab.transit[k]? = some t ∧ t.parked = false ∧
  First s k t ∧ s.passes (s.producerHearth t) t.hearth = true ∧ s.charge? t.bind = some c ∧ c.runs = true ∧
  s.ctx? t.hearth t.ce c.ctx = some cc ∧ cc.loaded = true ∧ c.block? cc.block = some b

/-- A run of operands inside one aligned block of 32 tags, for a slot that is neither MERGE, FJOIN nor SCAC; HNDL takes one of a
task (R139). -/
def Operands (t : Token) (b : Block) : Prop :=
  (t.kind = .data ∨ t.kind = .ovf ∨ t.kind = .bubble) ∧ t.vals ≠ [] ∧ t.iter.toNat % 32 + t.vals.length ≤ 32 ∧
  wordOp (b.words.getD t.slot 0) ∉ [0x04, 0x65, 0x93] ∧ (wordOp (b.words.getD t.slot 0) = 0x0B → t.task = true)

/-- What a run of operands holds for its position `i`. -/
def held (k : Kind) (v : Val) : Option Val := if k = .bubble then none else some v

/-- The two sums that tell whether an arriving entry finds room: ways of its set in use, and overflow entries in use. -/
def waysUsed (s : State) (h e c set : Nat) (l : List Entry) : Nat := s.waysElsewhere h e c set + waysOf c set l
def tableUsed (s : State) (h e c : Nat) (l : List Entry) : Nat := s.tableElsewhere h e c + (l.filter (·.inTable)).length

/-- Every token that may arrive leaves the transit: at a closed damper it is discarded and counted (R15); for a charge not yet placed
it waits in the inbox, for a swapped one in the frame's, for one that has exited or is ending it is dropped and counted (R69); for
any other it is taken in by its CE, or by the address generator that a track leads to, whose FIFO takes its positions (R199, R201), a
transient mismatch counted first, or, where its check fails for good, stays parked, its charge taking fault 0x20 (R363, R365). A SCALE for
a context not loaded waits (R67). -/
def ArrivalsTakeTheTokenIn : Prop :=
  ∀ (s : State) (k : Nat) (t : Token), s.fab.transit[k]? = some t → t.parked = false → First s k t →
    let gone := s.setFab { s.fab with transit := s.fab.transit.take k ++ s.fab.transit.drop (k + 1) }
    let placing := (s.bindRec t.bind).state = 1 ∨ (s.bindRec t.bind).state = 2
    (∀ check, s.passes (s.producerHearth t) t.hearth = false →
      exec (.tokenArrival k check) s = .next (commit s (gone.setMod { s.mod with
        damperRej := satAdd s.mod.damperRej (if 64 ≤ t.ce then t.vals.length else 1) }))) ∧
    (s.passes (s.producerHearth t) t.hearth = true →
      (∀ check, s.charge? t.bind = none → placing → ∃ u, exec (.tokenArrival k check) s = .next u ∧
        u.fab = gone.fab ∧ Table.getD u.adm.inbox t.bind [] = Table.getD s.adm.inbox t.bind [] ++ [t]) ∧
      (∀ check, s.charge? t.bind = none → ¬placing → ∃ u, exec (.tokenArrival k check) s = .next u ∧
        u.fab.transit = gone.fab.transit ∧ u.mod.exitedDrop = satAdd s.mod.exitedDrop 1) ∧
      (∀ c check, s.charge? t.bind = some c → (c.phase = .swapping ∨ c.phase = .swapped →
          ∃ u, exec (.tokenArrival k check) s = .next u ∧ u.fab.transit = gone.fab.transit ∧ u.mod.exitedDrop = s.mod.exitedDrop ∧
            (u.charge? t.bind).map (·.inbox) = some (c.inbox ++ [t])) ∧
        (c.phase = .aborting ∨ (∃ n, c.phase = .halting n) → ∃ u, exec (.tokenArrival k check) s = .next u ∧
          u.fab.transit = gone.fab.transit ∧ u.mod.exitedDrop = satAdd s.mod.exitedDrop 1)) ∧
      (∀ c, s.charge? t.bind = some c → c.phase = .running ∨ c.phase = .freezing ∨ c.phase = .frozen →
        64 ≤ t.ce ∨ (∀ cc, s.ctx? t.hearth t.ce c.ctx = some cc → cc.loaded = true ∨ t.kind ≠ .scale) →
        (t.ce < 64 → exec (.tokenArrival k .good) s = .next (commit s (gone.landToken t c)) ∧
          exec (.tokenArrival k .transient) s = .next (commit s ((gone.countTransient (stoveOf t.hearth)).landToken t c))) ∧
        (∀ g, 64 ≤ t.ce → s.chain? (.ag t.hearth (t.ce - 64) t.bind) = some g →
          let fed (v : State) : Prop := v.fab.transit = gone.fab.transit ∧ v.chain? (.ag t.hearth (t.ce - 64) t.bind) =
            some { g with fifo := g.fifo ++ t.vals.map (fun v => if t.kind = .bubble then none else some v) }
          (∃ v, exec (.tokenArrival k .good) s = .next v ∧ fed v ∧ v.mod = s.mod) ∧
          (∃ v, exec (.tokenArrival k .transient) s = .next v ∧ fed v ∧ v.mod = (s.countTransient (stoveOf t.hearth)).mod)) ∧
        (∃ u, exec (.tokenArrival k .lasting) s = .next u ∧ u.fab.transit = { t with parked := true } :: gone.fab.transit ∧
          (c.phase = .running → ∃ x, (u.charge? t.bind).map (·.faults) = some (c.faults ++ [x]) ∧ x.code = 0x20 ∧
            x.tag = faultTag c.ctx t.iter ∧ (t.ce < 64 → x.slot = t.slot) ∧ (64 ≤ t.ce → x.unit = 2)))))

end Sys2Proof.Claim

/-- A run of operands that arrives fires at once where every other required port holds its tags, and otherwise waits in a
way of its set, in the overflow table, or, where neither has room, parked, its charge taking a fault 0x11; a tag already held
at its port gives fault 0x10 (R55 to R59). ABORT ends a running charge, waits for a placed one, and is counted for one that
has ended (R69, R372). Every arrival takes the token in, as its charge's state says. EOS leaves a word once, when every required port holds it and nothing of the word is left (R54).
The model's choices: log entries 15, 23, 73. -/
def Obligations.TokensLandAndMatch : Prop :=
  Claim.ArrivalsTakeTheTokenIn ∧
  (∀ (s : State) (k : Nat) (t : Token) (c : Charge) (cc : CeCtx) (b : Block), Arriving s k t c cc b → Operands t b →
    let rest := s.fab.transit.take k ++ s.fab.transit.drop (k + 1)
    let req := c.required cc.block t.slot
    let set := setOf c.ctx t.slot t.iter
    (req = [t.port] → t.port = .L → (∀ x ∈ cc.entries, x.slot = t.slot → x.kind = .eos) →
      ∃ u cc' f, exec (.tokenArrival k .good) s = .next u ∧ u.fab.transit = rest ∧ u.ctx? t.hearth t.ce c.ctx = some cc' ∧
        cc'.entries = cc.entries ∧ cc'.ready = cc.ready ++ [f] ∧ f.slot = t.slot ∧ f.pos.length = t.vals.length ∧
        ∀ i v, t.vals[i]? = some v → ∃ q, f.pos[i]? = some q ∧ q.iter = t.iter + BitVec.ofNat 24 i ∧ q.l = held t.kind v) ∧
    (req = [.L, .R] → t.port = .L ∨ t.port = .R → ∀ x ∈ cc.entries, x.slot = t.slot → x.kind ≠ .eos → x.port ≠ t.port →
      (x.port = .L ∨ x.port = .R) → x.iter = t.iter → x.vals.length = t.vals.length →
      (∀ y ∈ cc.entries, y.slot = t.slot → y.kind ≠ .eos → y = x) →
      ∃ u cc' f, exec (.tokenArrival k .good) s = .next u ∧ u.fab.transit = rest ∧ u.ctx? t.hearth t.ce c.ctx = some cc' ∧
        cc'.entries = cc.entries.filter (fun y => !(y.slot == t.slot && y.kind != .eos)) ∧ cc'.ready = cc.ready ++ [f] ∧
        f.slot = t.slot ∧ f.pos.length = t.vals.length ∧
        ∀ i v w, t.vals[i]? = some v → x.vals[i]? = some w → ∃ q, f.pos[i]? = some q ∧ q.iter = t.iter + BitVec.ofNat 24 i ∧
          q.l = (if t.port = .L then held t.kind v else held x.kind w) ∧
          q.r = (if t.port = .R then held t.kind v else held x.kind w)) ∧
    ((∃ p ∈ req, p ≠ t.port) → (∀ x ∈ cc.entries, x.slot = t.slot → x.kind = .eos) →
      (waysUsed s t.hearth t.ce c.ctx set cc.entries < s.wayCount t.hearth t.ce ∨
          tableUsed s t.hearth t.ce c.ctx cc.entries < c.image.overflow →
        ∃ u cc' x, exec (.tokenArrival k .good) s = .next u ∧ u.fab.transit = rest ∧ u.ctx? t.hearth t.ce c.ctx = some cc' ∧
          cc'.ready = cc.ready ∧ cc'.entries = cc.entries ++ [x] ∧ x.slot = t.slot ∧ x.port = t.port ∧ x.iter = t.iter ∧
          x.vals.map (held x.kind) = t.vals.map (held t.kind) ∧
          x.inTable = !(decide (waysUsed s t.hearth t.ce c.ctx set cc.entries < s.wayCount t.hearth t.ce))) ∧
      (s.wayCount t.hearth t.ce ≤ waysUsed s t.hearth t.ce c.ctx set cc.entries →
        c.image.overflow ≤ tableUsed s t.hearth t.ce c.ctx cc.entries →
        ∃ u x, exec (.tokenArrival k .good) s = .next u ∧ u.fab.transit = { t with parked := true } :: rest ∧
          u.ctx? t.hearth t.ce c.ctx = some cc ∧ (u.charge? t.bind).map (·.faults) = some (c.faults ++ [x]) ∧ x.code = 0x11 ∧
          x.tag = faultTag c.ctx t.iter)) ∧
    ((∃ x ∈ cc.entries, x.slot = t.slot ∧ x.port = t.port ∧ x.kind ≠ .eos ∧ x.iter = t.iter ∧ x.vals ≠ []) →
      ∃ u x, exec (.tokenArrival k .good) s = .next u ∧ u.fab.transit = { t with parked := true } :: rest ∧
        u.ctx? t.hearth t.ce c.ctx = some cc ∧ (u.charge? t.bind).map (·.faults) = some (c.faults ++ [x]) ∧ x.code = 0x10 ∧
        x.tag = faultTag c.ctx t.iter)) ∧
  (∀ (s : State) (b : Nat),
    (∀ c, s.charge? b = some c → c.phase ∈ [.running, .freezing, .frozen, .swapping, .swapped] →
      ∃ t, exec (.abortTokenArrival b) s = .next t ∧ (t.charge? b).map (·.phase) = some .aborting ∧
        (∀ x ∈ t.fab.transit, x.bind ≠ b) ∧
        ∀ h e i cc, t.ctx? h e i = some cc → cc.bind = b → cc.entries = []) ∧
    (∀ c, s.charge? b = some c → c.phase = .aborting ∨ (∃ n, c.phase = .halting n) →
      exec (.abortTokenArrival b) s = .next (commit s s)) ∧
    (s.charge? b = none → (s.bindRec b).state = 1 ∨ (s.bindRec b).state = 2 → ∃ t x, exec (.abortTokenArrival b) s = .next t ∧
      Table.getD t.adm.inbox b [] = Table.getD s.adm.inbox b [] ++ [x] ∧ x.kind = .abort ∧ x.bind = b) ∧
    (s.charge? b = none → (s.bindRec b).state ≠ 1 → (s.bindRec b).state ≠ 2 →
      exec (.abortTokenArrival b) s = .next (commit s (s.countExited 1)))) ∧
  (∀ (s : State) (h e c slot : Nat) (cc : CeCtx) (ch : Charge) (b : Block) (p : Port) (rest : List Port) (x : Entry),
    s.ctx? h e c = some cc → s.charge? cc.bind = some ch → ch.block? cc.block = some b → ch.runs = true → cc.loaded = true →
    wordOp (b.words.getD slot 0) ∉ [0x07, 0x89, 0x8D] → s.eosReady h e c cc ch b slot = true →
    ch.required cc.block slot = p :: rest → heldEos cc slot p = some x →
    ∃ t cc', exec (.eosPropagate h e c slot) s = .next t ∧ t.ctx? h e c = some cc' ∧
      cc'.entries = cc.entries.filter (fun y => !(y.slot == slot && y.kind == .eos)) ∧
      (let w := b.words.getD slot 0
       t.fab.transit = ((s.sendCons cc.bind cc.block slot 0 (rawCons w 0) .eos x.iter [0]).sendCons cc.bind cc.block slot 1
         (rawCons w 1) .eos x.iter [0]).fab.transit))

/-! ## Chained counters and address generators (R62, R200 to R203) -/

/-- A start pilot starts its chain from iteration 0, or is remembered while the chain runs, up to 255, and past that the
charge takes a pilot fault 0x14. An address generator's next element is the one that its nested counters name, i0 fastest; a
read enters its region's port where that has room, and a write stores the next position of its FIFO at the element's home: in the
scratchpad, in memory, in the context's own part of a peer's window, or in another module. A tile stream reads a READY tile's elements in
order, counts as one read of the tile, and gathers them into runs for its track. A stream that has made its last
access advances its timeline and sends its done pilot to the oldest starter; the chain then stops or reruns (R62, R195, R200 to R202).
The model's choices: log entries 33, 34, 35, 115. -/
def Obligations.StreamsRunTheirPrograms : Prop :=
  (∀ (s : State) (h n b e : Nat) (phys : Phys) (c : Charge) (g : ChainSt) (p : MtProg), s.charge? b = some c → s.chain? (.mt h n b) = some g →
    c.mtAt h n = some p → s.tileOf b h p.tile = some e → c.engines = true → g.running = true → g.parked = false →
    c.mayTry (mtKey h n) = true → phys.check = .good → s.wlog = [] →
    let x := s.tile h e
    let size := tileBytes x.fmt
    let total := 4096 / size
    let at_ := tileAddr h e x g.index
    let it := p.tag0 + BitVec.ofNat 24 ((g.starts - 1) * total + g.index)
    let elem : Iter × Option Val := (it, some (BitVec.ofNat 128 (s.nat at_ size)))
    let joins := joinsRun x.fmt.maxRun g.buffer it elem.2
    let send (u : State) (l : List (Iter × Option Val)) : State :=
      u.deliverTrack b c [1, b, p.track] p.track (bufferRun l) (runWords x.fmt.maxRun)
    let u := if joins then s else send s g.buffer
    let run := (if joins then g.buffer else []) ++ [elem]
    g.index < total → g.index ≠ 0 ∨ (x.state = 2 ∧ x.busy ≠ 63) → s.anyPoison at_ size = false →
    ∃ t, exec (.homeAccess (.mt h n b) phys) s = .next t ∧ t.mem = s.mem ∧
      (t.tile h e).busy = (if g.index = 0 then x.busy + 1 else x.busy) ∧ (t.tile h e).state = x.state ∧
      (g.index + 1 < total → t.chain? (.mt h n b) = some { g with index := g.index + 1, buffer := run } ∧
        t.fab.transit = u.fab.transit) ∧
      (g.index + 1 = total → t.chain? (.mt h n b) = some { g with index := g.index + 1, buffer := [] } ∧
        t.fab.transit = (send u run).fab.transit)) ∧
  (∀ (s : State) (k : Nat) (p : Pilot) (c : Charge) (x : Chain) (g : ChainSt), s.fab.pilots[k]? = some p →
    (∀ q ∈ s.fab.pilots.take k, ¬(q.bind = p.bind ∧ q.hearth = p.hearth ∧ q.ce = p.ce ∧
      (q.route = p.route ∨ s.pilotChain q = s.pilotChain p))) → s.charge? p.bind = some c →
    c.routeChain p.bind p.route = some x → s.passes p.hearth (chainHearth x) = true → s.chain? x = some g → chainBind x = p.bind →
    c.phase = .running →
    let rest := s.fab.pilots.take k ++ s.fab.pilots.drop (k + 1)
    let from_ := g.routes ++ [(p.hearth, p.ce, p.slot)]
    (g.running = false → ∃ t g', exec (.chainStart k) s = .next t ∧ t.fab.pilots = rest ∧ t.chain? x = some g' ∧
      g'.running = true ∧ g'.ended = false ∧ g'.index = 0 ∧ g'.starts = g.starts + 1 ∧ g'.pending = g.pending ∧ g'.routes = from_) ∧
    (g.running = true → g.pending < 255 → ∃ t, exec (.chainStart k) s = .next t ∧ t.fab.pilots = rest ∧
      t.chain? x = some { g with pending := g.pending + 1, routes := from_ }) ∧
    (g.running = true → 255 ≤ g.pending → ∃ t r, exec (.chainStart k) s = .next t ∧ t.fab.pilots = rest ∧ t.chain? x = some g ∧
      (t.charge? p.bind).map (·.faults) = some (c.faults ++ [r]) ∧ r.code = 0x14 ∧ r.detail = [p.route])) ∧
  (∀ (p : AgProg) (k : Nat), ∀ a b : Level, p.levels = [a, b] →
    p.point k = ((p.start : Int) + ((k % a.count : Nat) : Int) * a.estride + ((k / a.count % b.count : Nat) : Int) * b.estride,
      BitVec.ofInt 24 ((p.tag0.toNat : Int) + ((k % a.count : Nat) : Int) * a.tstride +
        ((k / a.count % b.count : Nat) : Int) * b.tstride)) ∧ p.total = a.count * b.count) ∧
  (∀ (s : State) (h n b : Nat) (phys : Phys) (c : Charge) (g : ChainSt) (p : AgProg) (r : Region) (e : Nat),
    s.charge? b = some c → s.chain? (.ag h n b) = some g → c.agAt h n = some p → c.region? p.region = some r →
    c.engines = true → g.running = true → g.parked = false → g.index < p.total → c.mayTry (agKey h n) = true → Calm phys →
    (p.point g.index).1 = (e : Int) → r.inBounds e (elemBytes p.fmt false) = true → s.wlog = [] → Memory.wf s.mem = true →
    let size := elemBytes p.fmt false
    let off := r.base + e * size
    (p.write = false → s.portFull b h p.region 1 = false → ∃ t q, exec (.homeAccess (.ag h n b) phys) s = .next t ∧
      t.mem = s.mem ∧ t.fab.reqs = s.fab.reqs ++ [q] ∧ q.bind = b ∧ q.hearth = h ∧ q.region = p.region ∧ q.elem = e % 2 ^ 64 ∧
      q.iter = (p.point g.index).2 ∧ q.op = .load ∧ q.fmt = p.fmt ∧ q.tagged = p.tagged ∧ q.live = true ∧ q.done = false ∧
      (t.chain? (.ag h n b)).map (·.index) = some (g.index + 1)) ∧
    (∀ v fifo, p.write = true → g.fifo = some v :: fifo →
      let stored (at_ : Nat) (byte : Nat → Byte) : Prop := ∃ t, exec (.homeAccess (.ag h n b) phys) s = .next t ∧
        (∀ a, after t a = if at_ ≤ a ∧ a < at_ + size then byte (a - at_) else s.byte a) ∧
        t.chain? (.ag h n b) = some { g with index := g.index + 1, fifo := fifo }
      let byteOf (i : Nat) : Byte := BitVec.ofNat 8 (v.toNat / 256 ^ i)
      (∀ ma, AtHome s c h r off size false true ma → stored ma byteOf) ∧
      (∀ d w o a, s.place c h r off false true = .ok (.window d w o) → s.passes h d = true → s.windowAddr d c.ctx w o = some a →
        s.windowHeld d c.ctx w o size = false →
        stored a (fun i => if w = 1 then jafByte ((o + i) % 64) (byteOf i) else byteOf i)) ∧
      (∀ m va, s.place c h r off false true = .ok (.remote m va) → m ≠ s.mod.number.toNat → refusalOf phys = none →
        ∃ t, exec (.homeAccess (.ag h n b) phys) s = .next t ∧ (∀ a, after t a = s.byte a) ∧
          t.chain? (.ag h n b) = some { g with index := g.index + 1, fifo := fifo }))) ∧
  (∀ (s : State) (x : Chain) (c : Charge) (g : ChainSt), s.charge? (chainBind x) = some c → s.chain? x = some g →
    c.engines = true → g.running = true →
    ((∀ h e b, x ≠ .mx h e b) → g.ended = true →
      (g.pending = 0 → ∃ t, exec (.chainDone x) s = .next t ∧ t.chain? x = some { g with running := false }) ∧
      (g.pending ≠ 0 → ∃ t g', exec (.chainDone x) s = .next t ∧ t.chain? x = some g' ∧ g'.running = true ∧ g'.index = 0 ∧
        g'.ended = false ∧ g'.pending = g.pending - 1 ∧ g'.starts = g.starts + 1)) ∧
    (∀ h e slot rest cc, g.ended = false → s.streamOver c x g = true → g.routes = (h, e, slot) :: rest →
      s.passes (chainHearth x) h = true → s.ctx? h e c.ctx = some cc →
      ∃ t g' cc', exec (.streamDone x) s = .next t ∧ t.chain? x = some g' ∧ g'.ended = true ∧ g'.routes = rest ∧
        t.ctx? h e c.ctx = some cc' ∧ (∃ l, Table.getD cc'.pdone slot [] = Table.getD cc.pdone slot [] ++ [l]) ∧
        (∀ tl, c.chainTl x ≠ 0xFF → c.timelines[c.chainTl x]? = some tl →
          ((t.charge? (chainBind x)).bind fun d => d.timelines[c.chainTl x]?).map (·.value) = some (tl.value + 1))))

/-! ## Windows and registers (R43, R186, R188, R195, R270, R297, R318, R319, R327, R335, R342, R343) -/

namespace Sys2Proof.Claim

/-- Byte `a` after the bytes `bs` have been written at `at_`. -/
def written (s : State) (at_ : Nat) (bs : List Byte) (a : Nat) : Byte :=
  if at_ ≤ a ∧ a < at_ + bs.length then bs.getD (a - at_) 0 else s.byte a

end Sys2Proof.Claim

/-- Writes of an agent that reaches a hearth's slot take effect at once: a parameter register takes its value, scratchpad bytes
outside tile frames take theirs, a join slot, while no drain of its partition is under way, its fields with the reserved bits dropped, and an injection record becomes a
token in transit or is discarded and counted; any other agent's write is discarded and counted, and changes no byte (R186,
R187, R188, R270). -/
def Sys2Proof.Claim.SlotWritesReachTheirTargets : Prop :=
  (∀ (s : State) (a : Agent) (h ce ctx reg : Nat) (v : BitVec 32), s.wlog = [] → Memory.wf s.mem = true → ce < 48 → ctx < 16 →
    reg < 64 →
    (s.reachesSlot a h = false → exec (.paramWindowWrite a h ce ctx reg v) s = .next (commit s s.countWindow)) ∧
    (s.reachesSlot a h = true → ∃ t, exec (.paramWindowWrite a h ce ctx reg v) s = .next t ∧
      ∀ x, after t x = written s (paramAddr h ce ctx reg) ((List.range 4).map fun k => BitVec.ofNat 8 (v.toNat / 256 ^ k)) x)) ∧
  (∀ (s : State) (a : Agent) (h off : Nat) (bs : List Byte), s.wlog = [] → Memory.wf s.mem = true → h < 168 → bs ≠ [] →
    off + bs.length ≤ 0x800000 →
    let i := Instr.hearthSlotWrite a (slotBase + h * slotSize + off) bs
    (s.reachesSlot a h = false → exec i s = .next (commit s s.countWindow)) ∧
    (s.reachesSlot a h = true → (∀ x ∈ (s.hearth h).tiles, x.2.mapped = false) → ∃ t, exec i s = .next t ∧
      ∀ x, after t x = written s (slotBase + h * slotSize + off) bs x)) ∧
  (∀ (s : State) (a : Agent) (h n : Nat) (bs : List Byte), s.wlog = [] → Memory.wf s.mem = true → n < 65536 → bs.length = 64 →
    let i := Instr.jafWindowWrite a h (64 * n) bs
    (s.reachesSlot a h = false → exec i s = .next (commit s s.countWindow)) ∧
    (s.reachesSlot a h = true → s.jafHeld h (64 * n) 64 = false → ∃ t, exec i s = .next t ∧
      (∀ x, ¬(jafAddr h n ≤ x ∧ x < jafAddr h n + 64) → after t x = s.byte x) ∧
      (∀ k, 20 ≤ k → k < 64 → after t (jafAddr h n + k) = 0) ∧
      t.jslot h n true = if (bs.getD 19 0).getLsbD 7 = true then
          some { key := leNat (bs.take 8), value := leNat ((bs.drop 8).take 8), adds := leNat ((bs.drop 16).take 2) } else none)) ∧
  (∀ (s : State) (a : Agent) (h off : Nat) (bs : List Byte), off % 256 = 0 → off < 0xC0000 → bs.length = 256 →
    let i := Instr.injectionWrite a h off bs
    (s.reachesSlot a h = false → exec i s = .next (commit s s.countWindow)) ∧
    (s.reachesSlot a h = true → ∀ t, s.recordToken h (off / 0x4000) (deviceOf a) bs = some t →
      ∃ u, exec i s = .next u ∧ u.fab.transit = s.fab.transit ++ [t]) ∧
    (s.reachesSlot a h = true → s.recordToken h (off / 0x4000) (deviceOf a) bs = none → exec i s = .next (commit s (s.countInj h))))

/-- The wholesaler's whole write of ACT_LIMIT or of an address-space descriptor sets its fields; a tenant's doorbell sets the
tail of its open queue; a scheduling core's 32-byte store with command 1 or 4 is that command; an agent without the right, or
an offset that holds no register, is counted. A hart's CSRs take what its tenant writes, and JUIVD with the number of the
tenant's device registers its thread (R345). A clear-on-write counter reads 0 after the wholesaler's clear (R4, R43, R297,
R300, R327, R335). -/
def Sys2Proof.Claim.RegisterWritesSetTheirFields : Prop :=
  (∀ (s : State) (bs : List Byte), bs.length = 8 →
    (∃ t, exec (.registerWrite .wholesaler 0xC20 bs) s = .next t ∧ t.mod.actLimit = BitVec.ofNat 32 (leNat bs)) ∧
    (∀ a, a ≠ .wholesaler → exec (.registerWrite a 0xC20 bs) s = .next (commit s s.countWindow))) ∧
  (∀ (s : State) (k : Nat) (bs : List Byte), k < 4096 → bs.length = 16 →
    let v := BitVec.ofNat 128 (leNat bs)
    ∃ t, exec (.registerWrite .wholesaler (0x10000 + 16 * k) bs) s = .next t ∧
      (t.aspace k).partition = v.extractLsb' 120 8 ∧ (t.aspace k).wRoot = v.extractLsb' 77 39 ∧
      (t.aspace k).sRoot = v.extractLsb' 13 51 ∧ (t.aspace k).enable = v.getLsbD 0) ∧
  (∀ (s : State) (v q : Nat) (bs : List Byte), v < 1024 → q < 256 → bs.length = 8 → leNat bs / 2 ^ 56 % 4 = 0 →
    (s.queue v q).state = 1 → ∃ t, exec (.registerWrite (.tenant v) (0x100000 + 8 * (256 * v + q)) bs) s = .next t ∧
      t.queue v q = { s.queue v q with tail := BitVec.ofNat 24 (leNat bs) }) ∧
  (∀ (s : State) (a : Agent) (i : Nat) (bs : List Byte), i < 1024 → bs.length = 32 → writesSlots a = true →
    let w := BitVec.ofNat 256 (leNat bs)
    (w.extractLsb' 118 3 = 1 → exec (.registerWrite a (0x400000 + 32 * i) bs) s = exec (.bindDispatch a i w) s) ∧
    (w.extractLsb' 118 3 = 4 → exec (.registerWrite a (0x400000 + 32 * i) bs) s = exec (.bindTeardown a i w) s)) ∧
  (∀ (s : State) (v k : Nat) (bs : List Byte), v < 1024 → k < 24 → bs.length = 32 →
    let f (o n : Nat) : Nat := leNat ((bs.drop o).take n)
    ∃ t, exec (.registerWrite (.tenant v) (csrBase + 32 * k) bs) s = .next t ∧
      (let h := Table.getD t.firebox.harts k .reset
       let old := Table.getD s.firebox.harts k .reset
       h.juivec = BitVec.ofNat 64 (f 0 8) ∧ h.juirec = BitVec.ofNat 64 (f 8 8) ∧ h.juivd = BitVec.ofNat 64 (f 16 8) ∧ h.x = old.x) ∧
      (f 16 8 = v → (Table.getD t.adm.threads v .reset).registered = true ∧
        (Table.getD t.adm.threads v .reset).juivec = BitVec.ofNat 64 (f 0 8) ∧
        (Table.getD t.adm.threads v .reset).juirec = BitVec.ofNat 64 (f 8 8)) ∧
      ∀ w, w ≠ v → Table.get? t.adm.threads w = Table.get? s.adm.threads w) ∧
  (∀ (s : State) (a : Agent) (o : Nat) (b : Byte), regAt o = none →
    exec (.registerWrite a o [b]) s = .next (commit s s.countWindow)) ∧
  (∀ (s : State) (a : Agent),
    (a = .wholesaler →
      exec (.rcCounterClear a 0xC00) s = .next (commit s (s.setMod { s.mod with damperRej := 0 })) ∧
      exec (.rcCounterClear a 0xC08) s = .next (commit s (s.setMod { s.mod with windowRej := 0 })) ∧
      exec (.rcCounterClear a 0xC10) s = .next (commit s (s.setMod { s.mod with exitedDrop := 0 }))) ∧
    (a ≠ .wholesaler → exec (.rcCounterClear a 0xC00) s = .next (commit s s.countWindow)))

/-- Writes of a hearth's slot and of registers reach their targets (the two parts above).
The model's choices: log entries 32, 33, 64, 65, 96. -/
def Obligations.WindowAndRegisterWritesTakeEffect : Prop :=
  Claim.SlotWritesReachTheirTargets ∧ Claim.RegisterWritesSetTheirFields

/-- The wholesaler sets an ember, and each millisecond halves every ember, here without owners (R318, R319); each microsecond
refills every bucket by its device's rate up to its burst; the oldest deferred request of a controller that still stands is granted its activation, once in an
interval (R342, R343).
The model's choices: log entries 31, 79. -/
def Obligations.EmbersAndBucketsKeepTime : Prop :=
  (∀ (s : State) (f : Nat) (v : Byte), s.wlog = [] → Memory.wf s.mem = true → f < emberEnd - emberBase → s.emberOwner f = 0xFF →
    (∃ t, exec (.emberWrite .wholesaler f v) s = .next t ∧ ∀ a, after t a = if a = emberBase + f then v else s.byte a) ∧
    (∀ a, a ≠ .wholesaler → exec (.emberWrite a f v) s = .next (commit s s))) ∧
  (∀ (s : State), s.wlog = [] → Memory.wf s.mem = true → s.memSide.emberOwner = [] →
    s.mod.emberMs < s.cycle / cyclesPerMs → ∃ t, exec .emberHalve s = .next t ∧ t.mod.emberMs = s.mod.emberMs + 1 ∧
      ∀ a, after t a = if emberBase ≤ a ∧ a < emberEnd then BitVec.ofNat 8 ((s.byte a).toNat / 2) else s.byte a) ∧
  (∀ (s : State), s.mod.bucketUs < s.cycle / cyclesPerUs → ∃ t, exec .bucketRefill s = .next t ∧
    t.mod.bucketUs = s.mod.bucketUs + 1 ∧ ∀ c v, v < 1024 →
      t.bucket c v = min ((s.vdev v).burst.toNat : Int)
        (if Table.get? s.memSide.buckets (bucketKey c v) = none then ((s.vdev v).burst.toNat : Int)
         else s.bucket c v + (s.vdev v).rate.toNat)) ∧
  (∀ (s : State) (c : Nat) (d : Deferred), (s.memSide.deferred.find? fun x => x.controller == c && s.requestStands x.req) = some d →
    d.granted = false →
    Table.getD s.memSide.served c 0 ≠ s.refreshSlot + 1 → ∃ t, exec (.deferredActivation c) s = .next t ∧
      Table.getD t.memSide.served c 0 = s.refreshSlot + 1 ∧ { d with granted := true } ∈ t.memSide.deferred ∧
      t.bucket c d.vdev = max (-((s.vdev d.vdev).burst.toNat : Int)) (s.bucket c d.vdev - 64))

/-! ## Queues, packets and the launch list (R326 to R334, R339) -/

/-- Doorbell commands act on the states they are for: a doorbell moves an open queue's tail, open reads the descriptor or faults
the queue with cause 4, destroy, here of a queue that holds nothing, keeps its pointers and aborts its charges, the queue being in state 3
while one of them is left and in state 0 otherwise, clear reopens a faulted one; a command without the right, or in another state, changes
nothing (R326, R327, R339, R340). -/
def Sys2Proof.Claim.QueueCommandsFollowTheirState : Prop :=
  ∀ (s : State) (a : Agent) (v q : Nat), v < 1024 → q < 256 →
    let x := s.queue v q
    (∀ tl, (s.reachesQueue a v = true → x.state = 1 → ∃ t, exec (.doorbellRing a v q tl) s = .next t ∧
        t.queue v q = { x with tail := tl }) ∧
      (s.reachesQueue a v = false ∨ x.state ≠ 1 → exec (.doorbellRing a v q tl) s = .next (commit s s))) ∧
    (let d := s.bytesHome ((s.vdev v).qtable.toNat + 32 * q) 32
     let f (o n : Nat) : Nat := leNat ((d.drop o).take n)
     (Quiet s → s.mayDevice a v rightBind = true → x.state = 0 → s.anyPoison ((s.vdev v).qtable.toNat + 32 * q) 32 = false →
       (s.descriptorOk v d = true → ∃ t, exec (.queueOpen a v q) s = .next t ∧ (t.queue v q).state = 1 ∧
         (t.queue v q).head = 0 ∧ (t.queue v q).tail = 0 ∧ (t.queue v q).ring = BitVec.ofNat 64 (f 0 8) ∧
         (t.queue v q).lsize = f 8 1 ∧ (t.queue v q).pcap = f 9 1 ∧ (t.queue v q).aspace = f 10 2 % 4096) ∧
       (s.descriptorOk v d = false → ∃ t, exec (.queueOpen a v q) s = .next t ∧ (t.queue v q).state = 2 ∧
         (t.queue v q).cause = 4)) ∧
     (s.mayDevice a v rightBind = false ∨ x.state ≠ 0 → exec (.queueOpen a v q) s = .next (commit s s))) ∧
    (s.mayDevice a v rightBind = true → x.state = 2 → ∃ t, exec (.queueClearFault a v q) s = .next t ∧
      t.queue v q = { x with state := 1, cause := 0 }) ∧
    (s.mayDevice a v rightBind = false ∨ x.state ≠ 2 → exec (.queueClearFault a v q) s = .next (commit s s)) ∧
    (s.reachesQueue a v = true → x.state = 1 ∨ x.state = 2 → s.adm.listed = [] → s.adm.spliced = [] → x.held = [] →
      x.launched = [] → ∃ t, exec (.queueDestroy a v q) s = .next t ∧
        ((∃ y ∈ s.fab.charges, y.2.vdev = v ∧ y.2.queue = q) → (t.queue v q).state = 3) ∧
        ((∀ y ∈ s.fab.charges, ¬(y.2.vdev = v ∧ y.2.queue = q)) → (t.queue v q).state = 0) ∧
        (t.queue v q).head = x.head ∧ (t.queue v q).tail = x.tail ∧
        ∀ b c, s.charge? b = some c → c.vdev = v → c.queue = q → c.phase ∈ [.running, .freezing, .frozen, .swapping, .swapped] →
          (t.charge? b).map (·.phase) = some .aborting) ∧
    (s.reachesQueue a v = false ∨ (x.state ≠ 1 ∧ x.state ≠ 2) → exec (.queueDestroy a v q) s = .next (commit s s))

/-- An open queue with a packet whose tenant may bind reads it: a queue filled past its size faults with cause 3, a ring that
cannot be read with cause 2, a failed check with cause 1, a completion record that cannot be used with cause 5; a good packet
takes its entry and is held, or completes REJECTED for its reason. A held packet stays while a wait of it is not met; one whose waits are
met is marked, and then
listed, with its acceptance number, at the tail of the launch list (R328 to R334). -/
def Sys2Proof.Claim.PacketsAreReadAndListed : Prop :=
  (∀ (s : State) (v q : Nat) (check : Check), v < 1024 → q < 256 →
    let x := s.queue v q
    let faulted (n : BitVec 3) : Prop := ∃ t, exec (.packetRead v q check) s = .next t ∧ (t.queue v q).state = 2 ∧
      (t.queue v q).cause = n ∧ (t.queue v q).head = x.head
    Quiet s → x.state = 1 → x.head ≠ x.tail → s.vdevHolds v rightBind = true →
    let got := s.vread x.aspace (x.ring.toNat + 128 * (x.head.toNat % 2 ^ x.lsize)) 128
    (2 ^ x.lsize < (x.tail - x.head).toNat → faulted 3) ∧
    ((x.tail - x.head).toNat ≤ 2 ^ x.lsize →
      (got = none → faulted 2) ∧
      (∀ p, got = some p →
        (check = .lasting ∨ packetCheckOk p = false → faulted 1) ∧
        (check ≠ .lasting → packetCheckOk p = true →
          let d := Table.get? x.launched x.head.toNat
          let l : Launch := Launch.mk p ((d.map (·.vec)).getD .empty) v q ((d.map (·.aspace)).getD x.aspace) (leNat ((p.drop 0x28).take 8))
          (l.record % 64 ≠ 0 ∨ s.stokerAddr l.aspace l.record false true = none → faulted 5) ∧
          (l.record % 64 = 0 → ∀ ma, s.stokerAddr l.aspace l.record false true = some ma →
            ((packetReject l x.pcap = none → l.isSplice = false → ∃ t h, exec (.packetRead v q check) s = .next t ∧
                (t.queue v q).held = x.held ++ [h] ∧ h.launch = l ∧ h.seq = s.adm.sched.seq + 1 ∧
                h.met = (l.waitCount == 0) ∧ (t.queue v q).head = x.head + 1 ∧ t.adm.sched.seq = s.adm.sched.seq + 1) ∧
             (∀ n, packetReject l x.pcap = some n → s.wlog = [] → Memory.wf s.mem = true → s.memSide.moves = [] →
               s.writable ma = true → s.writable (ma + 8) = true → ma + 64 ≤ slotBase →
               ∃ t, exec (.packetRead v q check) s = .next t ∧ (t.queue v q).held = x.held ∧
                 (t.queue v q).head = x.head + 1 ∧ t.nat ma 8 = (s.nat ma 8 + 1) % 2 ^ 64 ∧
                 t.nat (ma + 8) 4 = statusRejected ∧ t.nat (ma + 12) 4 = n ∧ t.nat (ma + 16) 8 = l.id))))))) ∧
  (∀ (s : State) (v q : Nat) (p : HeldPacket) (rest : List HeldPacket), v < 1024 → q < 256 → Quiet s → (s.queue v q).held = p :: rest →
    (p.met = false → (∀ i, i < p.launch.waitCount → ∃ ma, s.stokerAddr p.launch.aspace (p.launch.wait i).1 true false = some ma ∧
        s.anyPoison ma 8 = false ∧ (p.launch.wait i).2 ≤ s.loadHome ma 8) →
      ∃ t p', exec (.waitReread v q) s = .next t ∧ (t.queue v q).held = p' :: rest ∧ p'.met = true ∧ p'.seq = p.seq ∧
        p'.launch.packet = p.launch.packet) ∧
    (p.met = false → (∃ i, i < p.launch.waitCount ∧ ∀ ma, s.stokerAddr p.launch.aspace (p.launch.wait i).1 true false = some ma →
        s.anyPoison ma 8 = true ∨ s.loadHome ma 8 < (p.launch.wait i).2) → exec (.waitReread v q) s = .next (commit s s)) ∧
    (p.met = true → p.launch.isSplice = false →
      let x := s.adm.sched
      let size := 2 ^ (x.lsize.toNat + 8)
      (x.tail - x.head).toNat < size → s.wlog = [] → Memory.wf s.mem = true → s.memSide.moves = [] →
      let at_ := x.base.toNat * 4096 + 256 * (x.tail.toNat % size)
      s.writable at_ = true → at_ + 256 ≤ slotBase → p.launch.packet.length = 128 →
      ∃ t, exec (.launchListAppend v q) s = .next t ∧ (t.queue v q).held = rest ∧ t.adm.sched.tail = x.tail + 1 ∧
        Table.get? t.adm.listed p.seq.toNat = some p.launch ∧ (∀ i, i < 128 → after t (at_ + i) = p.launch.packet.getD i 0) ∧
        t.nat (at_ + 128) 2 = p.launch.vdev % 65536 ∧ t.nat (at_ + 130) 1 = p.launch.queue % 256 ∧
        t.nat (at_ + 132) 4 = p.seq.toNat))

/-- Queue commands follow the queue's state; packets are read and listed (the two parts above).
The model's choices: log entries 56, 57. -/
def Obligations.QueuesAdmitAndPacketsAreListed : Prop :=
  Claim.QueueCommandsFollowTheirState ∧ Claim.PacketsAreReadAndListed

/-! ## Bind records, load, splice, swap and the end of a launch (R67, R68, R93, R98, R332, R335 to R340, R347, R370, R371) -/

namespace Sys2Proof.Claim

/-- What a completion of launch `l` leaves in its record at `ma`: the count raised by one, the status, the detail and the
launch's number (R332). -/
def completed (s t : State) (l : Launch) (ma status detail : Nat) : Prop :=
  t.nat ma 8 = (s.nat ma 8 + 1) % 2 ^ 64 ∧ t.nat (ma + 8) 4 = status % 2 ^ 32 ∧ t.nat (ma + 12) 4 = detail % 2 ^ 32 ∧
  t.nat (ma + 16) 8 = l.id

/-- The completion record of `l` is at `ma` and can be written. -/
def RecordAt (s : State) (l : Launch) (ma : Nat) : Prop :=
  Quiet s ∧ l.record % 64 = 0 ∧ s.stokerAddr l.aspace l.record false true = some ma ∧ ma + 64 ≤ slotBase ∧ s.writable ma = true ∧ s.writable (ma + 8) = true ∧
  s.memSide.moves = [] ∧ s.wlog = [] ∧ Memory.wf s.mem = true

end Sys2Proof.Claim

/-- Only the scheduling cores write bind records. Dispatch requests a listed launch at a free or completed record, or completes it REJECTED:
with reason 7 for share 0, else 8 where a bound charge holds the context number on a hearth of its region, else 9 where its address space is
refused; pre-empt marks a charge, running or frozen, that may be pre-empted, teardown cancels a launch not yet bound or aborts its charge; a quantum
expires its microseconds after the last dispatch or resume, and an expired charge that is wanted is pre-empted (R335, R336, R337, R340).
The model's choices: log entry 58. -/
def Obligations.BindCommandsMoveTheRecord : Prop :=
  (∀ (s : State) (a : Agent) (i p : Nat) (w : BitVec 256), writesSlots a = false →
    exec (.bindDispatch a i w) s = .next (commit s s.countWindow) ∧ exec (.bindPreempt a i w) s = .next (commit s s.countWindow) ∧
    exec (.bindResume a i p w) s = .next (commit s s.countWindow) ∧ exec (.bindTeardown a i w) s = .next (commit s s.countWindow)) ∧
  (∀ (s : State) (a : Agent) (i : Nat) (w : BitVec 256), writesSlots a = true →
    let r := s.bindRec i
    (∀ l, r.state = 0 ∨ r.state = 6 → s.charge? i = none →
      let n := leNat (s.bytesHome ((w.extractLsb' 192 64).toNat + 132) 4)
      Table.get? s.adm.listed n = some l → s.recordOf n = none → w.extractLsb' 150 8 ≠ 0 →
      s.fab.charges = [] → s.adm.spliced = [] → s.requested = [] → Quiet s → s.aspaceRefused (w.extractLsb' 180 12).toNat = false →
      ∃ t, exec (.bindDispatch a i w) s = .next t ∧ (t.bindRec i).state = 1 ∧ (t.bindRec i).launch = some n ∧
        (t.bindRec i).since = s.cycle ∧ (t.bindRec i).entry = w.extractLsb' 192 64 ∧ (t.bindRec i).aspace = w.extractLsb' 180 12 ∧
        (t.bindRec i).vdev = w.extractLsb' 170 10 ∧ (t.bindRec i).origin = w.extractLsb' 162 8 ∧
        (t.bindRec i).ctx = w.extractLsb' 158 4 ∧ (t.bindRec i).share = w.extractLsb' 150 8 ∧
        (t.bindRec i).quantum = w.extractLsb' 126 24 ∧ (t.bindRec i).priority = w.extractLsb' 123 3 ∧
        (t.bindRec i).preempt = w.getLsbD 122) ∧
    (∀ l ma, r.state = 0 ∨ r.state = 6 → s.charge? i = none →
      let n := leNat (s.bytesHome ((w.extractLsb' 192 64).toNat + 132) 4)
      let rejected (k : Nat) : Prop := ∃ t, exec (.bindDispatch a i w) s = .next t ∧ (t.bindRec i).state = 6 ∧
        completed s t l ma statusRejected k
      Table.get? s.adm.listed n = some l → s.recordOf n = none → RecordAt s l ma → Table.getD s.adm.inbox i [] = [] →
      (w.extractLsb' 150 8 = 0 → rejected 7) ∧
      (∀ b c h region, w.extractLsb' 150 8 ≠ 0 → s.regionOfLaunch l (w.extractLsb' 162 8).toNat = some region →
        (b, c) ∈ s.fab.charges → b ≠ i → c.ctx = (w.extractLsb' 158 4).toNat → c.phase ≠ .swapping → c.phase ≠ .swapped →
        h ∈ c.region → h ∈ region → rejected 8) ∧
      (w.extractLsb' 150 8 ≠ 0 → s.fab.charges = [] → s.adm.spliced = [] → s.requested = [] →
        s.aspaceRefused (w.extractLsb' 180 12).toNat = true → rejected 9)) ∧
    (∀ c, s.charge? i = some c → r.state = 3 ∨ r.state = 4 → c.phase ∈ [.running, .freezing, .frozen] → (s.storedBind i w).preempt = true →
      ∃ t, exec (.bindPreempt a i w) s = .next t ∧ (t.charge? i).map (·.preempting) = some true) ∧
    (∀ c, s.charge? i = some c → r.state ∈ [3, 4, 5] → c.phase ∈ [.running, .freezing, .frozen, .swapping, .swapped] →
      ∃ t, exec (.bindTeardown a i w) s = .next t ∧ (t.charge? i).map (·.phase) = some .aborting) ∧
    (∀ l ma, r.state = 1 → s.launchOf i = some l → RecordAt s l ma → s.fab.charges = [] → Table.getD s.adm.inbox i [] = [] →
      ∃ t, exec (.bindTeardown a i w) s = .next t ∧ (t.bindRec i).state = 6 ∧ completed s t l ma statusCancelled 0)) ∧
  (∀ (s : State) (i : Nat) (c : Charge), s.charge? i = some c → (s.bindRec i).state = 3 →
    ((s.bindRec i).quantum ≠ 0 → (s.bindRec i).expired = false →
      (s.bindRec i).since + (s.bindRec i).quantum.toNat * cyclesPerUs ≤ s.cycle → ∃ t, exec (.quantumExpire i) s = .next t ∧
        t.bindRec i = { s.bindRec i with expired := true }) ∧
    ((s.bindRec i).preempt = true → (s.bindRec i).expired = true → c.preempting = false → s.wanted c = true →
      c.phase = .running → ∃ t, exec (.selfPreempt i) s = .next t ∧ (t.charge? i).map (·.preempting) = some true))

/-- A load ends refused or rejected, with its completion record written, or binds its charge: placed on its region, running,
its record bound; where a walk fault keeps it from its tables the charge is bound and freezes before its first firing, and
goes on with its load once they can be read (R305). A successor's words are placed in a CE that its predecessor has left. A launch completes DONE at its
completion point, HALTED or ABORTED once a stopped charge has nothing in progress; its record is completed and its charge
gone, and with the last charge of a queue that is being destroyed the queue is in state 0 (R339). A charge without progress for its partition's time takes a hang fault (R67, R68, R93, R98, R332, R336, R347).
The model's choices: log entries 19, 20, 58, 59, 75. -/
def Obligations.LaunchesLoadAndComplete : Prop :=
  (∀ (s : State) (i p : Nat) (l : Launch), Quiet s → s.loadsCharges = true → s.charge? i = none → s.launchOf i = some l →
    Table.getD s.adm.inbox i [] = [] →
    let slots := (s.fab.charges.find? fun e => e.2.successor == some i).isNone
    let bound (x : Loaded) (t : State) (c : Charge) : Prop := t.charge? i = some c ∧ c.phase = .running ∧ c.region = x.region ∧
      c.image = x.image ∧ c.packet = l.packet ∧ c.ctx = (s.bindRec i).ctx.toNat ∧ (t.bindRec i).state = 3
    (∀ ma, RecordAt s l ma →
      (∀ r, s.checkLoad i p l slots = .refused r → ∃ t, exec (.chargeLoad i p) s = .next t ∧
        (t.bindRec i).state = 6 ∧ completed s t l ma statusRefused 0 ∧ t.nat (ma + 24) 8 = r.field % 2 ^ 64) ∧
      (∀ n, s.checkLoad i p l slots = .rejected n → ∃ t, exec (.chargeLoad i p) s = .next t ∧
        (t.bindRec i).state = 6 ∧ completed s t l ma statusRejected n)) ∧
    (∀ x, s.checkLoad i p l slots = .good x →
      ∃ t c, exec (.chargeLoad i p) s = .next t ∧ bound x t c ∧ c.loading = false ∧ c.faults = []) ∧
    (∀ x f, s.checkLoad i p l slots = .stalled x f →
      ∃ t c r, exec (.chargeLoad i p) s = .next t ∧ bound x t c ∧ c.loading = true ∧ c.faults = [r] ∧ r.code = f.1 ∧
        r.stageW = f.2.1 ∧ r.address = BitVec.ofNat 64 f.2.2)) ∧
  (∀ (s : State) (i p : Nat) (c : Charge) (x : Loaded), Quiet s → s.loadsCharges = true → s.charge? i = some c → c.loading = true →
    c.phase = .running → c.faults = [] → c.preempting = false → s.checkLaunch c.launch c.image c.region = .good x →
    ∃ t d, exec (.chargeLoad i p) s = .next t ∧ t.charge? i = some d ∧ d.loading = false ∧ d.bindings = x.bindings) ∧
  (∀ (s : State) (b h e : Nat) (c : Charge) (cc : CeCtx) (k : Block), s.charge? b = some c → s.ctx? h e c.ctx = some cc →
    cc.loaded = false → c.predecessor = none → c.runs = true → c.block? cc.block = some k →
    (∃ u, s.placePart c.ctx h e cc.part k cc = some u) →
    ∃ t cc', exec (.spliceSuccessorLoad b h e) s = .next t ∧ t.ctx? h e c.ctx = some cc' ∧ cc'.loaded = true) ∧
  (∀ (s : State) (b : Nat) (c : Charge) (ma status detail : Nat), s.charge? b = some c → RecordAt s c.launch ma →
    (c.phase = .running ∧ c.runs = true ∧ c.repairing = false ∧ c.bubbles = [] ∧ s.sinksDone b c = true ∧ c.acks = 0 ∧
        s.enginesDone b c = true ∧ status = statusDone ∧ detail = 0) ∨
      (c.phase = .halting detail ∧ s.stopDone b c = true ∧ s.haltsNow c = false ∧ status = statusHalted) ∨
      (c.phase = .aborting ∧ s.stopDone b c = true ∧ status = statusAborted ∧ detail = 0) →
    Table.get? (Table.erase s.fab.charges b) b = none →
    (let ring := s.adm.ctxPool.base.toNat * 4096
     ma + 40 ≤ ring ∨ ring + 8 * s.adm.ctxPool.ring ≤ ma) →
    ∃ t, exec (.launchComplete b) s = .next t ∧ t.charge? b = none ∧ (t.bindRec b).state = 6 ∧
      completed s t c.launch ma status detail ∧
      ((s.queue c.vdev c.queue).state = 3 → c.queue < 256 →
        (∀ x ∈ s.fab.charges, x.1 ≠ b → ¬(x.2.vdev = c.vdev ∧ x.2.queue = c.queue)) →
        (t.queue c.vdev c.queue).state = 0)) ∧
  (∀ (s : State) (b : Nat) (c : Charge), s.charge? b = some c → (s.part c.part).hang ≠ 0 → c.runs = true → c.phase = .running →
    c.lastActive + min (s.part c.part).hang.toNat 1000000 * cyclesPerUs ≤ s.cycle → s.anyOutstanding b c = false →
    s.hasTokens b = true → ∃ t r, exec (.hangDetect b) s = .next t ∧
      (t.charge? b).map (·.faults) = some (c.faults ++ [r]) ∧ r.code = 0x17)

/-- A frozen charge that is to be pre-empted moves to free shadow storage, its contexts saved and its tokens in its inbox; its
frame is then written, and its record names it; a resume that finds its units puts it back, running where it has no hold and
frozen otherwise (R368, R370, R371).
The model's choices: log entries 60, 61. -/
def Obligations.SwapsSaveAndRestoreACharge : Prop :=
  (∀ (s : State) (i : Nat) (c : Charge), s.charge? i = some c → c.phase = .frozen → c.preempting = true →
    (∀ h ∈ c.region, (s.hearth h).shadow = none ∧ Table.get? s.fab.hearths h ≠ none) →
    ∃ t c', exec (.shadowSwap i) s = .next t ∧ t.charge? i = some c' ∧ c'.phase = .swapping ∧
      (∀ h ∈ c.region, (t.hearth h).shadow = some i) ∧ (∀ x ∈ t.fab.transit, x.bind ≠ i) ∧
      (∀ x ∈ t.fab.ctxs, x.2.bind ≠ i) ∧
      (∀ x ∈ s.fab.ctxs, x.2.bind = i → (c.shapeOf (x.1 / 768), x.1 / 16 % 48, x.2) ∈ c'.saved) ∧
      c'.inbox = c.inbox ++ (s.fab.transit.filter fun x => x.bind == i).map fun x => { x with parked := false }) ∧
  (∀ (s : State) (i : Nat) (c : Charge), s.charge? i = some c → c.phase = .swapping → s.wlog = [] → Memory.wf s.mem = true →
    Quiet s → c.ctxFrames ≠ [] → c.image.shape.length ≤ 168 → s.memSide.moves = [] → s.writable c.frameMa = true → c.frameMa + 4096 ≤ slotBase →
    (∀ x, 4096 ≤ x → x < c.image.recordAt c.image.shape.length →
      ¬(c.frameMa ≤ c.frameAt x ∧ c.frameAt x < c.frameMa + 4096)) →
    (∀ k, k < c.image.shape.length → ((s.saveTiles i c).recordBytes k).length ≤ c.image.recordLength k) →
    ∃ t c', exec (.contextFrameWriteDone i) s = .next t ∧ t.charge? i = some c' ∧ c'.phase = .swapped ∧ c'.preempting = false ∧
      (t.bindRec i).state = 5 ∧ (t.bindRec i).entry = BitVec.ofNat 64 c.frameMa ∧
      (∀ h ∈ c.region, Table.get? s.fab.hearths h ≠ none → (t.hearth h).shadow = none) ∧
      t.nat (c.frameMa + 24) 8 = c.listEntry.toNat ∧ t.nat c.frameMa 4 = 0x4A4B4346 ∧ t.nat (c.frameMa + 4) 2 = 1 ∧ t.nat (c.frameMa + 6) 1 = c.ctx % 256 ∧
      t.nat (c.frameMa + 8) 2 = c.region.length % 65536 ∧ t.nat (c.frameMa + 12) 4 = c.inbox.length % 2 ^ 32 ∧
      t.nat (c.frameMa + 10) 2 = c.bubbles.length % 65536 ∧ t.nat (c.frameMa + 32) 4 = (c.holds + c.bubbleHolds) % 2 ^ 32 ∧
      t.nat (c.frameMa + 36) 4 = c.pass % 2 ^ 32) ∧
  (∀ (s : State) (a : Agent) (i p : Nat) (w : BitVec 256) (c : Charge) (region : List Nat), writesSlots a = true →
    s.charge? i = some c → (s.bindRec i).state = 5 → regionAt (w.extractLsb' 162 8).toNat c.image.shape = some region →
    let r := { s.storedBind i w with ctx := (s.bindRec i).ctx, aspace := (s.bindRec i).aspace, vdev := (s.bindRec i).vdev }
    (s.putBind i r).regionFits c region = true →
    (∀ h, (s.putBind i r).restoreOn i p c region = .error h → ∃ t, exec (.bindResume a i p w) s = .next t ∧
      (t.bindRec i).state = 5 ∧ t.charge? i = some c) ∧
    (∀ u, (s.putBind i r).restoreOn i p c region = .ok u → ∃ t c', exec (.bindResume a i p w) s = .next t ∧
      t.charge? i = some c' ∧ c'.region = region ∧
      (c.holds = 0 ∧ c.bubbleHolds = 0 → c'.phase = .running ∧ (t.bindRec i).state = 3) ∧
      (¬(c.holds = 0 ∧ c.bubbleHolds = 0) → c'.phase = .frozen ∧ (t.bindRec i).state = 4)))

/-! ## Faults (R42, R348 to R362, R367) -/

/-- A running charge with a fault, or to be pre-empted, freezes; once nothing of it is in progress it is frozen, its record's
state is 4, and the first of its faults waits at its ring with a hold (R349, R355, R356). A waiting record is written whole to
its ring's next entry and stays held (R350, R351). -/
def Sys2Proof.Claim.FaultsFreezeAndArePosted : Prop :=
  (∀ (s : State) (b : Nat) (c : Charge), s.charge? b = some c →
    (c.phase = .running → (c.faults ≠ [] ∨ c.preempting = true) → ∃ t, exec (.freezeStart b) s = .next t ∧
      t.charge? b = some { c with phase := .freezing }) ∧
    (c.phase = .freezing → s.frontReached b c = true →
      (c.faults = [] → ∃ t, exec (.freezeComplete b) s = .next t ∧ t.charge? b = some { c with phase := .frozen } ∧
        (t.bindRec b).state = 4) ∧
      (∀ r rest, c.faults = r :: rest → (∀ x ∈ rest, x.cycle = r.cycle → r.hearth ≤ x.hearth) →
        ∃ t x, exec (.freezeComplete b) s = .next t ∧ (t.bindRec b).state = 4 ∧
          t.charge? b = some { c with phase := .frozen, faults := [], holds := c.holds + 1 } ∧
          x = { r with frozen := true, more := !rest.isEmpty } ∧
          (t.ring (ringOf x)).waiting = (s.ring (ringOf x)).waiting ++ [x]))) ∧
  (∀ (s : State) (n : Nat) (r : FaultRec) (rest : List FaultRec), (s.ring n).waiting = r :: rest → (s.ring n).base ≠ 0 →
    (s.ring n).lsize.toNat ≤ 10 →
    let g := s.ring n
    let size := 2 ^ (g.lsize.toNat + 6)
    (g.tail - g.head).toNat < size → Quiet s → s.wlog = [] → Memory.wf s.mem = true → s.memSide.moves = [] →
    let at_ := g.base.toNat + 64 * (g.tail.toNat % size)
    s.writable at_ = true → at_ + 64 ≤ slotBase →
    ∃ t, exec (.faultRecordPost n) s = .next t ∧ (t.ring n).tail = g.tail + 1 ∧ (t.ring n).nextSeq = g.nextSeq + 1 ∧
      (t.ring n).waiting = rest ∧ (t.ring n).irq = true ∧
      ((r.frozen || r.bubbled) = true → r.ended = false → (t.ring n).holding = g.holding ++ [(g.nextSeq, r)]) ∧
      t.nat at_ 4 = g.nextSeq.toNat ∧ t.nat (at_ + 4) 1 = r.code % 256 ∧
      (after t (at_ + 5)).getLsbD 0 = r.stageW ∧ (after t (at_ + 5)).getLsbD 1 = r.frozen ∧
      (after t (at_ + 5)).getLsbD 2 = r.remote ∧ (after t (at_ + 5)).getLsbD 3 = r.bubbled ∧ (after t (at_ + 5)).getLsbD 4 = r.more ∧
      t.nat (at_ + 6) 1 = r.partition % 256 ∧ t.nat (at_ + 8) 2 = r.vdev % 65536 ∧
      t.nat (at_ + 10) 2 = (if r.bind < 1024 then r.bind else 0xFFFF) ∧ t.nat (at_ + 12) 4 = r.tag.toNat ∧
      t.nat (at_ + 16) 8 = r.launchId.toNat ∧ t.nat (at_ + 24) 8 = r.address.toNat ∧ t.nat (at_ + 32) 4 = r.block.toNat ∧
      t.nat (at_ + 36) 1 = r.slot % 256 ∧ t.nat (at_ + 37) 1 = r.ce % 256 ∧ t.nat (at_ + 38) 1 = r.shape % 256 ∧
      t.nat (at_ + 39) 1 = r.unit % 256 ∧ t.nat (at_ + 40) 16 =
        (if r.detail = [] ∨ r.code ∉ [0x10, 0x11, 0x12, 0x13, 0x14, 0x15, 0x16, 0x17, 0x1A, 0x21, 0x24, 0x25, 0x26] then 0
         else (Config.faultDetail r.code r.detail).toNat))

/-- An owner's action on a held record: resume releases its hold, and the charge runs again, its parked tokens and requests
released, when none is left; forward of a tenant-visible record posts to the device's registered thread, with vector 0xFF, or
counts a loss where it has none; abort ends the charge. An action on no held record, or by another agent, changes nothing, and
neither does a forward of another class or from a ring above 167 (R346, R352, R353, R372). -/
def Sys2Proof.Claim.FaultActionsResolveRecords : Prop :=
  ∀ (s : State) (a : Agent) (n : Nat) (q : BitVec 32),
    (s.heldRecord a n q = none → exec (.faultResume a n q) s = .next (commit s s) ∧
      exec (.faultForward a n q) s = .next (commit s s) ∧ exec (.faultAbort a n q) s = .next (commit s s)) ∧
    (∀ r c, s.heldRecord a n q = some r → s.charge? r.bind = some c →
      let one := if r.bubbled then c.holds = 0 ∧ c.bubbleHolds = 1 else c.holds = 1 ∧ c.bubbleHolds = 0
      (c.phase = .frozen → c.preempting = false → one → ∃ t c', exec (.faultResume a n q) s = .next t ∧
        t.charge? r.bind = some c' ∧ c'.phase = .running ∧ c'.faults = [] ∧ c'.holds = 0 ∧ c'.bubbleHolds = 0 ∧
        (t.bindRec r.bind).state = 3 ∧ (∀ x ∈ (t.ring n).holding, x.1 ≠ q) ∧
        t.fab.transit = s.fab.transit.map (fun x => if x.bind = r.bind then { x with parked := false } else x) ∧
        t.fab.reqs = s.fab.reqs.map (fun x => if x.bind = r.bind then { x with parked := false } else x)) ∧
      (c.phase = .frozen → 1 < c.holds → r.bubbled = false → ∃ t fs, exec (.faultResume a n q) s = .next t ∧
        t.charge? r.bind = some { c with holds := c.holds - 1, extFrames := fs }) ∧
      (c.phase ∈ [.running, .freezing, .frozen, .swapping, .swapped] → ∃ t, exec (.faultAbort a n q) s = .next t ∧ (t.charge? r.bind).map (·.phase) = some .aborting)) ∧
    (∀ r, s.heldRecord a n q = some r →
      let visible := r.remote = true ∨ r.code = 0x07 ∨ (0x10 ≤ r.code ∧ r.code ≤ 0x1A) ∨ r.code = 0x20
      (167 < n ∨ ¬visible → exec (.faultForward a n q) s = .next (commit s s)) ∧
      (n ≤ 167 → visible →
        (∃ t, exec (.faultForward a n q) s = .next t ∧ t.fab = s.fab) ∧
        (s.thread? r.vdev = none → ∃ t, exec (.faultForward a n q) s = .next t ∧
          (Table.getD t.adm.uintLost r.vdev 0).toNat = min ((Table.getD s.adm.uintLost r.vdev 0).toNat + 1) (2 ^ 64 - 1)) ∧
        (∀ th ma wr, s.thread? r.vdev = some th → Record s th ma wr → unread s ma wr < 63 →
          ∃ t, exec (.faultForward a n q) s = .next t ∧
            Posted t r.vdev th ma wr 0xFF 0x80000000 ((q.toNat + n * 2 ^ 32) % 2 ^ 64) r.launchId.toNat)))

/-- Faults freeze their charge, are posted, and are resolved by actions (the two parts above).
The model's choices: log entries 17, 49, 51, 53, 92. -/
def Obligations.FaultsFreezeArePostedAndResolved : Prop :=
  Claim.FaultsFreezeAndArePosted ∧ Claim.FaultActionsResolveRecords

namespace Sys2Proof.Claim

/-- The index that a header gave iter `it` (R359): of the trip started last whose issued tags include it, the largest issued index of that
tag. -/
def TripGave (log : List TripLog) (it : Iter) (j : BitVec 32) : Prop :=
  ∃ (k n : Nat) (r : TripLog), log[k]? = some r ∧ j = BitVec.ofNat 32 n ∧ n < r.issued ∧ r.first + BitVec.ofNat 24 n = it ∧
    (∀ m, n < m → m < r.issued → r.first + BitVec.ofNat 24 m ≠ it) ∧
    ∀ l x, k < l → log[l]? = some x → ∀ m, m < x.issued → x.first + BitVec.ofNat 24 m ≠ it

/-- What a repair pass leaves to the loop headers of charge `c` (R359): each has the iters to issue again that the bubble list names for its
block and its trip log covers, each once, ascending, with its index; the others stay in the bubble list. -/
def Reissued (s t : State) (c c' : Charge) : Prop :=
  ∀ blk ∈ c.image.blocks, ∀ cc, s.ctx? (c.region.getD blk.shape 0) blk.loopCe c.ctx = some cc →
    blk.loopSlot < blk.words.length →
    ∃ cc', t.ctx? (c.region.getD blk.shape 0) blk.loopCe c.ctx = some cc' ∧
      (cc'.loop.reissue.map fun x => x.1.toNat).Pairwise (· < ·) ∧
      (∀ it j, (it, j) ∈ cc'.loop.reissue ↔ (∃ x ∈ c.bubbles, x.block = blk.id ∧ x.iter = it) ∧ TripGave cc.loop.log it j) ∧
      (∀ x ∈ c.bubbles, x.block = blk.id → (x ∈ c'.bubbles ↔ ∀ j, ¬TripGave cc.loop.log x.iter j))

end Sys2Proof.Claim

/-- At its completion point a charge with bubbles and no bubble hold starts a repair pass: each loop header has the iterations to issue again
that its trip log covers; it freezes with a bubble-unrepaired fault for a block without a header, and after a fourth pass that
leaves bubbles (R358 to R362). An uncorrectable error ends at most the owner its place names and posts a hardware record: for a
line of the firebox cores nobody where it is clean, or holds wholesaler data, which its mirror then gives; else the partition or
the device that wrote it last (R42, R366, R367). A repair in service takes rows, ways or a bank out of use (R40).
The model's choices: log entries 52, 54, 67, 100. -/
def Obligations.RepairsAndErrorsAreContained : Prop :=
  (∀ (s : State) (b : Nat) (c : Charge), s.charge? b = some c → c.runs = true →
    (c.repairing = false → c.bubbles ≠ [] → c.bubbleHolds = 0 → s.sinksDone b c = true → c.acks = 0 → s.enginesDone b c = true →
      (c.headless = false → ∃ t c', exec (.repairPass b) s = .next t ∧ t.charge? b = some c' ∧ c'.repairing = true ∧
        c'.pass = c.pass + 1 ∧ c'.bubbled = [] ∧ (∀ x ∈ c'.bubbles, x ∈ c.bubbles) ∧
        ((c.image.blocks.map fun x => ctxKey (c.region.getD x.shape 0) x.loopCe c.ctx).Nodup → (c.image.blocks.map Block.id).Nodup →
          Reissued s t c c')) ∧
      (c.headless = true → c.unrepaired = false → ∃ t r, exec (.repairPass b) s = .next t ∧
        (t.charge? b).map (·.faults) = some (c.faults ++ [r]) ∧ r.code = 0x1A)) ∧
    (c.repairing = true → (∀ x ∈ s.fab.ctxs, x.2.bind = b → x.2.loop.out = 0 ∧ x.2.loop.reissue = []) → c.acks = 0 →
      (c.bubbles = [] ∨ c.pass < 4 → ∃ t, exec (.repairPassEnd b) s = .next t ∧ t.charge? b = some { c with repairing := false }) ∧
      (c.bubbles ≠ [] → 4 ≤ c.pass → ∃ t r, exec (.repairPassEnd b) s = .next t ∧
        (t.charge? b).map (·.faults) = some (c.faults ++ [r]) ∧ r.code = 0x1A))) ∧
  (∀ (s : State),
    let posted (t : State) : Prop := ∃ l r, (t.ring 255).waiting = l ++ [r] ∧ l.length = (s.ring 255).waiting.length ∧ r.code = 0x21
    let live : List Phase := [.running, .freezing, .frozen, .swapping, .swapped]
    ((s.ring 255).waiting.filter fun x => !(x.frozen || x.bubbled)).length < 64 →
    (∀ a, (tierOf a).isSome = true → ∃ t, exec (.uncorrectableError (.beat a)) s = .next t ∧ posted t ∧ t.poisoned a = true ∧
      t.fab = s.fab) ∧
    (∀ i c, s.charge? i = some c → c.phase = .running → ∃ t,
      exec (.uncorrectableError (.ofCharge i)) s = .next t ∧ posted t ∧ (t.charge? i).map (·.phase) = some .aborting ∧
      ∀ j d, j ≠ i → s.charge? j = some d → (t.charge? j).map (·.phase) = some d.phase) ∧
    (∀ line, (Table.get? s.firebox.lines line).bind FireLine.dirty = none → ∃ t,
      exec (.uncorrectableError (.firebox line)) s = .next t ∧ posted t ∧ t.fab = s.fab ∧ (s.wlog = [] → t.mem = s.mem)) ∧
    (∀ line x, Table.get? s.firebox.lines line = some x → x.dirty = some .hs → s.wlog = [] → Memory.wf s.mem = true →
      s.memSide.moves = [] → s.writable (256 * line) = true → 256 * line + 256 ≤ slotBase → x.mirror.length = 256 → Quiet s → ∃ t,
      exec (.uncorrectableError (.firebox line)) s = .next t ∧ posted t ∧ t.fab = s.fab ∧
      ∀ i, i < 256 → after t (256 * line + i) = x.mirror.getD i 0) ∧
    (∀ line x, Table.get? s.firebox.lines line = some x → (∀ e ∈ s.fab.charges, s.charge? e.1 = some e.2) →
      (∀ v, x.dirty = some (.vu v) → ∃ t, exec (.uncorrectableError (.firebox line)) s = .next t ∧
        ∀ i c, s.charge? i = some c → (c.vdev = v → c.phase ∈ live → (t.charge? i).map (·.phase) = some .aborting) ∧
          (c.vdev ≠ v → (t.charge? i).map (·.phase) = some c.phase)) ∧
      (∀ p, x.dirty = some (.vs p) → ∃ t, exec (.uncorrectableError (.firebox line)) s = .next t ∧
        ∀ i c, s.charge? i = some c →
          ((∃ d, (c.vdev, d) ∈ s.adm.vdevs ∧ d.partition.toNat = p) → c.phase ∈ live →
            (t.charge? i).map (·.phase) = some .aborting) ∧
          ((∀ d, (c.vdev, d) ∈ s.adm.vdevs → d.partition.toNat ≠ p) → (t.charge? i).map (·.phase) = some c.phase)))) ∧
  (∀ (s : State),
    (∀ n, n < 12 → n < s.mod.stoves.length → (s.stove n).stackState.toNat ≤ 1 → ∃ t,
      exec (.inServiceRepair (.stackRow n)) s = .next t ∧ (t.stove n).stackState = 1) ∧
    (∀ h e left, h < 168 → e < 48 → 2 ≤ left → left < s.wayCount h e → s.setsFit h e left = true → ∃ t,
      exec (.inServiceRepair (.ways h e left)) s = .next t ∧ t.wayCount h e = left ∧ e ∉ (t.hearth h).marked) ∧
    (∀ h b, h < 168 → b < 32 → (s.hearth h).banksOff.getLsbD b = false → s.bankBusy h b = false → ∃ t,
      exec (.inServiceRepair (.bank h b)) s = .next t ∧ (t.hearth h).banksOff.getLsbD b = true ∧
      ∀ k, k < 32 → k ≠ b → (t.hearth h).banksOff.getLsbD k = (s.hearth h).banksOff.getLsbD k))

/-! ## Shootdowns and page motion (R308, R309, R311 to R317) -/

/-- The `n` bytes at `a` and the `m` bytes at `b` have none in common. -/
def Sys2Proof.Claim.Apart (a n b m : Nat) : Prop := a + n ≤ b ∨ b + m ≤ a

/-- A shootdown request that its level may make waits in the queue, and one it may not leaves its status in its record; each
hearth that holds a context of the address space acknowledges once, and with every acknowledgement the request completes with
its record (R308, R309).
The model's choices: log entries 63, 113. -/
def Obligations.ShootdownsAreAcknowledgedAndComplete : Prop :=
  (∀ (s : State) (a : Agent) (p : Nat) (bs : List Byte), bs.length = 32 →
    let w := BitVec.ofNat 256 (leNat bs)
    let record := (w.extractLsb' 192 64).toNat
    let good := (p ≠ 255 → w.getLsbD 0 = false ∧ (s.aspace (w.extractLsb' 16 12).toNat).partition.toNat = p) ∧
      w.extractLsb' 128 64 ≠ 0 ∧ (w.extractLsb' 128 64).toNat ≤ 2 ^ 40 ∧ w.extractLsb' 64 16 = 0 ∧ w.extractLsb' 28 36 = 0 ∧
      w.extractLsb' 1 15 = 0
    (writesRequest a p = false ∨ record % 16 ≠ 0 → exec (.xsdRequest a p bs) s = .next (commit s s)) ∧
    (writesRequest a p = true → record % 16 = 0 →
      (good → s.memSide.moves = [] → ∃ t d, exec (.xsdRequest a p bs) s = .next t ∧
        t.memSide.shootdowns = s.memSide.shootdowns ++ [d] ∧ d.stageW = w.getLsbD 0 ∧ d.aspace = (w.extractLsb' 16 12).toNat ∧
        d.part = p ∧ d.first = (w.extractLsb' 64 64).toNat ∧ d.pages = (w.extractLsb' 128 64).toNat ∧ d.record = some record ∧
        d.acked = []) ∧
      (¬good → Quiet s → s.wlog = [] → Memory.wf s.mem = true → s.memSide.moves = [] → s.writable record = true → record + 16 ≤ slotBase →
        ∃ t, exec (.xsdRequest a p bs) s = .next t ∧ t.memSide.shootdowns = s.memSide.shootdowns ∧
          t.nat record 4 = if p ≠ 255 ∧ (w.getLsbD 0 = true ∨ (s.aspace (w.extractLsb' 16 12).toNat).partition.toNat ≠ p) then 2
            else 3))) ∧
  (∀ (s : State) (id h : Nat) (d : Shootdown), s.shootdown? id = some d → s.sdActive d = true →
    (h ∈ s.sdHearths d → h ∉ d.acked → ∃ t d', exec (.shootdownHearthAck id h) s = .next t ∧ t.shootdown? id = some d' ∧
      d' = { d with acked := d.acked ++ [h] }) ∧
    (∀ r, (∀ h ∈ s.sdHearths d, h ∈ d.acked) → d.record = some r → Quiet s → s.wlog = [] → Memory.wf s.mem = true →
      s.memSide.moves = [] → s.writable r = true → r + 16 ≤ slotBase → ∃ t, exec (.shootdownComplete id) s = .next t ∧ t.shootdown? id = none ∧
        t.nat r 4 = 0 ∧ t.nat (r + 4) 4 = d.acked.length % 2 ^ 32))

/-- A move request of a level without the right, or for a pool it does not hold, leaves its status and its cookie in its record
and moves nothing; a good one takes a frame, marks the leaf MOVING and asks for a shootdown, or aborts with cause 4 where its
pool is empty, with a shootdown all the same. A copied line's bytes stand at the destination; after the last line the leaf is RESIDENT
there with its other bits as they were, and once the second shootdown is done the record says 0 and the move is gone; a cancel before that
gives the leaf back, returns the destination to the head of its pool and completes with cause 5 (R311 to R317).
The model's choices: log entries 63, 90, 93, 113. -/
def Obligations.MovesCopyAPageAndRetarget : Prop :=
  (∀ (s : State) (a : Agent) (p : Nat) (bs : List Byte), bs.length = 32 → writesRequest a p = true → Quiet s → s.wlog = [] →
    Memory.wf s.mem = true → s.memSide.moves = [] →
    let w := BitVec.ofNat 256 (leNat bs)
    let record := (w.extractLsb' 192 64).toNat
    let n := (w.extractLsb' 0 8).toNat
    record % 32 = 0 → s.writable record = true → record + 32 ≤ slotBase →
    let answered (i : Instr) (k : Nat) : Prop := ∃ t, exec i s = .next t ∧ t.memSide = s.memSide ∧ t.nat record 4 = k ∧
      t.nat (record + 8) 8 = (w.extractLsb' 128 64).toNat
    (w.getLsbD 8 = false → (s.mayMigrate p = false → s.memSide.poison = [] → answered (.migrationRequest a p bs) 9) ∧
      (s.mayMigrate p = true → s.holdsPool p n = false → s.memSide.poison = [] → answered (.migrationRequest a p bs) 5) ∧
      (∀ x, s.moveStatus p n (s.pageOf p (w.extractLsb' 64 64).toNat) = .ok x →
        (∀ f pool, s.poolTake (s.pool n) = some (f, pool) → s.writable x.leaf.addr = true → x.leaf.addr + 8 ≤ slotBase →
          leafState x.leaf.entry = 0 → x.leaf.entry < 2 ^ 64 → ∃ t m, exec (.migrationRequest a p bs) s = .next t ∧
            t.memSide.moves = [m] ∧ m.src = x.frame ∧ m.dst = f ∧ m.cursor = 0 ∧ m.written = false ∧ m.record = record ∧
            t.pool n = pool ∧ t.nat x.leaf.addr 8 = x.leaf.entry + 16 ∧
            (t.memSide.shootdowns.map (·.id)).getLast? = some m.sd) ∧
        (s.poolTake (s.pool n) = none → ∃ t, exec (.migrationRequest a p bs) s = .next t ∧ t.memSide.moves = [] ∧
          t.nat record 4 = 8 ∧ t.nat (record + 4) 4 = 4 ∧
          t.memSide.shootdowns.length = s.memSide.shootdowns.length + 1))) ∧
    (w.getLsbD 8 = true → s.memSide.poison = [] → (s.mayMigrate p = false → answered (.migrationCancel a p bs) 9) ∧
      (s.mayMigrate p = true → answered (.migrationCancel a p bs) 7))) ∧
  (∀ (s : State) (a : Agent) (p : Nat) (bs : List Byte) (m : Move), bs.length = 32 → writesRequest a p = true → Quiet s → s.wlog = [] →
    Memory.wf s.mem = true → s.mayMigrate p = true →
    let w := BitVec.ofNat 256 (leNat bs)
    w.getLsbD 8 = true → (w.extractLsb' 192 64).toNat % 32 = 0 → s.moveOf p (w.extractLsb' 64 64).toNat = some m →
    m.written = false → s.memSide.moves = [m] → s.writable m.record = true → m.record + 32 ≤ slotBase →
    let pool := s.pool m.pool
    let h := (pool.head.toNat + pool.ring - 1) % pool.ring
    let at_ := pool.base.toNat * 4096 + 8 * h
    ∃ t, exec (.migrationCancel a p bs) s = .next t ∧ t.memSide.moves = [] ∧ t.nat m.record 4 = 8 ∧ t.nat (m.record + 4) 4 = 5 ∧
      t.memSide.shootdowns.length = s.memSide.shootdowns.length + 1 ∧
      (h ≠ pool.tail.toNat % pool.ring → s.writable at_ = true → at_ + 8 ≤ slotBase → Apart at_ 8 m.record 32 →
        t.pool m.pool = { pool with head := BitVec.ofNat 32 h } ∧ t.nat at_ 8 = m.dst % 2 ^ 36 ∧ t.nat (m.record + 16) 8 = 0 ∧
        (s.writable m.leaf = true → m.leaf + 8 ≤ slotBase → Apart m.leaf 8 m.record 32 → Apart m.leaf 8 at_ 8 →
          let e := s.nat m.leaf 8
          e / 16 % 4 = 1 → e / 65536 % 2 ^ 40 = m.src → t.nat m.leaf 8 = e - 16))) ∧
  (∀ (s : State) (m : Move), s.memSide.moves = [m] → m.written = false → m.cursor ≤ 255 → s.wlog = [] →
    Memory.wf s.mem = true → s.memSide.poison = [] → s.lineWaits m = none → m.dst * 65536 + 65536 ≤ slotBase →
    s.writable (m.dst * 65536 + 256 * m.cursor) = true →
    (∀ i, i < 256 → s.visible (m.src * 65536 + 256 * m.cursor + i) = true) →
    (m.cursor < 255 → ∃ t, exec (.migrationLineCopy m.id .none) s = .next t ∧
      t.memSide.moves = [{ m with cursor := m.cursor + 1 }] ∧
      ∀ x, after t x = if m.dst * 65536 + 256 * m.cursor ≤ x ∧ x < m.dst * 65536 + 256 * m.cursor + 256
        then s.byte (m.src * 65536 + (x - m.dst * 65536)) else s.byte x) ∧
    (m.cursor = 255 → ∃ t m', exec (.migrationLineCopy m.id .none) s = .next t ∧ t.memSide.moves = [m'] ∧ m'.written = true ∧
      m'.dst = m.dst ∧ m'.src = m.src ∧ (t.memSide.shootdowns.map (·.id)).getLast? = some m'.sd ∧
      let line := m.dst * 65536 + 256 * m.cursor
      let o := s.emberOwner m.src
      (Quiet s → o = 0xFF ∨ (s.part o.toNat).pq = 0 → m.dst < emberEnd - emberBase →
        (tierOf m.leaf).isSome = true → s.writable m.leaf = true → m.leaf % 8 = 0 → m.leaf / 65536 ≠ m.src →
        Apart m.leaf 8 line 256 →
        (∀ i, i < 256 → after t (line + i) = s.byte (m.src * 65536 + 256 * m.cursor + i)) ∧
        let e := s.nat m.leaf 8
        let v := t.nat m.leaf 8
        v / 65536 % 2 ^ 40 = m.dst ∧ (∀ k, tierOf (m.dst * 65536) = some k → v / 64 % 4 = k) ∧ v / 16 % 4 = 0 ∧
          v / 2 ^ 56 = e / 2 ^ 56 ∧ v / 256 % 256 = e / 256 % 256 ∧ v % 16 = e % 16))) ∧
  (∀ (s : State) (m : Move), s.memSide.moves = [m] → m.written = true → s.shootdown? m.sd = none → Quiet s → s.wlog = [] →
    Memory.wf s.mem = true → s.writable m.record = true → m.record + 32 ≤ slotBase → s.emberOwner m.src = 0xFF →
    emberEnd ≤ m.record ∨ m.record + 32 ≤ emberBase →
    m.src < emberEnd - emberBase → ∃ t, exec (.migrationComplete m.id) s = .next t ∧ t.memSide.moves = [] ∧
      t.nat m.record 4 = 0 ∧ t.nat (m.record + 16) 8 = m.dst % 2 ^ 64 ∧ after t (emberBase + m.src) = 0)

/-! ## Resets and boot (R28 to R32, R341) -/

/-- Module reset leaves every charge, token, queue and counter gone and the cycle 0, whatever stood before; the module then
runs the recovery responder where no copy of kindling verifies, the recovery image where no usable descriptor stands or the
measurement fails, and else Epalmig at the descriptor's entry, over the measured bytes of the pooled device at the port and
device address that the descriptor names. The responder takes one image, and one
that is signed becomes both copies and restarts boot (R28 to R32, R41). -/
def Sys2Proof.Claim.ResetBootsTheModule : Prop :=
  (∀ (s : State), ∃ t, exec .moduleReset s = .next t ∧ t.cycle = 0 ∧ t.adm = State.reset.adm ∧ t.memSide = State.reset.memSide ∧
    t.fab.charges = [] ∧ t.fab.transit = [] ∧ t.fab.ctxs = [] ∧ t.mod.damperRej = 0 ∧ t.mod.windowRej = 0 ∧ t.mod.exitedDrop = 0 ∧
    t.mod.injRej = [] ∧ t.mod.flash.a = s.mod.flash.a ∧ t.mod.flash.b = s.mod.flash.b ∧ t.env = s.env ∧
    let f := s.mod.flash
    let signed := Config.kindlingSigned f.a.kindling || Config.kindlingSigned f.b.kindling
    let w := s.env.world
    (signed = false → t.mod.boot = .recoveryResponder ∧ t.mem = []) ∧
    (signed = true → f.descriptor = none → t.mod.boot = .recoveryImage ∧ t.mem = []) ∧
    (∀ d, signed = true → f.descriptor = some d →
      let region := s.resetModule.train.bootRegion d
      let good := ∃ n bytes, region = some (n, bytes) ∧ Config.sha384 bytes = d.digest
      (¬good → t.mod.boot = .recoveryImage ∧ t.mem = []) ∧
      (∀ n bytes, region = some (n, bytes) → bytes.length = d.length → Config.sha384 bytes = d.digest →
        t.mod.boot = .epalmig (d.mbase + d.entry) ∧ t.mod.number = w.number ∧
        t.mod.pooled = [{ base := d.mbase, length := d.length, image := true, port := n, dpa := d.dpa }] ∧
        ∀ a, after t a = if d.mbase ≤ a ∧ a < d.mbase + d.length then bytes.getD (a - d.mbase) 0 else 0))) ∧
  (∀ (s : State) (d : Descriptor) (n : Nat) (bytes : List Byte), s.bootRegion d = some (n, bytes) →
    (n = d.port ∨ (4 ≤ d.port ∧ n < 4)) ∧ Part.cxl n ∉ s.mod.flash.retired ∧ bytes.length = d.length ∧
    ∃ r ∈ s.env.world.regions, r = (n, d.dpa, bytes)) ∧
  (∀ (s : State) (img : List Byte) (rest : List (List Byte)), s.mod.boot = .recoveryResponder → s.env.images = img :: rest →
    (Config.kindlingSigned img = false → ∃ t, exec .recoveryImageReceive s = .next t ∧ t.mod = s.mod ∧ t.env.images = rest) ∧
    (Config.kindlingSigned img = true → ∃ t, exec .recoveryImageReceive s = .next t ∧ t.env.images = rest ∧
      t.mod.flash.a.kindling = img ∧ t.mod.flash.b.kindling = img ∧ t.mod.boot ≠ .recoveryResponder))

/-- Queue `q` of device `v`, unused, open or faulted in `s`, is torn down in `t`: unused, or being destroyed while a charge of it has not
ended (R339, R340). -/
def Sys2Proof.Claim.QueueEnds (s t : State) (v q : Nat) : Prop :=
  (s.queue v q).state.toNat ≤ 2 →
    ((∀ y ∈ s.fab.charges, ¬(y.2.vdev = v ∧ y.2.queue = q)) → (t.queue v q).state = 0) ∧
    ((∃ y ∈ s.fab.charges, y.2.vdev = v ∧ y.2.queue = q) → (s.queue v q).state ≠ 0 → (t.queue v q).state = 3)

/-- A level that may reset a virtual function, or the wholesaler a partition, aborts its running charges, frees its queues and
zeroes its buckets; the device, and the partition, is resetting while a charge of it stands, and a partition in which none stands is at
once in state 1; the charges of other devices, or of other partitions, keep their phase, and a reset without the right changes no charge
(R341). -/
def Sys2Proof.Claim.ResetsEndTheirChargesOnly : Prop :=
  (∀ (s : State) (a : Agent) (v : Nat), v < 1024 →
    (s.mayDevice a v rightReset = true → ∃ t, exec (.vfReset a v) s = .next t ∧
      (∀ b c, s.charge? b = some c → c.vdev = v → c.phase = .running → (t.charge? b).map (·.phase) = some .aborting ∧
        (t.vdev v).state = 2) ∧
      (∀ b c, s.charge? b = some c → (∀ x ∈ s.fab.charges, x.1 = b → x.2.vdev ≠ v) →
        (t.charge? b).map (·.phase) = some c.phase) ∧
      (∀ q, q < 256 → Claim.QueueEnds s t v q) ∧ (∀ c, c < 28 → t.bucket c v = 0)) ∧
    (s.mayDevice a v rightReset = false → ∃ t, exec (.vfReset a v) s = .next t ∧ t.fab = s.fab ∧ t.adm = s.adm)) ∧
  (∀ (s : State) (p : Nat), p < 168 →
    (∃ t, exec (.partitionReset .wholesaler p) s = .next t ∧
      (∀ b c, s.charge? b = some c → (s.vdev c.vdev).partition.toNat = p → c.phase = .running → c.vdev < 1024 →
        (t.charge? b).map (·.phase) = some .aborting ∧ (t.vdev c.vdev).state = 2) ∧
      (∀ b c, s.charge? b = some c → (∀ x ∈ s.fab.charges, x.1 = b → ∀ y ∈ s.adm.vdevs, y.1 = x.2.vdev → y.2.partition.toNat ≠ p) →
        (t.charge? b).map (·.phase) = some c.phase) ∧
      (∀ v, v < 1024 → (s.vdev v).partition.toNat = p →
        (∀ q, q < 256 → Claim.QueueEnds s t v q) ∧ (∀ c, c < 28 → t.bucket c v = 0)) ∧
      ((∃ y ∈ s.fab.charges, (s.vdev y.2.vdev).partition.toNat = p) → (t.part p).state = 2) ∧
      ((∀ y ∈ s.fab.charges, ∀ x ∈ s.adm.vdevs, x.1 = y.2.vdev → x.2.partition.toNat ≠ p) → (t.part p).state = 1)) ∧
    (∀ a, a ≠ .wholesaler → exec (.partitionReset a p) s = .next (commit s s)))

/-- Module reset boots the module; other resets end their charges only (the two parts above).
The model's choices: log entries 62, 71, 80, 119. -/
def Obligations.ResetsBootTheModuleOrEndCharges : Prop :=
  Claim.ResetBootsTheModule ∧ Claim.ResetsEndTheirChargesOnly

/-! ## Power, retirement, ports, the pooled tier and other modules (R22 to R27, R33 to R41, R190) -/

/-- A stove's budget is 40 W or more, its matrix rate lies between 4 and 16 sixteenths and its start rate between 1 and 16, and firing
starts are limited only at the matrix floor (R34). -/
def Sys2Proof.Claim.WithinBounds (x : Stove) : Prop :=
  400 ≤ x.stoveBudget.toNat ∧ 4 ≤ x.matrixRate ∧ x.matrixRate ≤ 16 ∧ 1 ≤ x.startRate ∧ x.startRate ≤ 16 ∧
  (x.startRate < 16 → x.matrixRate = 4)

/-- A bellows tick takes one plan and keeps every stove within its bounds, which hold at reset; it divides no more than the
module's 2,400 W, a plan that would is not taken; both rates are at the floor while the module is held; above the coolant limit
every budget is lowered in one proportion, never below the floor, and so is every later plan's; a stack's budget waits while a channel
of it changes its point (R33 to R36). A temperature above the critical limit holds the module; one that
crosses a limit posts a record. A finished rate-point change of a channel takes effect, and with the stack's last one the budget that waited (R35). -/
def Sys2Proof.Claim.PowerKeepsItsBounds : Prop :=
  (∀ n, n < 12 → Claim.WithinBounds (State.reset.stove n)) ∧
  (∀ (s : State), s.mod.stoves.length = 12 → s.mod.bellowsMs < s.cycle / cyclesPerMs → ∃ t, exec .bellowsTick s = .next t ∧
    t.mod.bellowsMs = s.mod.bellowsMs + 1 ∧ t.env.plans = s.env.plans.drop 1 ∧ ∀ n, n < 12 →
      (Claim.WithinBounds (s.stove n) → Claim.WithinBounds (t.stove n)) ∧
      (s.mod.held = true → (t.stove n).matrixRate = 4 ∧ (t.stove n).startRate = 1 ∧ (t.stove n).stoveBudget = 400) ∧
      ((∀ p rest, s.env.plans = p :: rest → s.planAdmitted p = false) → s.mod.held = false →
        ¬(s.mod.limit.toNat < s.mod.inlet.toNat ∧ s.mod.crossed = true) → t.stove n = s.stove n)) ∧
  (∀ (s : State), s.mod.stoves.length = 12 → s.mod.bellowsMs < s.cycle / cyclesPerMs → ∃ t share, exec .bellowsTick s = .next t ∧
    (s.mod.inlet.toNat ≤ s.mod.limit.toNat → share = 256) ∧ (s.mod.limit.toNat < s.mod.inlet.toNat → share < 256) ∧ ∀ n, n < 12 →
      let x := s.stove n
      let stack (b : Nat) : Prop := (x.changing = [] → (t.stove n).stackBudget.toNat = b) ∧
        (x.changing ≠ [] → (t.stove n).stackBudget = x.stackBudget ∧ ∃ y l, (t.stove n).nextBudget = some (y, l) ∧ y.toNat = b)
      (s.mod.limit.toNat < s.mod.inlet.toNat → s.mod.crossed = true →
        (∀ p rest, s.env.plans = p :: rest → s.planAdmitted p = false) →
        (s.mod.held = false → (t.stove n).stoveBudget.toNat = max 400 (x.stoveBudget.toNat * share / 256)) ∧
        stack ((x.nextBudget.getD (x.stackBudget, [])).1.toNat * share / 256)) ∧
      (∀ p rest, s.env.plans = p :: rest → s.planAdmitted p = true →
        (∀ b, p.stoveBudget[n]? = some b → s.mod.held = false →
          (t.stove n).stoveBudget.toNat = max 400 (max 400 b.toNat * share / 256)) ∧
        (∀ b, p.stackBudget[n]? = some b → stack (b.toNat * share / 256)))) ∧
  (∀ (s : State) (p : PowerPlan), s.planAdmitted p = true ↔
    ((s.mod.stoves.zipIdx).map fun (x, n) => max 400 (p.stoveBudget.getD n x.stoveBudget).toNat +
      Config.stackPower (p.stackBudget.getD n (x.nextBudget.getD (x.stackBudget, [])).1).toNat).sum ≤ 24000) ∧
  (∀ (s : State) (x : BitVec 16) (rest : List (BitVec 16)), s.env.inlets = x :: rest → s.mod.stoves.length = 12 →
    ((s.ring 255).waiting.filter fun y => !(y.frozen || y.bubbled)).length < 64 →
    ∃ t, exec .coolantThresholdCross s = .next t ∧ t.mod.inlet = x ∧ t.env.inlets = rest ∧
      (s.mod.critical.toNat < x.toNat → t.mod.held = true ∧ ∀ n, n < 12 → (t.stove n).matrixRate = 4 ∧ (t.stove n).startRate = 1) ∧
      (x.toNat ≤ s.mod.critical.toNat → x.toNat < s.mod.limit.toNat → t.mod.held = false) ∧
      (s.mod.inlet.toNat ≤ s.mod.limit.toNat → s.mod.limit.toNat < x.toNat → ∃ r, r.code = 0x22 ∧
        (t.ring 255).waiting = (s.ring 255).waiting ++ [r])) ∧
  (∀ (s : State) (n k : Nat) (r : BitVec 2), n < s.mod.stoves.length → Table.get? (s.stove n).changing k = some r →
    let left := Table.erase (s.stove n).changing k
    ∃ t, exec (.ratePointChangeDone { stack := n, index := k }) s = .next t ∧ Table.get? (t.stove n).points k = some r ∧
      (left ≠ [] → t.stove n = { s.stove n with points := Table.put (s.stove n).points k r, changing := left }) ∧
      (left = [] → (s.stove n).nextBudget = none → t.stove n = { s.stove n with
        points := Table.put (s.stove n).points k r, changing := [] }) ∧
      (∀ b l, left = [] → (s.stove n).nextBudget = some (b, l) →
        (t.stove n).stackBudget = b ∧ (t.stove n).nextBudget = none ∧
        ∀ c p, Table.get? (t.stove n).changing c = some p → (c, p) ∈ l))

/-- Retiring a hearth first pre-empts its charges, and once none stands there disables its physical hearth and gives its
logical index to an unused spare; a stack or bulk package drains, and is retired once it holds no page; a port or core first
pre-empts the charges that use it, and is recorded as retired once none does (R10, R37 to R39, R41). -/
def Sys2Proof.Claim.RetirementDrainsThenRecords : Prop :=
  (∀ (s : State) (h p : Nat), h < 168 → physicalOf (s.stove (stoveOf h)).hearthMap (logicalOf h) = some p →
    ((s.hearth h).retiring = false → ∃ t, exec (.hearthRetire h) s = .next t ∧ (t.hearth h).retiring = true ∧
      ∀ b c, s.charge? b = some c → h ∈ c.region → c.phase = .running → (t.charge? b).map (·.preempting) = some true) ∧
    ((s.hearth h).retiring = true → s.chargesOn h = [] → (s.hearth h).shadow = none → stoveOf h < s.mod.stoves.length →
      let x := s.stove (stoveOf h)
      x.spare.toNat < 15 → x.spare.toNat ≠ p → x.hearthEnable.getLsbD p = true → ∃ t, exec (.hearthRetire h) s = .next t ∧
        (t.hearth h).dampers = 0 ∧ (t.hearth h).owner = none ∧ (t.stove (stoveOf h)).hearthEnable.getLsbD p = false ∧
        (x.spareUsed = false → (t.stove (stoveOf h)).spareUsed = true ∧
          (t.stove (stoveOf h)).hearthEnable.getLsbD x.spare.toNat = true ∧
          BitVec.extractLsb' (4 * x.spare.toNat) 4 (t.stove (stoveOf h)).hearthMap = BitVec.ofNat 4 (logicalOf h)))) ∧
  (∀ (s : State) (p : Part) (st : BitVec 4), s.mod.stoves.length = 12 → s.partState p = some st →
    (st ≠ 2 → st ≠ 3 → s.memSide.moves = [] → ∃ t, exec (.partRetire p) s = .next t ∧ t.partState p = some 2) ∧
    (st = 2 → s.pagesIn (fun f _ => frameIn p f) = false → ∃ t, exec (.partRetired p) s = .next t ∧ t.partState p = some 3 ∧
      p ∈ t.mod.flash.retired)) ∧
  (∀ (s : State) (n : Nat),
    (n < 24 → Part.uet n ∉ s.mod.flash.retired →
      (Part.uet n ∉ s.mod.retiring → ∃ t, exec (.portOrCoreRetire (.uet n)) s = .next t ∧
        t.mod.retiring = s.mod.retiring ++ [.uet n] ∧ t.mod.flash = s.mod.flash ∧
        ∀ b c, s.charge? b = some c → (∃ e ∈ c.image.streams, (streamOf e).port = n) → c.phase = .running →
          (t.charge? b).map (·.preempting) = some true) ∧
      (Part.uet n ∈ s.mod.retiring → s.chargesUsing (.uet n) = [] → ∃ t, exec (.portOrCoreRetire (.uet n)) s = .next t ∧
        t.mod.flash.retired = s.mod.flash.retired ++ [.uet n] ∧ t.portPresent n = false)) ∧
    (n < 20 → Part.core n ∉ s.mod.flash.retired → Part.core n ∈ s.mod.retiring → ∃ t,
      exec (.portOrCoreRetire (.core n)) s = .next t ∧ t.mod.flash.retired = s.mod.flash.retired ++ [.core n]))

/-- The bellows keeps its bounds, and parts retire (the two parts above).
The model's choices: log entries 66, 67, 95, 117. -/
def Obligations.PowerStaysBoundedAndPartsRetire : Prop :=
  Claim.PowerKeepsItsBounds ∧ Claim.RetirementDrainsThenRecords

/-- A port changes its mode when it is quiesced and shows BUSY otherwise; a port that goes down posts a record and drops what
reaches it, counted. A packet's write lands in memory; another module's store is translated through its descriptor and
performed, or refused with a record where the descriptor is off; pooled capacity is added and released in whole ranges (R22
to R27, R190).
The model's choices: log entries 68, 69, 98, 113, 118. -/
def Obligations.PortsAndPooledCapacityServe : Prop :=
  (∀ (s : State) (n : Nat) (m : BitVec 2), n < s.mod.ports.length → s.portPresent n = true → m = 0 ∨ m = 1 →
    (s.quiesced n = true → ∃ t, exec (.portModeWrite n m) s = .next t ∧ (t.port n).mode = m ∧ (t.port n).busy = false) ∧
    (s.quiesced n = false → (s.port n).mode ≠ m → ∃ t, exec (.portModeWrite n m) s = .next t ∧
      (t.port n).mode = (s.port n).mode ∧ (t.port n).busy = true)) ∧
  (∀ (s : State) (n : Nat), n < s.mod.ports.length → s.portPresent n = true → (s.port n).mode ≠ 2 → s.fab.charges = [] →
    ((s.ring 255).waiting.filter fun y => !(y.frozen || y.bubbled)).length < 64 →
    ∃ t r, exec (.portDown n) s = .next t ∧ (t.port n).mode = 2 ∧ (t.ring 255).waiting = (s.ring 255).waiting ++ [r] ∧
      r.code = 0x23 ∧ r.unit = 8) ∧
  (∀ (s : State) (n : Nat) (mode : UetMode) (body : UetBody), n < s.mod.ports.length → s.portPresent n = true →
    s.mod.boot ≠ .recoveryResponder →
    ((s.port n).mode = 2 ∨ (s.port n).mode = 0 ∧ mode = .other → ∃ t, exec (.uetPacketReceive n mode body) s = .next t ∧
      (t.port n).dropped = satAdd (s.port n).dropped 1 ∧ t.mem = (commit s s).mem) ∧
    (∀ a bs, (s.port n).mode = 0 → mode ≠ .other → body = .write a bs → Quiet s → s.wlog = [] → Memory.wf s.mem = true →
      s.memSide.moves = [] → (∀ x, a ≤ x → x < a + bs.length → (tierOf x).isSome = true ∧ s.writable x = true) →
      ∃ t, exec (.uetPacketReceive n mode body) s = .next t ∧ ∀ x, after t x = written s a bs x)) ∧
  (∀ (s : State) (x : RemoteAccess) (phys : Phys), s.mod.boot ≠ .recoveryResponder →
    ((s.aspace x.aspace).enable = false → (s.aspace x.aspace).partition.toNat < 168 → s.charge? 1024 = none →
      ((s.ring (s.aspace x.aspace).partition.toNat).waiting.filter fun y => !(y.frozen || y.bubbled)).length < 64 →
      ∃ t r, exec (.remoteAccessReceive x phys) s = .next t ∧ t.mem = (commit s s).mem ∧ r.code = 1 ∧ r.unit = 8 ∧
        (t.ring (s.aspace x.aspace).partition.toNat).waiting = (s.ring (s.aspace x.aspace).partition.toNat).waiting ++ [r]) ∧
    (∀ e, (s.aspace x.aspace).enable = true → x.op = .store → phys.evict = [] → phys.miss = false → s.wlog = [] →
      Memory.wf s.mem = true → s.memSide.moves = [] →
      (s.walkPage (s.aspace x.aspace) (some x.cid) 0 x.vaddr.toNat).grant false true = .ok e →
      s.writable (e.machine x.vaddr.toNat) = true → e.machine x.vaddr.toNat + 16 ≤ slotBase → ∃ t, exec (.remoteAccessReceive x phys) s = .next t ∧
        ∀ a, after t a = written s (e.machine x.vaddr.toNat)
          ((List.range (elemBytes x.fmt x.wide)).map fun k => BitVec.ofNat 8 (x.r.toNat / 256 ^ k)) a)) ∧
  (∀ (s : State) (port base length : Nat), port < 4 → base % 65536 = 0 → length % 65536 = 0 → length ≠ 0 → pooledBase ≤ base →
    base + length ≤ pooledEnd →
    ((∀ m ∈ s.mod.pooled, base + length ≤ m.base ∨ m.base + m.length ≤ base) → Part.cxl port ∉ s.mod.flash.retired → ∃ t,
      exec (.pooledCapacityChange { port := port, base := base } length false) s = .next t ∧
      t.mod.pooled = s.mod.pooled ++ [{ base := base, length := length, image := false, port := port, dpa := 0 }]) ∧
    ((∃ m ∈ s.mod.pooled, m.base = base ∧ m.length = length ∧ m.port = port ∧ m.image = false) →
      (s.pagesIn (framesMeet base length) = false → ∃ t, exec (.pooledCapacityChange { port := port, base := base } length true) s = .next t ∧
        t.mod.pooled = s.mod.pooled.filter fun m => m.base != base) ∧
      (s.pagesIn (framesMeet base length) = true → exec (.pooledCapacityChange { port := port, base := base } length true) s = .next (commit s s))))
end

