-- ==== Sys2Proof/Laws/State.lean ====
section
/-!
SUPPORT. Sys2Proof/Laws/State.lean: each update of the state, field by field: one lemma per field per update, true by
unfolding, so that no later proof opens a record update.
-/

namespace Sys2Proof.Machine

/-! ### setMod -/

@[simp] theorem setMod_cycle (s : State) (m : ModRegs) : (s.setMod m).cycle = s.cycle := rfl
@[simp] theorem setMod_mem (s : State) (m : ModRegs) : (s.setMod m).mem = s.mem := rfl
@[simp] theorem setMod_wlog (s : State) (m : ModRegs) : (s.setMod m).wlog = s.wlog := rfl
@[simp] theorem setMod_mod (s : State) (m : ModRegs) : (s.setMod m).mod = m := rfl
@[simp] theorem setMod_memSide (s : State) (m : ModRegs) : (s.setMod m).memSide = s.memSide := rfl
@[simp] theorem setMod_adm (s : State) (m : ModRegs) : (s.setMod m).adm = s.adm := rfl
@[simp] theorem setMod_fab (s : State) (m : ModRegs) : (s.setMod m).fab = s.fab := rfl
@[simp] theorem setMod_env (s : State) (m : ModRegs) : (s.setMod m).env = s.env := rfl
@[simp] theorem setMod_freshIx (s : State) (m : ModRegs) : (s.setMod m).freshIx = s.freshIx := rfl
@[simp] theorem setMod_sel (s : State) (m : ModRegs) : (s.setMod m).sel = s.sel := rfl
@[simp] theorem setMod_agenda (s : State) (m : ModRegs) : (s.setMod m).agenda = s.agenda := rfl
@[simp] theorem setMod_firebox (s : State) (m : ModRegs) : (s.setMod m).firebox = s.firebox := rfl

/-! ### setSide -/

@[simp] theorem setSide_cycle (s : State) (m : MemSide) : (s.setSide m).cycle = s.cycle := rfl
@[simp] theorem setSide_mem (s : State) (m : MemSide) : (s.setSide m).mem = s.mem := rfl
@[simp] theorem setSide_wlog (s : State) (m : MemSide) : (s.setSide m).wlog = s.wlog := rfl
@[simp] theorem setSide_mod (s : State) (m : MemSide) : (s.setSide m).mod = s.mod := rfl
@[simp] theorem setSide_memSide (s : State) (m : MemSide) : (s.setSide m).memSide = m := rfl
@[simp] theorem setSide_adm (s : State) (m : MemSide) : (s.setSide m).adm = s.adm := rfl
@[simp] theorem setSide_fab (s : State) (m : MemSide) : (s.setSide m).fab = s.fab := rfl
@[simp] theorem setSide_env (s : State) (m : MemSide) : (s.setSide m).env = s.env := rfl
@[simp] theorem setSide_freshIx (s : State) (m : MemSide) : (s.setSide m).freshIx = s.freshIx := rfl
@[simp] theorem setSide_sel (s : State) (m : MemSide) : (s.setSide m).sel = s.sel := rfl
@[simp] theorem setSide_agenda (s : State) (m : MemSide) : (s.setSide m).agenda = s.agenda := rfl
@[simp] theorem setSide_firebox (s : State) (m : MemSide) : (s.setSide m).firebox = s.firebox := rfl

/-! ### setAdm -/

@[simp] theorem setAdm_cycle (s : State) (x : Adm) : (s.setAdm x).cycle = s.cycle := rfl
@[simp] theorem setAdm_mem (s : State) (x : Adm) : (s.setAdm x).mem = s.mem := rfl
@[simp] theorem setAdm_wlog (s : State) (x : Adm) : (s.setAdm x).wlog = s.wlog := rfl
@[simp] theorem setAdm_mod (s : State) (x : Adm) : (s.setAdm x).mod = s.mod := rfl
@[simp] theorem setAdm_memSide (s : State) (x : Adm) : (s.setAdm x).memSide = s.memSide := rfl
@[simp] theorem setAdm_adm (s : State) (x : Adm) : (s.setAdm x).adm = x := rfl
@[simp] theorem setAdm_fab (s : State) (x : Adm) : (s.setAdm x).fab = s.fab := rfl
@[simp] theorem setAdm_env (s : State) (x : Adm) : (s.setAdm x).env = s.env := rfl
@[simp] theorem setAdm_freshIx (s : State) (x : Adm) : (s.setAdm x).freshIx = s.freshIx := rfl
@[simp] theorem setAdm_sel (s : State) (x : Adm) : (s.setAdm x).sel = s.sel := rfl
@[simp] theorem setAdm_agenda (s : State) (x : Adm) : (s.setAdm x).agenda = s.agenda := rfl
@[simp] theorem setAdm_firebox (s : State) (x : Adm) : (s.setAdm x).firebox = s.firebox := rfl

/-! ### setFab -/

@[simp] theorem setFab_cycle (s : State) (x : Fab) : (s.setFab x).cycle = s.cycle := rfl
@[simp] theorem setFab_mem (s : State) (x : Fab) : (s.setFab x).mem = s.mem := rfl
@[simp] theorem setFab_wlog (s : State) (x : Fab) : (s.setFab x).wlog = s.wlog := rfl
@[simp] theorem setFab_mod (s : State) (x : Fab) : (s.setFab x).mod = s.mod := rfl
@[simp] theorem setFab_memSide (s : State) (x : Fab) : (s.setFab x).memSide = s.memSide := rfl
@[simp] theorem setFab_adm (s : State) (x : Fab) : (s.setFab x).adm = s.adm := rfl
@[simp] theorem setFab_fab (s : State) (x : Fab) : (s.setFab x).fab = x := rfl
@[simp] theorem setFab_env (s : State) (x : Fab) : (s.setFab x).env = s.env := rfl
@[simp] theorem setFab_freshIx (s : State) (x : Fab) : (s.setFab x).freshIx = s.freshIx := rfl
@[simp] theorem setFab_sel (s : State) (x : Fab) : (s.setFab x).sel = s.sel := rfl
@[simp] theorem setFab_agenda (s : State) (x : Fab) : (s.setFab x).agenda = s.agenda := rfl
@[simp] theorem setFab_firebox (s : State) (x : Fab) : (s.setFab x).firebox = s.firebox := rfl

/-! ### setFirebox -/

@[simp] theorem setFirebox_cycle (s : State) (x : Firebox) : (s.setFirebox x).cycle = s.cycle := rfl
@[simp] theorem setFirebox_mem (s : State) (x : Firebox) : (s.setFirebox x).mem = s.mem := rfl
@[simp] theorem setFirebox_wlog (s : State) (x : Firebox) : (s.setFirebox x).wlog = s.wlog := rfl
@[simp] theorem setFirebox_mod (s : State) (x : Firebox) : (s.setFirebox x).mod = s.mod := rfl
@[simp] theorem setFirebox_memSide (s : State) (x : Firebox) : (s.setFirebox x).memSide = s.memSide := rfl
@[simp] theorem setFirebox_adm (s : State) (x : Firebox) : (s.setFirebox x).adm = s.adm := rfl
@[simp] theorem setFirebox_fab (s : State) (x : Firebox) : (s.setFirebox x).fab = s.fab := rfl
@[simp] theorem setFirebox_env (s : State) (x : Firebox) : (s.setFirebox x).env = s.env := rfl
@[simp] theorem setFirebox_freshIx (s : State) (x : Firebox) : (s.setFirebox x).freshIx = s.freshIx := rfl
@[simp] theorem setFirebox_sel (s : State) (x : Firebox) : (s.setFirebox x).sel = s.sel := rfl
@[simp] theorem setFirebox_agenda (s : State) (x : Firebox) : (s.setFirebox x).agenda = s.agenda := rfl
@[simp] theorem setFirebox_firebox (s : State) (x : Firebox) : (s.setFirebox x).firebox = x := rfl

/-! ### putByte -/

@[simp] theorem putByte_cycle (s : State) (a : Nat) (b : Byte) : (s.putByte a b).cycle = s.cycle := rfl
@[simp] theorem putByte_mem (s : State) (a : Nat) (b : Byte) : (s.putByte a b).mem = s.mem := rfl
@[simp] theorem putByte_wlog (s : State) (a : Nat) (b : Byte) : (s.putByte a b).wlog = (a, b) :: s.wlog := rfl
@[simp] theorem putByte_mod (s : State) (a : Nat) (b : Byte) : (s.putByte a b).mod = s.mod := rfl
@[simp] theorem putByte_memSide (s : State) (a : Nat) (b : Byte) : (s.putByte a b).memSide = s.memSide := rfl
@[simp] theorem putByte_adm (s : State) (a : Nat) (b : Byte) : (s.putByte a b).adm = s.adm := rfl
@[simp] theorem putByte_fab (s : State) (a : Nat) (b : Byte) : (s.putByte a b).fab = s.fab := rfl
@[simp] theorem putByte_env (s : State) (a : Nat) (b : Byte) : (s.putByte a b).env = s.env := rfl
@[simp] theorem putByte_freshIx (s : State) (a : Nat) (b : Byte) : (s.putByte a b).freshIx = s.freshIx := rfl
@[simp] theorem putByte_sel (s : State) (a : Nat) (b : Byte) : (s.putByte a b).sel = s.sel := rfl
@[simp] theorem putByte_agenda (s : State) (a : Nat) (b : Byte) : (s.putByte a b).agenda = s.agenda := rfl
@[simp] theorem putByte_firebox (s : State) (a : Nat) (b : Byte) : (s.putByte a b).firebox = s.firebox := rfl

/-! ### modStove -/

@[simp] theorem modStove_cycle (s : State) (n : Nat) (f : Stove → Stove) : (s.modStove n f).cycle = s.cycle := rfl
@[simp] theorem modStove_mem (s : State) (n : Nat) (f : Stove → Stove) : (s.modStove n f).mem = s.mem := rfl
@[simp] theorem modStove_wlog (s : State) (n : Nat) (f : Stove → Stove) : (s.modStove n f).wlog = s.wlog := rfl
@[simp] theorem modStove_memSide (s : State) (n : Nat) (f : Stove → Stove) : (s.modStove n f).memSide = s.memSide := rfl
@[simp] theorem modStove_adm (s : State) (n : Nat) (f : Stove → Stove) : (s.modStove n f).adm = s.adm := rfl
@[simp] theorem modStove_fab (s : State) (n : Nat) (f : Stove → Stove) : (s.modStove n f).fab = s.fab := rfl
@[simp] theorem modStove_env (s : State) (n : Nat) (f : Stove → Stove) : (s.modStove n f).env = s.env := rfl
@[simp] theorem modStove_freshIx (s : State) (n : Nat) (f : Stove → Stove) : (s.modStove n f).freshIx = s.freshIx := rfl
@[simp] theorem modStove_sel (s : State) (n : Nat) (f : Stove → Stove) : (s.modStove n f).sel = s.sel := rfl
@[simp] theorem modStove_agenda (s : State) (n : Nat) (f : Stove → Stove) : (s.modStove n f).agenda = s.agenda := rfl
@[simp] theorem modStove_firebox (s : State) (n : Nat) (f : Stove → Stove) : (s.modStove n f).firebox = s.firebox := rfl

/-! ### modHearth -/

@[simp] theorem modHearth_cycle (s : State) (h : Nat) (f : Hearth → Hearth) : (s.modHearth h f).cycle = s.cycle := rfl
@[simp] theorem modHearth_mem (s : State) (h : Nat) (f : Hearth → Hearth) : (s.modHearth h f).mem = s.mem := rfl
@[simp] theorem modHearth_wlog (s : State) (h : Nat) (f : Hearth → Hearth) : (s.modHearth h f).wlog = s.wlog := rfl
@[simp] theorem modHearth_mod (s : State) (h : Nat) (f : Hearth → Hearth) : (s.modHearth h f).mod = s.mod := rfl
@[simp] theorem modHearth_memSide (s : State) (h : Nat) (f : Hearth → Hearth) : (s.modHearth h f).memSide = s.memSide := rfl
@[simp] theorem modHearth_adm (s : State) (h : Nat) (f : Hearth → Hearth) : (s.modHearth h f).adm = s.adm := rfl
@[simp] theorem modHearth_env (s : State) (h : Nat) (f : Hearth → Hearth) : (s.modHearth h f).env = s.env := rfl
@[simp] theorem modHearth_freshIx (s : State) (h : Nat) (f : Hearth → Hearth) : (s.modHearth h f).freshIx = s.freshIx := rfl
@[simp] theorem modHearth_sel (s : State) (h : Nat) (f : Hearth → Hearth) : (s.modHearth h f).sel = s.sel := rfl
@[simp] theorem modHearth_agenda (s : State) (h : Nat) (f : Hearth → Hearth) : (s.modHearth h f).agenda = s.agenda := rfl
@[simp] theorem modHearth_firebox (s : State) (h : Nat) (f : Hearth → Hearth) : (s.modHearth h f).firebox = s.firebox := rfl

/-! ### modCe -/

@[simp] theorem modCe_cycle (s : State) (h e : Nat) (f : Ce → Ce) : (s.modCe h e f).cycle = s.cycle := rfl
@[simp] theorem modCe_mem (s : State) (h e : Nat) (f : Ce → Ce) : (s.modCe h e f).mem = s.mem := rfl
@[simp] theorem modCe_wlog (s : State) (h e : Nat) (f : Ce → Ce) : (s.modCe h e f).wlog = s.wlog := rfl
@[simp] theorem modCe_mod (s : State) (h e : Nat) (f : Ce → Ce) : (s.modCe h e f).mod = s.mod := rfl
@[simp] theorem modCe_memSide (s : State) (h e : Nat) (f : Ce → Ce) : (s.modCe h e f).memSide = s.memSide := rfl
@[simp] theorem modCe_adm (s : State) (h e : Nat) (f : Ce → Ce) : (s.modCe h e f).adm = s.adm := rfl
@[simp] theorem modCe_env (s : State) (h e : Nat) (f : Ce → Ce) : (s.modCe h e f).env = s.env := rfl
@[simp] theorem modCe_freshIx (s : State) (h e : Nat) (f : Ce → Ce) : (s.modCe h e f).freshIx = s.freshIx := rfl
@[simp] theorem modCe_sel (s : State) (h e : Nat) (f : Ce → Ce) : (s.modCe h e f).sel = s.sel := rfl
@[simp] theorem modCe_agenda (s : State) (h e : Nat) (f : Ce → Ce) : (s.modCe h e f).agenda = s.agenda := rfl
@[simp] theorem modCe_firebox (s : State) (h e : Nat) (f : Ce → Ce) : (s.modCe h e f).firebox = s.firebox := rfl

/-! ### modCtx -/

@[simp] theorem modCtx_cycle (s : State) (h e c : Nat) (f : CeCtx → CeCtx) : (s.modCtx h e c f).cycle = s.cycle := rfl
@[simp] theorem modCtx_mem (s : State) (h e c : Nat) (f : CeCtx → CeCtx) : (s.modCtx h e c f).mem = s.mem := rfl
@[simp] theorem modCtx_wlog (s : State) (h e c : Nat) (f : CeCtx → CeCtx) : (s.modCtx h e c f).wlog = s.wlog := rfl
@[simp] theorem modCtx_mod (s : State) (h e c : Nat) (f : CeCtx → CeCtx) : (s.modCtx h e c f).mod = s.mod := rfl
@[simp] theorem modCtx_memSide (s : State) (h e c : Nat) (f : CeCtx → CeCtx) : (s.modCtx h e c f).memSide = s.memSide := rfl
@[simp] theorem modCtx_adm (s : State) (h e c : Nat) (f : CeCtx → CeCtx) : (s.modCtx h e c f).adm = s.adm := rfl
@[simp] theorem modCtx_env (s : State) (h e c : Nat) (f : CeCtx → CeCtx) : (s.modCtx h e c f).env = s.env := rfl
@[simp] theorem modCtx_freshIx (s : State) (h e c : Nat) (f : CeCtx → CeCtx) : (s.modCtx h e c f).freshIx = s.freshIx := rfl
@[simp] theorem modCtx_sel (s : State) (h e c : Nat) (f : CeCtx → CeCtx) : (s.modCtx h e c f).sel = s.sel := rfl
@[simp] theorem modCtx_agenda (s : State) (h e c : Nat) (f : CeCtx → CeCtx) : (s.modCtx h e c f).agenda = s.agenda := rfl
@[simp] theorem modCtx_firebox (s : State) (h e c : Nat) (f : CeCtx → CeCtx) : (s.modCtx h e c f).firebox = s.firebox := rfl

/-! ### modCharge -/

@[simp] theorem modCharge_cycle (s : State) (b : Nat) (f : Charge → Charge) : (s.modCharge b f).cycle = s.cycle := rfl
@[simp] theorem modCharge_mem (s : State) (b : Nat) (f : Charge → Charge) : (s.modCharge b f).mem = s.mem := rfl
@[simp] theorem modCharge_wlog (s : State) (b : Nat) (f : Charge → Charge) : (s.modCharge b f).wlog = s.wlog := rfl
@[simp] theorem modCharge_mod (s : State) (b : Nat) (f : Charge → Charge) : (s.modCharge b f).mod = s.mod := rfl
@[simp] theorem modCharge_memSide (s : State) (b : Nat) (f : Charge → Charge) : (s.modCharge b f).memSide = s.memSide := rfl
@[simp] theorem modCharge_adm (s : State) (b : Nat) (f : Charge → Charge) : (s.modCharge b f).adm = s.adm := rfl
@[simp] theorem modCharge_env (s : State) (b : Nat) (f : Charge → Charge) : (s.modCharge b f).env = s.env := rfl
@[simp] theorem modCharge_freshIx (s : State) (b : Nat) (f : Charge → Charge) : (s.modCharge b f).freshIx = s.freshIx := rfl
@[simp] theorem modCharge_sel (s : State) (b : Nat) (f : Charge → Charge) : (s.modCharge b f).sel = s.sel := rfl
@[simp] theorem modCharge_agenda (s : State) (b : Nat) (f : Charge → Charge) : (s.modCharge b f).agenda = s.agenda := rfl
@[simp] theorem modCharge_firebox (s : State) (b : Nat) (f : Charge → Charge) : (s.modCharge b f).firebox = s.firebox := rfl

/-! ### modPart -/

@[simp] theorem modPart_cycle (s : State) (p : Nat) (f : PartReg → PartReg) : (s.modPart p f).cycle = s.cycle := rfl
@[simp] theorem modPart_mem (s : State) (p : Nat) (f : PartReg → PartReg) : (s.modPart p f).mem = s.mem := rfl
@[simp] theorem modPart_wlog (s : State) (p : Nat) (f : PartReg → PartReg) : (s.modPart p f).wlog = s.wlog := rfl
@[simp] theorem modPart_mod (s : State) (p : Nat) (f : PartReg → PartReg) : (s.modPart p f).mod = s.mod := rfl
@[simp] theorem modPart_memSide (s : State) (p : Nat) (f : PartReg → PartReg) : (s.modPart p f).memSide = s.memSide := rfl
@[simp] theorem modPart_fab (s : State) (p : Nat) (f : PartReg → PartReg) : (s.modPart p f).fab = s.fab := rfl
@[simp] theorem modPart_env (s : State) (p : Nat) (f : PartReg → PartReg) : (s.modPart p f).env = s.env := rfl
@[simp] theorem modPart_freshIx (s : State) (p : Nat) (f : PartReg → PartReg) : (s.modPart p f).freshIx = s.freshIx := rfl
@[simp] theorem modPart_sel (s : State) (p : Nat) (f : PartReg → PartReg) : (s.modPart p f).sel = s.sel := rfl
@[simp] theorem modPart_agenda (s : State) (p : Nat) (f : PartReg → PartReg) : (s.modPart p f).agenda = s.agenda := rfl
@[simp] theorem modPart_firebox (s : State) (p : Nat) (f : PartReg → PartReg) : (s.modPart p f).firebox = s.firebox := rfl

/-! ### modVdev -/

@[simp] theorem modVdev_cycle (s : State) (v : Nat) (f : Vdev → Vdev) : (s.modVdev v f).cycle = s.cycle := rfl
@[simp] theorem modVdev_mem (s : State) (v : Nat) (f : Vdev → Vdev) : (s.modVdev v f).mem = s.mem := rfl
@[simp] theorem modVdev_wlog (s : State) (v : Nat) (f : Vdev → Vdev) : (s.modVdev v f).wlog = s.wlog := rfl
@[simp] theorem modVdev_mod (s : State) (v : Nat) (f : Vdev → Vdev) : (s.modVdev v f).mod = s.mod := rfl
@[simp] theorem modVdev_memSide (s : State) (v : Nat) (f : Vdev → Vdev) : (s.modVdev v f).memSide = s.memSide := rfl
@[simp] theorem modVdev_fab (s : State) (v : Nat) (f : Vdev → Vdev) : (s.modVdev v f).fab = s.fab := rfl
@[simp] theorem modVdev_env (s : State) (v : Nat) (f : Vdev → Vdev) : (s.modVdev v f).env = s.env := rfl
@[simp] theorem modVdev_freshIx (s : State) (v : Nat) (f : Vdev → Vdev) : (s.modVdev v f).freshIx = s.freshIx := rfl
@[simp] theorem modVdev_sel (s : State) (v : Nat) (f : Vdev → Vdev) : (s.modVdev v f).sel = s.sel := rfl
@[simp] theorem modVdev_agenda (s : State) (v : Nat) (f : Vdev → Vdev) : (s.modVdev v f).agenda = s.agenda := rfl
@[simp] theorem modVdev_firebox (s : State) (v : Nat) (f : Vdev → Vdev) : (s.modVdev v f).firebox = s.firebox := rfl

/-! ### modQueue -/

@[simp] theorem modQueue_cycle (s : State) (v q : Nat) (f : Queue → Queue) : (s.modQueue v q f).cycle = s.cycle := rfl
@[simp] theorem modQueue_mem (s : State) (v q : Nat) (f : Queue → Queue) : (s.modQueue v q f).mem = s.mem := rfl
@[simp] theorem modQueue_wlog (s : State) (v q : Nat) (f : Queue → Queue) : (s.modQueue v q f).wlog = s.wlog := rfl
@[simp] theorem modQueue_mod (s : State) (v q : Nat) (f : Queue → Queue) : (s.modQueue v q f).mod = s.mod := rfl
@[simp] theorem modQueue_memSide (s : State) (v q : Nat) (f : Queue → Queue) : (s.modQueue v q f).memSide = s.memSide := rfl
@[simp] theorem modQueue_fab (s : State) (v q : Nat) (f : Queue → Queue) : (s.modQueue v q f).fab = s.fab := rfl
@[simp] theorem modQueue_env (s : State) (v q : Nat) (f : Queue → Queue) : (s.modQueue v q f).env = s.env := rfl
@[simp] theorem modQueue_freshIx (s : State) (v q : Nat) (f : Queue → Queue) : (s.modQueue v q f).freshIx = s.freshIx := rfl
@[simp] theorem modQueue_sel (s : State) (v q : Nat) (f : Queue → Queue) : (s.modQueue v q f).sel = s.sel := rfl
@[simp] theorem modQueue_agenda (s : State) (v q : Nat) (f : Queue → Queue) : (s.modQueue v q f).agenda = s.agenda := rfl
@[simp] theorem modQueue_firebox (s : State) (v q : Nat) (f : Queue → Queue) : (s.modQueue v q f).firebox = s.firebox := rfl

/-! ### modBind -/

@[simp] theorem modBind_cycle (s : State) (i : Nat) (f : Bind → Bind) : (s.modBind i f).cycle = s.cycle := rfl
@[simp] theorem modBind_mem (s : State) (i : Nat) (f : Bind → Bind) : (s.modBind i f).mem = s.mem := rfl
@[simp] theorem modBind_wlog (s : State) (i : Nat) (f : Bind → Bind) : (s.modBind i f).wlog = s.wlog := rfl
@[simp] theorem modBind_mod (s : State) (i : Nat) (f : Bind → Bind) : (s.modBind i f).mod = s.mod := rfl
@[simp] theorem modBind_memSide (s : State) (i : Nat) (f : Bind → Bind) : (s.modBind i f).memSide = s.memSide := rfl
@[simp] theorem modBind_fab (s : State) (i : Nat) (f : Bind → Bind) : (s.modBind i f).fab = s.fab := rfl
@[simp] theorem modBind_env (s : State) (i : Nat) (f : Bind → Bind) : (s.modBind i f).env = s.env := rfl
@[simp] theorem modBind_freshIx (s : State) (i : Nat) (f : Bind → Bind) : (s.modBind i f).freshIx = s.freshIx := rfl
@[simp] theorem modBind_sel (s : State) (i : Nat) (f : Bind → Bind) : (s.modBind i f).sel = s.sel := rfl
@[simp] theorem modBind_agenda (s : State) (i : Nat) (f : Bind → Bind) : (s.modBind i f).agenda = s.agenda := rfl
@[simp] theorem modBind_firebox (s : State) (i : Nat) (f : Bind → Bind) : (s.modBind i f).firebox = s.firebox := rfl

/-! ### modRing -/

@[simp] theorem modRing_cycle (s : State) (n : Nat) (f : Ring → Ring) : (s.modRing n f).cycle = s.cycle := rfl
@[simp] theorem modRing_mem (s : State) (n : Nat) (f : Ring → Ring) : (s.modRing n f).mem = s.mem := rfl
@[simp] theorem modRing_wlog (s : State) (n : Nat) (f : Ring → Ring) : (s.modRing n f).wlog = s.wlog := rfl
@[simp] theorem modRing_mod (s : State) (n : Nat) (f : Ring → Ring) : (s.modRing n f).mod = s.mod := rfl
@[simp] theorem modRing_memSide (s : State) (n : Nat) (f : Ring → Ring) : (s.modRing n f).memSide = s.memSide := rfl
@[simp] theorem modRing_fab (s : State) (n : Nat) (f : Ring → Ring) : (s.modRing n f).fab = s.fab := rfl
@[simp] theorem modRing_env (s : State) (n : Nat) (f : Ring → Ring) : (s.modRing n f).env = s.env := rfl
@[simp] theorem modRing_freshIx (s : State) (n : Nat) (f : Ring → Ring) : (s.modRing n f).freshIx = s.freshIx := rfl
@[simp] theorem modRing_sel (s : State) (n : Nat) (f : Ring → Ring) : (s.modRing n f).sel = s.sel := rfl
@[simp] theorem modRing_agenda (s : State) (n : Nat) (f : Ring → Ring) : (s.modRing n f).agenda = s.agenda := rfl
@[simp] theorem modRing_firebox (s : State) (n : Nat) (f : Ring → Ring) : (s.modRing n f).firebox = s.firebox := rfl

/-! ### countDamper -/

@[simp] theorem countDamper_cycle (s : State) (n : Nat) : (s.countDamper n).cycle = s.cycle := rfl
@[simp] theorem countDamper_mem (s : State) (n : Nat) : (s.countDamper n).mem = s.mem := rfl
@[simp] theorem countDamper_wlog (s : State) (n : Nat) : (s.countDamper n).wlog = s.wlog := rfl
@[simp] theorem countDamper_memSide (s : State) (n : Nat) : (s.countDamper n).memSide = s.memSide := rfl
@[simp] theorem countDamper_adm (s : State) (n : Nat) : (s.countDamper n).adm = s.adm := rfl
@[simp] theorem countDamper_fab (s : State) (n : Nat) : (s.countDamper n).fab = s.fab := rfl
@[simp] theorem countDamper_env (s : State) (n : Nat) : (s.countDamper n).env = s.env := rfl
@[simp] theorem countDamper_freshIx (s : State) (n : Nat) : (s.countDamper n).freshIx = s.freshIx := rfl
@[simp] theorem countDamper_sel (s : State) (n : Nat) : (s.countDamper n).sel = s.sel := rfl
@[simp] theorem countDamper_agenda (s : State) (n : Nat) : (s.countDamper n).agenda = s.agenda := rfl
@[simp] theorem countDamper_firebox (s : State) (n : Nat) : (s.countDamper n).firebox = s.firebox := rfl

/-! ### countWindow -/

@[simp] theorem countWindow_cycle (s : State) : s.countWindow.cycle = s.cycle := rfl
@[simp] theorem countWindow_mem (s : State) : s.countWindow.mem = s.mem := rfl
@[simp] theorem countWindow_wlog (s : State) : s.countWindow.wlog = s.wlog := rfl
@[simp] theorem countWindow_memSide (s : State) : s.countWindow.memSide = s.memSide := rfl
@[simp] theorem countWindow_adm (s : State) : s.countWindow.adm = s.adm := rfl
@[simp] theorem countWindow_fab (s : State) : s.countWindow.fab = s.fab := rfl
@[simp] theorem countWindow_env (s : State) : s.countWindow.env = s.env := rfl
@[simp] theorem countWindow_freshIx (s : State) : s.countWindow.freshIx = s.freshIx := rfl
@[simp] theorem countWindow_sel (s : State) : s.countWindow.sel = s.sel := rfl
@[simp] theorem countWindow_agenda (s : State) : s.countWindow.agenda = s.agenda := rfl
@[simp] theorem countWindow_firebox (s : State) : s.countWindow.firebox = s.firebox := rfl

/-! ### countExited -/

@[simp] theorem countExited_cycle (s : State) (n : Nat) : (s.countExited n).cycle = s.cycle := rfl
@[simp] theorem countExited_mem (s : State) (n : Nat) : (s.countExited n).mem = s.mem := rfl
@[simp] theorem countExited_wlog (s : State) (n : Nat) : (s.countExited n).wlog = s.wlog := rfl
@[simp] theorem countExited_memSide (s : State) (n : Nat) : (s.countExited n).memSide = s.memSide := rfl
@[simp] theorem countExited_adm (s : State) (n : Nat) : (s.countExited n).adm = s.adm := rfl
@[simp] theorem countExited_fab (s : State) (n : Nat) : (s.countExited n).fab = s.fab := rfl
@[simp] theorem countExited_env (s : State) (n : Nat) : (s.countExited n).env = s.env := rfl
@[simp] theorem countExited_freshIx (s : State) (n : Nat) : (s.countExited n).freshIx = s.freshIx := rfl
@[simp] theorem countExited_sel (s : State) (n : Nat) : (s.countExited n).sel = s.sel := rfl
@[simp] theorem countExited_agenda (s : State) (n : Nat) : (s.countExited n).agenda = s.agenda := rfl
@[simp] theorem countExited_firebox (s : State) (n : Nat) : (s.countExited n).firebox = s.firebox := rfl

/-! ### countInj -/

@[simp] theorem countInj_cycle (s : State) (h : Nat) : (s.countInj h).cycle = s.cycle := rfl
@[simp] theorem countInj_mem (s : State) (h : Nat) : (s.countInj h).mem = s.mem := rfl
@[simp] theorem countInj_wlog (s : State) (h : Nat) : (s.countInj h).wlog = s.wlog := rfl
@[simp] theorem countInj_memSide (s : State) (h : Nat) : (s.countInj h).memSide = s.memSide := rfl
@[simp] theorem countInj_adm (s : State) (h : Nat) : (s.countInj h).adm = s.adm := rfl
@[simp] theorem countInj_fab (s : State) (h : Nat) : (s.countInj h).fab = s.fab := rfl
@[simp] theorem countInj_env (s : State) (h : Nat) : (s.countInj h).env = s.env := rfl
@[simp] theorem countInj_freshIx (s : State) (h : Nat) : (s.countInj h).freshIx = s.freshIx := rfl
@[simp] theorem countInj_sel (s : State) (h : Nat) : (s.countInj h).sel = s.sel := rfl
@[simp] theorem countInj_agenda (s : State) (h : Nat) : (s.countInj h).agenda = s.agenda := rfl
@[simp] theorem countInj_firebox (s : State) (h : Nat) : (s.countInj h).firebox = s.firebox := rfl

/-! ### countRace -/

/-- What a race counts: one of its charge's partition, or nothing. -/
theorem raceRaised_cases (s : State) (c : Charge) (code : Nat) :
    s.raceRaised c code = s ∨ (code = 0x16 ∧ s.raceRaised c code = s.countRace c.part) := by
  unfold State.raceRaised
  split
  · exact .inl rfl
  · exact .inl rfl
  · split
    · next h => exact .inr ⟨h, rfl⟩
    · exact .inl rfl


@[simp] theorem countRace_cycle (s : State) (p : Nat) : (s.countRace p).cycle = s.cycle := rfl
@[simp] theorem countRace_mem (s : State) (p : Nat) : (s.countRace p).mem = s.mem := rfl
@[simp] theorem countRace_wlog (s : State) (p : Nat) : (s.countRace p).wlog = s.wlog := rfl
@[simp] theorem countRace_mod (s : State) (p : Nat) : (s.countRace p).mod = s.mod := rfl
@[simp] theorem countRace_memSide (s : State) (p : Nat) : (s.countRace p).memSide = s.memSide := rfl
@[simp] theorem countRace_fab (s : State) (p : Nat) : (s.countRace p).fab = s.fab := rfl
@[simp] theorem countRace_env (s : State) (p : Nat) : (s.countRace p).env = s.env := rfl
@[simp] theorem countRace_freshIx (s : State) (p : Nat) : (s.countRace p).freshIx = s.freshIx := rfl
@[simp] theorem countRace_sel (s : State) (p : Nat) : (s.countRace p).sel = s.sel := rfl
@[simp] theorem countRace_agenda (s : State) (p : Nat) : (s.countRace p).agenda = s.agenda := rfl
@[simp] theorem countRace_firebox (s : State) (p : Nat) : (s.countRace p).firebox = s.firebox := rfl

/-! ### modReq -/

@[simp] theorem modReq_cycle (s : State) (id : Nat) (f : Req → Req) : (s.modReq id f).cycle = s.cycle := rfl
@[simp] theorem modReq_mem (s : State) (id : Nat) (f : Req → Req) : (s.modReq id f).mem = s.mem := rfl
@[simp] theorem modReq_wlog (s : State) (id : Nat) (f : Req → Req) : (s.modReq id f).wlog = s.wlog := rfl
@[simp] theorem modReq_mod (s : State) (id : Nat) (f : Req → Req) : (s.modReq id f).mod = s.mod := rfl
@[simp] theorem modReq_memSide (s : State) (id : Nat) (f : Req → Req) : (s.modReq id f).memSide = s.memSide := rfl
@[simp] theorem modReq_adm (s : State) (id : Nat) (f : Req → Req) : (s.modReq id f).adm = s.adm := rfl
@[simp] theorem modReq_env (s : State) (id : Nat) (f : Req → Req) : (s.modReq id f).env = s.env := rfl
@[simp] theorem modReq_freshIx (s : State) (id : Nat) (f : Req → Req) : (s.modReq id f).freshIx = s.freshIx := rfl
@[simp] theorem modReq_sel (s : State) (id : Nat) (f : Req → Req) : (s.modReq id f).sel = s.sel := rfl
@[simp] theorem modReq_agenda (s : State) (id : Nat) (f : Req → Req) : (s.modReq id f).agenda = s.agenda := rfl
@[simp] theorem modReq_firebox (s : State) (id : Nat) (f : Req → Req) : (s.modReq id f).firebox = s.firebox := rfl

/-! ### modFlight -/

@[simp] theorem modFlight_cycle (s : State) (id : Nat) (f : Flight → Flight) : (s.modFlight id f).cycle = s.cycle := rfl
@[simp] theorem modFlight_mem (s : State) (id : Nat) (f : Flight → Flight) : (s.modFlight id f).mem = s.mem := rfl
@[simp] theorem modFlight_wlog (s : State) (id : Nat) (f : Flight → Flight) : (s.modFlight id f).wlog = s.wlog := rfl
@[simp] theorem modFlight_mod (s : State) (id : Nat) (f : Flight → Flight) : (s.modFlight id f).mod = s.mod := rfl
@[simp] theorem modFlight_memSide (s : State) (id : Nat) (f : Flight → Flight) : (s.modFlight id f).memSide = s.memSide := rfl
@[simp] theorem modFlight_adm (s : State) (id : Nat) (f : Flight → Flight) : (s.modFlight id f).adm = s.adm := rfl
@[simp] theorem modFlight_env (s : State) (id : Nat) (f : Flight → Flight) : (s.modFlight id f).env = s.env := rfl
@[simp] theorem modFlight_freshIx (s : State) (id : Nat) (f : Flight → Flight) : (s.modFlight id f).freshIx = s.freshIx := rfl
@[simp] theorem modFlight_sel (s : State) (id : Nat) (f : Flight → Flight) : (s.modFlight id f).sel = s.sel := rfl
@[simp] theorem modFlight_agenda (s : State) (id : Nat) (f : Flight → Flight) : (s.modFlight id f).agenda = s.agenda := rfl
@[simp] theorem modFlight_firebox (s : State) (id : Nat) (f : Flight → Flight) : (s.modFlight id f).firebox = s.firebox := rfl

/-! ### raiseFault -/

@[simp] theorem raiseFault_cycle (s : State) (b : Nat) (r : FaultRec) : (s.raiseFault b r).cycle = s.cycle := rfl
@[simp] theorem raiseFault_mem (s : State) (b : Nat) (r : FaultRec) : (s.raiseFault b r).mem = s.mem := rfl
@[simp] theorem raiseFault_wlog (s : State) (b : Nat) (r : FaultRec) : (s.raiseFault b r).wlog = s.wlog := rfl
@[simp] theorem raiseFault_mod (s : State) (b : Nat) (r : FaultRec) : (s.raiseFault b r).mod = s.mod := rfl
@[simp] theorem raiseFault_memSide (s : State) (b : Nat) (r : FaultRec) : (s.raiseFault b r).memSide = s.memSide := rfl
@[simp] theorem raiseFault_adm (s : State) (b : Nat) (r : FaultRec) : (s.raiseFault b r).adm = s.adm := rfl
@[simp] theorem raiseFault_env (s : State) (b : Nat) (r : FaultRec) : (s.raiseFault b r).env = s.env := rfl
@[simp] theorem raiseFault_freshIx (s : State) (b : Nat) (r : FaultRec) : (s.raiseFault b r).freshIx = s.freshIx := rfl
@[simp] theorem raiseFault_sel (s : State) (b : Nat) (r : FaultRec) : (s.raiseFault b r).sel = s.sel := rfl
@[simp] theorem raiseFault_agenda (s : State) (b : Nat) (r : FaultRec) : (s.raiseFault b r).agenda = s.agenda := rfl
@[simp] theorem raiseFault_firebox (s : State) (b : Nat) (r : FaultRec) : (s.raiseFault b r).firebox = s.firebox := rfl

/-! ### touch -/

@[simp] theorem touch_cycle (s : State) (b : Nat) : (s.touch b).cycle = s.cycle := rfl
@[simp] theorem touch_mem (s : State) (b : Nat) : (s.touch b).mem = s.mem := rfl
@[simp] theorem touch_wlog (s : State) (b : Nat) : (s.touch b).wlog = s.wlog := rfl
@[simp] theorem touch_mod (s : State) (b : Nat) : (s.touch b).mod = s.mod := rfl
@[simp] theorem touch_memSide (s : State) (b : Nat) : (s.touch b).memSide = s.memSide := rfl
@[simp] theorem touch_adm (s : State) (b : Nat) : (s.touch b).adm = s.adm := rfl
@[simp] theorem touch_env (s : State) (b : Nat) : (s.touch b).env = s.env := rfl
@[simp] theorem touch_freshIx (s : State) (b : Nat) : (s.touch b).freshIx = s.freshIx := rfl
@[simp] theorem touch_sel (s : State) (b : Nat) : (s.touch b).sel = s.sel := rfl
@[simp] theorem touch_agenda (s : State) (b : Nat) : (s.touch b).agenda = s.agenda := rfl
@[simp] theorem touch_firebox (s : State) (b : Nat) : (s.touch b).firebox = s.firebox := rfl

/-! ### raiseAcks -/

@[simp] theorem raiseAcks_cycle (s : State) (b n : Nat) : (s.raiseAcks b n).cycle = s.cycle := rfl
@[simp] theorem raiseAcks_mem (s : State) (b n : Nat) : (s.raiseAcks b n).mem = s.mem := rfl
@[simp] theorem raiseAcks_wlog (s : State) (b n : Nat) : (s.raiseAcks b n).wlog = s.wlog := rfl
@[simp] theorem raiseAcks_mod (s : State) (b n : Nat) : (s.raiseAcks b n).mod = s.mod := rfl
@[simp] theorem raiseAcks_memSide (s : State) (b n : Nat) : (s.raiseAcks b n).memSide = s.memSide := rfl
@[simp] theorem raiseAcks_adm (s : State) (b n : Nat) : (s.raiseAcks b n).adm = s.adm := rfl
@[simp] theorem raiseAcks_env (s : State) (b n : Nat) : (s.raiseAcks b n).env = s.env := rfl
@[simp] theorem raiseAcks_freshIx (s : State) (b n : Nat) : (s.raiseAcks b n).freshIx = s.freshIx := rfl
@[simp] theorem raiseAcks_sel (s : State) (b n : Nat) : (s.raiseAcks b n).sel = s.sel := rfl
@[simp] theorem raiseAcks_agenda (s : State) (b n : Nat) : (s.raiseAcks b n).agenda = s.agenda := rfl
@[simp] theorem raiseAcks_firebox (s : State) (b n : Nat) : (s.raiseAcks b n).firebox = s.firebox := rfl

/-! ### lowerAcks -/

@[simp] theorem lowerAcks_cycle (s : State) (b n : Nat) : (s.lowerAcks b n).cycle = s.cycle := rfl
@[simp] theorem lowerAcks_mem (s : State) (b n : Nat) : (s.lowerAcks b n).mem = s.mem := rfl
@[simp] theorem lowerAcks_wlog (s : State) (b n : Nat) : (s.lowerAcks b n).wlog = s.wlog := rfl
@[simp] theorem lowerAcks_mod (s : State) (b n : Nat) : (s.lowerAcks b n).mod = s.mod := rfl
@[simp] theorem lowerAcks_memSide (s : State) (b n : Nat) : (s.lowerAcks b n).memSide = s.memSide := rfl
@[simp] theorem lowerAcks_adm (s : State) (b n : Nat) : (s.lowerAcks b n).adm = s.adm := rfl
@[simp] theorem lowerAcks_env (s : State) (b n : Nat) : (s.lowerAcks b n).env = s.env := rfl
@[simp] theorem lowerAcks_freshIx (s : State) (b n : Nat) : (s.lowerAcks b n).freshIx = s.freshIx := rfl
@[simp] theorem lowerAcks_sel (s : State) (b n : Nat) : (s.lowerAcks b n).sel = s.sel := rfl
@[simp] theorem lowerAcks_agenda (s : State) (b n : Nat) : (s.lowerAcks b n).agenda = s.agenda := rfl
@[simp] theorem lowerAcks_firebox (s : State) (b n : Nat) : (s.lowerAcks b n).firebox = s.firebox := rfl

/-! ### fresh identifiers, stamps and free values -/

@[simp] theorem newId_cycle (s : State) : s.newId.2.cycle = s.cycle := rfl
@[simp] theorem newId_mem (s : State) : s.newId.2.mem = s.mem := rfl
@[simp] theorem newId_wlog (s : State) : s.newId.2.wlog = s.wlog := rfl
@[simp] theorem newId_mod (s : State) : s.newId.2.mod = s.mod := rfl
@[simp] theorem newId_memSide (s : State) : s.newId.2.memSide = s.memSide := rfl
@[simp] theorem newId_adm (s : State) : s.newId.2.adm = s.adm := rfl
@[simp] theorem newId_env (s : State) : s.newId.2.env = s.env := rfl
@[simp] theorem newId_freshIx (s : State) : s.newId.2.freshIx = s.freshIx := rfl
@[simp] theorem newId_sel (s : State) : s.newId.2.sel = s.sel := rfl
@[simp] theorem newId_agenda (s : State) : s.newId.2.agenda = s.agenda := rfl
@[simp] theorem newId_firebox (s : State) : s.newId.2.firebox = s.firebox := rfl

@[simp] theorem newStamp_cycle (s : State) : s.newStamp.2.cycle = s.cycle := rfl
@[simp] theorem newStamp_mem (s : State) : s.newStamp.2.mem = s.mem := rfl
@[simp] theorem newStamp_wlog (s : State) : s.newStamp.2.wlog = s.wlog := rfl
@[simp] theorem newStamp_mod (s : State) : s.newStamp.2.mod = s.mod := rfl
@[simp] theorem newStamp_memSide (s : State) : s.newStamp.2.memSide = s.memSide := rfl
@[simp] theorem newStamp_adm (s : State) : s.newStamp.2.adm = s.adm := rfl
@[simp] theorem newStamp_env (s : State) : s.newStamp.2.env = s.env := rfl
@[simp] theorem newStamp_freshIx (s : State) : s.newStamp.2.freshIx = s.freshIx := rfl
@[simp] theorem newStamp_sel (s : State) : s.newStamp.2.sel = s.sel := rfl
@[simp] theorem newStamp_agenda (s : State) : s.newStamp.2.agenda = s.agenda := rfl
@[simp] theorem newStamp_firebox (s : State) : s.newStamp.2.firebox = s.firebox := rfl

@[simp] theorem free_cycle (s : State) : s.free.2.cycle = s.cycle := rfl
@[simp] theorem free_mem (s : State) : s.free.2.mem = s.mem := rfl
@[simp] theorem free_wlog (s : State) : s.free.2.wlog = s.wlog := rfl
@[simp] theorem free_mod (s : State) : s.free.2.mod = s.mod := rfl
@[simp] theorem free_memSide (s : State) : s.free.2.memSide = s.memSide := rfl
@[simp] theorem free_adm (s : State) : s.free.2.adm = s.adm := rfl
@[simp] theorem free_fab (s : State) : s.free.2.fab = s.fab := rfl
@[simp] theorem free_env (s : State) : s.free.2.env = s.env := rfl
@[simp] theorem free_sel (s : State) : s.free.2.sel = s.sel := rfl
@[simp] theorem free_agenda (s : State) : s.free.2.agenda = s.agenda := rfl
@[simp] theorem free_firebox (s : State) : s.free.2.firebox = s.firebox := rfl

/-! ### several bytes -/

@[simp] theorem putBytes_cycle (s : State) (a : Nat) (bs : List Byte) : (s.putBytes a bs).cycle = s.cycle := by
  induction bs generalizing s a with
  | nil => rfl
  | cons b bs ih => rw [State.putBytes, ih]; rfl

@[simp] theorem putBytes_mem (s : State) (a : Nat) (bs : List Byte) : (s.putBytes a bs).mem = s.mem := by
  induction bs generalizing s a with
  | nil => rfl
  | cons b bs ih => rw [State.putBytes, ih]; rfl

@[simp] theorem putBytes_mod (s : State) (a : Nat) (bs : List Byte) : (s.putBytes a bs).mod = s.mod := by
  induction bs generalizing s a with
  | nil => rfl
  | cons b bs ih => rw [State.putBytes, ih]; rfl

@[simp] theorem putBytes_memSide (s : State) (a : Nat) (bs : List Byte) : (s.putBytes a bs).memSide = s.memSide := by
  induction bs generalizing s a with
  | nil => rfl
  | cons b bs ih => rw [State.putBytes, ih]; rfl

@[simp] theorem putBytes_adm (s : State) (a : Nat) (bs : List Byte) : (s.putBytes a bs).adm = s.adm := by
  induction bs generalizing s a with
  | nil => rfl
  | cons b bs ih => rw [State.putBytes, ih]; rfl

@[simp] theorem putBytes_fab (s : State) (a : Nat) (bs : List Byte) : (s.putBytes a bs).fab = s.fab := by
  induction bs generalizing s a with
  | nil => rfl
  | cons b bs ih => rw [State.putBytes, ih]; rfl

@[simp] theorem putBytes_env (s : State) (a : Nat) (bs : List Byte) : (s.putBytes a bs).env = s.env := by
  induction bs generalizing s a with
  | nil => rfl
  | cons b bs ih => rw [State.putBytes, ih]; rfl

@[simp] theorem putBytes_freshIx (s : State) (a : Nat) (bs : List Byte) : (s.putBytes a bs).freshIx = s.freshIx := by
  induction bs generalizing s a with
  | nil => rfl
  | cons b bs ih => rw [State.putBytes, ih]; rfl

@[simp] theorem putBytes_sel (s : State) (a : Nat) (bs : List Byte) : (s.putBytes a bs).sel = s.sel := by
  induction bs generalizing s a with
  | nil => rfl
  | cons b bs ih => rw [State.putBytes, ih]; rfl

@[simp] theorem putBytes_agenda (s : State) (a : Nat) (bs : List Byte) : (s.putBytes a bs).agenda = s.agenda := by
  induction bs generalizing s a with
  | nil => rfl
  | cons b bs ih => rw [State.putBytes, ih]; rfl
@[simp] theorem putBytes_firebox (s : State) (a : Nat) (bs : List Byte) : (s.putBytes a bs).firebox = s.firebox := by
  induction bs generalizing s a with
  | nil => rfl
  | cons b bs ih => rw [State.putBytes, ih]; rfl

end Sys2Proof.Machine
end

