-- ==== Sys2Proof/Laws/Emit.lean ====
section
/-!
SUPPORT. Sys2Proof/Laws/Emit.lean: what starting a firing and emitting its results can change: contexts and charges at the
start, tokens in transit at emission, flags in between.
-/

namespace Sys2Proof.Machine

/-- `t` is `s` with other contexts and charges. -/
def StartsFrom (s t : State) : Prop := ∃ cs hs, t = s.setFab { s.fab with ctxs := cs, charges := hs }

/-- `t` is `s` with more tokens in transit. -/
def EmitsFrom (s t : State) : Prop := ∃ l, t = s.setFab { s.fab with transit := s.fab.transit ++ l }

theorem EmitsFrom.refl (s : State) : EmitsFrom s s := ⟨[], by simp [State.setFab]⟩

theorem EmitsFrom.trans {s t u : State} (h : EmitsFrom s t) (g : EmitsFrom t u) : EmitsFrom s u := by
  obtain ⟨l, rfl⟩ := h
  obtain ⟨l', rfl⟩ := g
  exact ⟨l ++ l', by simp [State.setFab, List.append_assoc]⟩

theorem EmitsFrom.foldl {α : Type} (f : State → α → State) (h : ∀ s x, EmitsFrom s (f s x)) (l : List α) (s : State) :
    EmitsFrom s (l.foldl f s) := by
  induction l generalizing s with
  | nil => exact .refl s
  | cons x xs ih => exact (h s x).trans (ih (f s x))

/-! ## Emission -/

theorem sendTo_from (s : State) (b : Nat) (c : Charge) (src : List Nat) (d : Dest) (k : Kind) (it : Iter) (vals : List Val)
    (nd : Bool) (acq : List Rel) (words : Nat) : EmitsFrom s (s.sendTo b c src d k it vals nd acq words) := by
  unfold State.sendTo
  split
  · exact .refl s
  · exact ⟨_, rfl⟩

theorem sendCons_from (s : State) (b blk slot k : Nat) (x : Consumer) (kd : Kind) (it : Iter) (vals : List Val)
    (acq : List Rel) (words : Nat) : EmitsFrom s (s.sendCons b blk slot k x kd it vals acq words) := by
  unfold State.sendCons
  split
  · exact .refl s
  · split
    · exact .refl s
    · exact sendTo_from ..

theorem sendRun_from (s : State) (b blk slot k : Nat) (x : Consumer) (kd : Kind) (r : List Emit) (words : Nat)
    (acq : List Rel) : EmitsFrom s (s.sendRun b blk slot k x kd r words acq) := by
  unfold State.sendRun
  split
  · exact .refl s
  · exact sendCons_from ..

theorem sendAg_from (s : State) (b : Nat) (c : Charge) (src : List Nat) (h n words : Nat) (r : List Emit) :
    EmitsFrom s (s.sendAg b c src h n words r) := by
  unfold State.sendAg
  split
  · exact .refl s
  · exact ⟨_, rfl⟩

theorem feedTracks_from (s : State) (b blk slot : Nat) (l : List Emit) : EmitsFrom s (s.feedTracks b blk slot l) := by
  unfold State.feedTracks
  split
  · exact .refl s
  · split
    · exact .refl s
    · refine EmitsFrom.foldl _ (fun s t => ?_) _ _
      dsimp only
      split
      · exact EmitsFrom.foldl _ (fun s r => sendAg_from ..) _ _
      · exact .refl s

theorem sendAll_from (s : State) (b blk slot k : Nat) (x : Consumer) (cap : Nat) (l : List Emit) (acq : List Rel) :
    EmitsFrom s (s.sendAll b blk slot k x cap l acq) := by
  have h1 : EmitsFrom s (if k = 0 then s.feedTracks b blk slot l else s) := by
    split
    · exact feedTracks_from ..
    · exact .refl s
  unfold State.sendAll
  dsimp only
  split
  · exact h1
  · exact h1.trans (EmitsFrom.foldl _ (fun s r => sendRun_from ..) _ _)

theorem sendAligned_from (s : State) (b blk slot k : Nat) (x : Consumer) (cap : Nat) (l : List Emit)
    (words : Nat) : EmitsFrom s (s.sendAligned b blk slot k x cap l words) := by
  have h1 : EmitsFrom s (if k = 0 then s.feedTracks b blk slot l else s) := by
    split
    · exact feedTracks_from ..
    · exact .refl s
  unfold State.sendAligned
  dsimp only
  split
  · exact h1
  · exact h1.trans (EmitsFrom.foldl _ (fun s r => sendRun_from ..) _ _)

theorem emit_from (s : State) (F : Fire) (k : Nat) (x : Consumer) (cap : Nat) (l : List Emit) :
    EmitsFrom s (s.emit F k x cap l) := sendAll_from ..

theorem emitBoth_from (s : State) (F : Fire) (c1 c2 : Consumer) (cap : Nat) (l : List Emit) :
    EmitsFrom s (s.emitBoth F c1 c2 cap l) := (emit_from ..).trans (emit_from ..)

/-! ## The start -/

theorem StartsFrom.refl (s : State) : StartsFrom s s := ⟨s.fab.ctxs, s.fab.charges, rfl⟩

theorem StartsFrom.trans {s t u : State} (h : StartsFrom s t) (g : StartsFrom t u) : StartsFrom s u := by
  obtain ⟨c, x, rfl⟩ := h
  obtain ⟨c', x', rfl⟩ := g
  exact ⟨c', x', rfl⟩

theorem modCtx_starts (s : State) (h e c : Nat) (f : CeCtx → CeCtx) : StartsFrom s (s.modCtx h e c f) :=
  ⟨_, s.fab.charges, rfl⟩

theorem modCharge_starts (s : State) (b : Nat) (f : Charge → Charge) : StartsFrom s (s.modCharge b f) :=
  ⟨s.fab.ctxs, _, rfl⟩

theorem acquireRels_starts (s : State) (b : Nat) (t : Scope) (y : Nat) (rs : List Rel) :
    StartsFrom s (s.acquireRels b t y rs) := by
  unfold State.acquireRels
  induction rs generalizing s with
  | nil => exact .refl s
  | cons r rs ih =>
    refine StartsFrom.trans ?_ (ih _)
    dsimp only
    split
    · exact modCharge_starts ..
    · exact .refl s

theorem addFlags_starts (s : State) (h e c : Nat) (nf : Bool) (rs : List Res) : StartsFrom s (s.addFlags h e c nf rs) := by
  unfold State.addFlags
  split
  · exact .refl s
  · exact modCtx_starts ..

/-- A started firing: where it stands, that what it acquired joins its charge's table first, and that its start changes contexts and
charges alone. -/
theorem startFiring_spec {s u : State} {F : Fire} (h : startFiring s = some (F, u)) :
    s.sel = some (.firing F.hearth F.ce F.ctx F.f) ∧ s.ctx? F.hearth F.ce F.ctx = some F.cc ∧
    (∃ ch, s.charge? F.cc.bind = some ch ∧ F.ch = { ch with acquired := F.ch.acquired }) ∧ F.ch.block? F.cc.block = some F.blk ∧ StartsFrom s u := by
  unfold startFiring at h
  split at h
  · rename_i hh e c f hs
    split at h
    · rename_i cc hc
      split at h
      · rename_i ch hb
        split at h
        · rename_i b hk
          simp only [Option.some.injEq, Prod.mk.injEq] at h
          obtain ⟨rfl, rfl⟩ := h
          exact ⟨hs, hc, ⟨_, hb, rfl⟩, hk, ((modCtx_starts ..).trans (modCharge_starts ..)).trans (acquireRels_starts ..)⟩
        · cases h
      · cases h
    · cases h
  · cases h

/-! ## Elementwise firings (R130) -/

theorem elemResults_length (w : WordA) (sel : Nat) (out : Fmt) (op : Opnd → Nat × Flags) (os : List Opnd) :
    (elemResults w sel out op os).length = os.length := by simp [elemResults]

/-- The result at each position of an elementwise firing. -/
theorem elemResults_get (w : WordA) (sel : Nat) (out : Fmt) (op : Opnd → Nat × Flags) (os : List Opnd) (i : Nat) (o : Opnd)
    (h : os[i]? = some o) :
    (elemResults w sel out op os)[i]? = some
      (let it := tagOut w.tagop sel w.imm i o.iter o.l
       if o.bubble w.arity.toNat then { iter := it, val := none, flags := 0 }
       else if !(o.pred w.arity.toNat w.inv) then { iter := it, val := o.l, flags := 0 }
       else { iter := it, val := some (mkVal out (op o).1), flags := (op o).2 }) := by
  simp [elemResults, List.getElem?_map, List.getElem?_zipIdx, h]

/-- Everything an elementwise firing does: its positions' flags join the context's, and its results leave. -/
theorem elementwiseWith_spec (w : WordA) (out : Fmt) (os : State → Fire → List Opnd) (op : State → Fire → Opnd → Nat × Flags)
    {s u : State} {F : Fire} (h : startFiring s = some (F, u)) :
    elementwiseWith w out os op s = some
      ((u.addFlags F.hearth F.ce F.ctx w.nf (elemResults w F.tagsel out (op u F) (os u F))).emitBoth F w.cons1 w.cons2
        out.maxRun ((elemResults w F.tagsel out (op u F) (os u F)).map Res.emit)) := by
  simp [elementwiseWith, h]

end Sys2Proof.Machine
end

