-- ==== Sys2Proof/Laws/Memory.lean ====
section
/-!
SUPPORT. Sys2Proof/Laws/Memory.lean: machine memory keeps its canonical form and reads back what was written; how a step's
writes join it.
-/

namespace Sys2Proof.Machine

/-! ## One byte -/

theorem Memory.get_set_self (m : Memory) (a : Nat) (b : Byte) (h : Memory.wf m = true) :
    Memory.get (Memory.set m a b) a = b := by
  have key : ∀ (m : Memory) (lo : Option Nat), Memory.wfFrom lo m = true → Memory.get (Memory.set m a b) a = b := by
    intro m
    induction m with
    | nil => intro _ _; by_cases hb : b = 0#8 <;> simp [Memory.set, Memory.get, hb]
    | cons x xs ih =>
      obtain ⟨k, c⟩ := x
      intro lo h
      simp only [Memory.wfFrom, Bool.and_eq_true] at h
      obtain ⟨_, hx⟩ := h
      have below : ∀ (n : Memory) (l : Nat), Memory.wfFrom (some l) n = true → ∀ a, a ≤ l → Memory.get n a = 0 := by
        intro n
        induction n with
        | nil => intros; rfl
        | cons y ys ihy =>
          obtain ⟨j, d⟩ := y
          intro l hn a' ha
          simp only [Memory.wfFrom, Bool.and_eq_true, decide_eq_true_eq] at hn
          have : j ≠ a' := by omega
          simp [Memory.get, this]
          exact ihy j hn.2 a' (by omega)
      unfold Memory.set
      split
      · by_cases hb : b = 0#8
        · have hk : k ≠ a := by omega
          simp [Memory.get, hb, hk]
          exact below xs k hx a (by omega)
        · simp [Memory.get, hb]
      · split
        · rename_i e
          subst e
          by_cases hb : b = 0#8
          · simp [hb]
            exact below xs _ hx _ (by omega)
          · simp [Memory.get, hb]
        · have hk : k ≠ a := by omega
          simp [Memory.get, hk]
          exact ih _ hx
  exact key m none h

theorem Memory.get_set_ne (m : Memory) {a a' : Nat} (b : Byte) (h : a' ≠ a) :
    Memory.get (Memory.set m a b) a' = Memory.get m a' := by
  induction m with
  | nil => by_cases hb : b = 0#8 <;> simp [Memory.set, Memory.get, hb, Ne.symm h]
  | cons x xs ih =>
    obtain ⟨k, c⟩ := x
    unfold Memory.set
    split
    · by_cases hb : b = 0#8 <;> simp [Memory.get, hb, Ne.symm h]
    · split
      · rename_i e
        subst e
        by_cases hb : b = 0#8 <;> simp [Memory.get, hb, Ne.symm h]
      · by_cases hk : k = a' <;> simp [Memory.get, hk, ih]

theorem Memory.wfFrom_set (m : Memory) (a : Nat) (b : Byte) :
    ∀ lo : Option Nat, Memory.wfFrom lo m = true → (∀ l, lo = some l → l < a) → Memory.wfFrom lo (Memory.set m a b) = true := by
  induction m with
  | nil =>
    intro lo _ hl
    by_cases hb : b = 0#8
    · simp [Memory.set, hb, Memory.wfFrom]
    · cases lo with
      | none => simp [Memory.set, hb, Memory.wfFrom]
      | some l => simp [Memory.set, hb, Memory.wfFrom, hl l rfl]
  | cons x xs ih =>
    obtain ⟨k, c⟩ := x
    intro lo h hl
    simp only [Memory.wfFrom, Bool.and_eq_true] at h
    obtain ⟨⟨h1, h2⟩, h3⟩ := h
    have up : ∀ {n : Memory} {i j : Nat}, i ≤ j → Memory.wfFrom (some j) n = true → Memory.wfFrom (some i) n = true := by
      intro n i j hij hn
      cases n with
      | nil => rfl
      | cons y ys =>
        obtain ⟨p, d⟩ := y
        simp only [Memory.wfFrom, Bool.and_eq_true, decide_eq_true_eq] at hn ⊢
        exact ⟨⟨by omega, hn.1.2⟩, hn.2⟩
    unfold Memory.set
    split
    · rename_i hk
      by_cases hb : b = 0#8
      · simpa [hb, Memory.wfFrom, h1, h3] using h2
      · cases lo with
        | none => simpa [hb, Memory.wfFrom, h3, hk] using h2
        | some l => simpa [hb, Memory.wfFrom, h3, hk, hl l rfl] using h2
    · split
      · rename_i e
        subst e
        by_cases hb : b = 0#8
        · cases lo with
          | none =>
            simp [hb]
            cases xs with
            | nil => rfl
            | cons y ys =>
              obtain ⟨p, d⟩ := y
              simp only [Memory.wfFrom, Bool.and_eq_true, decide_eq_true_eq] at h3 ⊢
              exact ⟨⟨trivial, h3.1.2⟩, h3.2⟩
          | some l =>
            have := hl l rfl
            simp [hb]
            exact up (by omega) h3
        · cases lo with
          | none => simp [hb, Memory.wfFrom, h3]
          | some l => simp [hb, Memory.wfFrom, h3, hl l rfl]
      · simp only [Memory.wfFrom, Bool.and_eq_true]
        refine ⟨⟨h1, h2⟩, ih (some k) h3 ?_⟩
        intro l e
        cases e
        omega

theorem Memory.wf_set (m : Memory) (a : Nat) (b : Byte) (h : Memory.wf m = true) : Memory.wf (Memory.set m a b) = true :=
  Memory.wfFrom_set m a b none h (by intro l e; cases e)

/-! ## The writes of a step -/

theorem Memory.wf_apply (m : Memory) (log : List Host.Cell) (h : Memory.wf m = true) : Memory.wf (Memory.apply m log) = true := by
  induction log with
  | nil => exact h
  | cons c cs ih => exact Memory.wf_set _ _ _ ih

/-- A byte of memory after a step's writes: the latest write to it, or what it held. -/
theorem Memory.get_apply (m : Memory) (log : List Host.Cell) (a : Nat) (h : Memory.wf m = true) :
    Memory.get (Memory.apply m log) a = (logByte log a).getD (Memory.get m a) := by
  induction log with
  | nil => rfl
  | cons c cs ih =>
    obtain ⟨k, b⟩ := c
    have hw := Memory.wf_apply m cs h
    by_cases e : k = a
    · subst e
      simp only [Memory.apply, List.foldr, logByte]
      exact Memory.get_set_self _ _ _ hw
    · simp only [Memory.apply, List.foldr, logByte, e, if_false]
      rw [Memory.get_set_ne _ _ (Ne.symm e)]
      exact ih

@[simp] theorem Memory.apply_nil (m : Memory) : Memory.apply m [] = m := rfl

/-! ## Bytes as the step sees them -/

@[simp] theorem byte_putByte_self (s : State) (a : Nat) (b : Byte) : (s.putByte a b).byte a = b := by
  simp [State.byte, State.putByte, logByte]

theorem byte_putByte_ne (s : State) {a a' : Nat} (b : Byte) (h : a' ≠ a) : (s.putByte a b).byte a' = s.byte a' := by
  simp [State.byte, State.putByte, logByte, Ne.symm h]

/-- A byte after a string of bytes has been written from `a`. -/
theorem byte_putBytes (s : State) (a : Nat) (bs : List Byte) (x : Nat) :
    (s.putBytes a bs).byte x = if h : a ≤ x ∧ x < a + bs.length then bs[x - a]'(by omega) else s.byte x := by
  induction bs generalizing s a with
  | nil =>
    have h : ¬ (a ≤ x ∧ x < a + ([] : List Byte).length) := by simp only [List.length_nil]; omega
    rw [dif_neg h]
    rfl
  | cons b bs ih =>
    rw [State.putBytes, ih]
    by_cases h1 : a + 1 ≤ x ∧ x < a + 1 + bs.length
    · have h2 : a ≤ x ∧ x < a + (b :: bs).length := by simp only [List.length_cons]; omega
      rw [dif_pos h1, dif_pos h2]
      have h3 : x - a = (x - (a + 1)) + 1 := by omega
      simp only [h3, List.getElem_cons_succ]
    · rw [dif_neg h1]
      by_cases h2 : x = a
      · subst h2
        have h3 : x ≤ x ∧ x < x + (b :: bs).length := by simp only [List.length_cons]; omega
        rw [dif_pos h3]
        simp
      · have h3 : ¬ (a ≤ x ∧ x < a + (b :: bs).length) := by simp only [List.length_cons]; omega
        rw [dif_neg h3, byte_putByte_ne _ _ h2]

end Sys2Proof.Machine
end

