-- ==== Sys2Proof/Laws/Finish.lean ====
section
/-!
SUPPORT. Sys2Proof/Laws/Finish.lean: how a step ends: what `commit` and `finish` can answer.
-/

namespace Sys2Proof.Machine

@[simp] theorem commit_cycle (s t : State) : (commit s t).cycle = t.cycle := rfl
@[simp] theorem commit_mem (s t : State) : (commit s t).mem = Memory.apply s.mem t.wlog := rfl
@[simp] theorem commit_wlog (s t : State) : (commit s t).wlog = [] := rfl
@[simp] theorem commit_mod (s t : State) : (commit s t).mod = t.mod := rfl
@[simp] theorem commit_memSide (s t : State) : (commit s t).memSide = t.memSide := rfl
@[simp] theorem commit_adm (s t : State) : (commit s t).adm = t.adm := rfl
@[simp] theorem commit_fab (s t : State) : (commit s t).fab = t.fab := rfl
@[simp] theorem commit_env (s t : State) : (commit s t).env = t.env := rfl
@[simp] theorem commit_freshIx (s t : State) : (commit s t).freshIx = t.freshIx := rfl
@[simp] theorem commit_sel (s t : State) : (commit s t).sel = none := rfl
@[simp] theorem commit_agenda (s t : State) : (commit s t).agenda = t.agenda := rfl

@[simp] theorem finish_some (s t : State) : finish s (some t) = .next (commit s t) := rfl
@[simp] theorem finish_none (s : State) : finish s none = .next { s with wlog := [], sel := none } := rfl

/-- What a step can end in: the state with the step's writes in memory, or the state as it was. -/
theorem finish_cases (s : State) (o : Option State) (t : State) (h : finish s o = .next t) :
    (∃ u, o = some u ∧ t = commit s u) ∨ (o = none ∧ t = { s with wlog := [], sel := none }) := by
  cases o with
  | none => exact .inr ⟨rfl, by simpa using h.symm⟩
  | some u => exact .inl ⟨u, rfl, by simpa using h.symm⟩

/-- A step that ends through `finish` always ends in a next state. -/
theorem finish_next (s : State) (o : Option State) : ∃ t, finish s o = .next t := by
  cases o with
  | none => exact ⟨_, rfl⟩
  | some u => exact ⟨_, rfl⟩

/-- The canonical form of memory, the empty log and the empty selection hold after every step that ends through `finish`. -/
theorem finish_inv (s : State) (o : Option State) (t : State) (hw : Memory.wf s.mem = true) (h : finish s o = .next t) :
    Inv t := by
  rcases finish_cases s o t h with ⟨u, _, rfl⟩ | ⟨_, rfl⟩
  · exact ⟨Memory.wf_apply _ _ hw, rfl, rfl⟩
  · exact ⟨hw, rfl, rfl⟩

/-- A byte of memory after a step: what the step saw there last. -/
theorem get_commit (s u : State) (a : Nat) (hw : Memory.wf s.mem = true) (hm : u.mem = s.mem) :
    Memory.get (commit s u).mem a = u.byte a := by
  rw [commit_mem, Memory.get_apply _ _ _ hw, State.byte, hm]

end Sys2Proof.Machine
end

