-- ==== Sys2Proof/Laws/PerInstr.lean ====
section
/-!
SUPPORT. Sys2Proof/Laws/PerInstr.lean: the family Encoding, one lemma for each constructor of Instr: the word of an
instruction carries the opcode and the format of its own constructor, with the instruction's fields laid out by that
format (R80, R81, R91); an event has no word.
-/

namespace Sys2Proof.Laws.Encoding

/-- What the word of `i` shows of it: its format, and an opcode that the opcode map reads as the constructor of `i`. -/
def Statement (i : Instr) : Prop :=
  ∀ w, encode i = some w →
    (∃ op a, formatOf (opcodeOf w) = some .a ∧ w = encA op a ∧ ∃ mk, opcodeA (opcodeOf w) = some mk ∧ mk a = i) ∨
    (∃ op a, formatOf (opcodeOf w) = some .b ∧ w = encB op a ∧ ∃ mk, opcodeB (opcodeOf w) = some mk ∧ mk a = i) ∨
    (∃ op a, formatOf (opcodeOf w) = some .m ∧ w = encM op a ∧ ∃ mk, opcodeM (opcodeOf w) = some mk ∧ mk a = i) ∨
    (∃ op a, formatOf (opcodeOf w) = some .x ∧ w = encX op a ∧ ∃ mk, opcodeX (opcodeOf w) = some mk ∧ mk a = i) ∨
    (∃ op a, formatOf (opcodeOf w) = some .s ∧ w = encS op a ∧ ∃ mk, opcodeS (opcodeOf w) = some mk ∧ mk a = i)

theorem opcodeOf_encA (op : BitVec 8) (w : WordA) : opcodeOf (encA op w) = op.toNat := by
  refine congrArg BitVec.toNat ?_
  ext i hi
  simp only [field, BitVec.getElem_extractLsb', encA, BitVec.getLsbD_append]
  repeat rw [if_neg (by omega)]
  rw [BitVec.getLsbD_eq_getElem (by omega)]
  congr 1
  omega

theorem opcodeOf_encB (op : BitVec 8) (w : WordB) : opcodeOf (encB op w) = op.toNat := by
  refine congrArg BitVec.toNat ?_
  ext i hi
  simp only [field, BitVec.getElem_extractLsb', encB, BitVec.getLsbD_append]
  repeat rw [if_neg (by omega)]
  rw [BitVec.getLsbD_eq_getElem (by omega)]
  congr 1
  omega

theorem opcodeOf_encM (op : BitVec 8) (w : WordM) : opcodeOf (encM op w) = op.toNat := by
  refine congrArg BitVec.toNat ?_
  ext i hi
  simp only [field, BitVec.getElem_extractLsb', encM, BitVec.getLsbD_append]
  repeat rw [if_neg (by omega)]
  rw [BitVec.getLsbD_eq_getElem (by omega)]
  congr 1
  omega

theorem opcodeOf_encX (op : BitVec 8) (w : WordX) : opcodeOf (encX op w) = op.toNat := by
  refine congrArg BitVec.toNat ?_
  ext i hi
  simp only [field, BitVec.getElem_extractLsb', encX, BitVec.getLsbD_append]
  repeat rw [if_neg (by omega)]
  rw [BitVec.getLsbD_eq_getElem (by omega)]
  congr 1
  omega

theorem opcodeOf_encS (op : BitVec 8) (w : WordS) : opcodeOf (encS op w) = op.toNat := by
  refine congrArg BitVec.toNat ?_
  ext i hi
  simp only [field, BitVec.getElem_extractLsb', encS, BitVec.getLsbD_append]
  repeat rw [if_neg (by omega)]
  rw [BitVec.getLsbD_eq_getElem (by omega)]
  congr 1
  omega

theorem ofA {i : Instr} {mk : WordA → Instr} (op : BitVec 8) (w : WordA) (he : encode i = some (encA op w))
    (hf : formatOf op.toNat = some .a) (hm : opcodeA op.toNat = some mk) (hi : mk w = i) : Statement i := by
  intro x hx
  obtain rfl : encA op w = x := by simpa [he] using hx
  exact .inl ⟨op, w, by rw [opcodeOf_encA, hf], rfl, mk, by rw [opcodeOf_encA, hm], hi⟩

theorem ofB {i : Instr} {mk : WordB → Instr} (op : BitVec 8) (w : WordB) (he : encode i = some (encB op w))
    (hf : formatOf op.toNat = some .b) (hm : opcodeB op.toNat = some mk) (hi : mk w = i) : Statement i := by
  intro x hx
  obtain rfl : encB op w = x := by simpa [he] using hx
  exact .inr <| .inl ⟨op, w, by rw [opcodeOf_encB, hf], rfl, mk, by rw [opcodeOf_encB, hm], hi⟩

theorem ofM {i : Instr} {mk : WordM → Instr} (op : BitVec 8) (w : WordM) (he : encode i = some (encM op w))
    (hf : formatOf op.toNat = some .m) (hm : opcodeM op.toNat = some mk) (hi : mk w = i) : Statement i := by
  intro x hx
  obtain rfl : encM op w = x := by simpa [he] using hx
  exact .inr <| .inr <| .inl ⟨op, w, by rw [opcodeOf_encM, hf], rfl, mk, by rw [opcodeOf_encM, hm], hi⟩

theorem ofX {i : Instr} {mk : WordX → Instr} (op : BitVec 8) (w : WordX) (he : encode i = some (encX op w))
    (hf : formatOf op.toNat = some .x) (hm : opcodeX op.toNat = some mk) (hi : mk w = i) : Statement i := by
  intro x hx
  obtain rfl : encX op w = x := by simpa [he] using hx
  exact .inr <| .inr <| .inr <| .inl ⟨op, w, by rw [opcodeOf_encX, hf], rfl, mk, by rw [opcodeOf_encX, hm], hi⟩

theorem ofS {i : Instr} {mk : WordS → Instr} (op : BitVec 8) (w : WordS) (he : encode i = some (encS op w))
    (hf : formatOf op.toNat = some .s) (hm : opcodeS op.toNat = some mk) (hi : mk w = i) : Statement i := by
  intro x hx
  obtain rfl : encS op w = x := by simpa [he] using hx
  exact .inr <| .inr <| .inr <| .inr <| ⟨op, w, by rw [opcodeOf_encS, hf], rfl, mk, by rw [opcodeOf_encS, hm], hi⟩

theorem ofNone {i : Instr} (h : encode i = none) : Statement i := by
  intro x hx
  simp [h] at hx

theorem ratePointChangeDone (channel : StackChannel) : Statement (.ratePointChangeDone channel) := ofNone rfl
theorem hearthRetire (hearth : Nat) : Statement (.hearthRetire hearth) := ofNone rfl
theorem partRetire (part : Part) : Statement (.partRetire part) := ofNone rfl
theorem partRetired (part : Part) : Statement (.partRetired part) := ofNone rfl
theorem portModeWrite (port : Nat) (mode : BitVec 2) : Statement (.portModeWrite port mode) := ofNone rfl
theorem portDown (port : Nat) : Statement (.portDown port) := ofNone rfl
theorem uetPacketReceive (port : Nat) (mode : UetMode) (body : UetBody) : Statement (.uetPacketReceive port mode body) :=
  ofNone rfl
theorem chimneyFrameReceive (port stream : Nat) (rank : BitVec 8) (frame : Frame) :
    Statement (.chimneyFrameReceive port stream rank frame) := ofNone rfl
theorem remoteAccessReceive (access : RemoteAccess) (phys : Phys) : Statement (.remoteAccessReceive access phys) :=
  ofNone rfl
theorem exitedDropReport (vdev : Nat) (header : BitVec 64) : Statement (.exitedDropReport vdev header) := ofNone rfl
theorem pooledCapacityChange (place : CxlPlace) (length : Nat) (release : Bool) :
    Statement (.pooledCapacityChange place length release) := ofNone rfl
theorem rcCounterClear (agent : Agent) (offset : Nat) : Statement (.rcCounterClear agent offset) := ofNone rfl
theorem registerWrite (agent : Agent) (offset : Nat) (bytes : List Byte) :
    Statement (.registerWrite agent offset bytes) := ofNone rfl
theorem hearthSlotWrite (agent : Agent) (addr : Nat) (bytes : List Byte) :
    Statement (.hearthSlotWrite agent addr bytes) := ofNone rfl
theorem paramWindowWrite (agent : Agent) (hearth ce ctx reg : Nat) (value : BitVec 32) :
    Statement (.paramWindowWrite agent hearth ce ctx reg value) := ofNone rfl
theorem jafWindowWrite (agent : Agent) (hearth offset : Nat) (bytes : List Byte) :
    Statement (.jafWindowWrite agent hearth offset bytes) := ofNone rfl
theorem injectionWrite (agent : Agent) (hearth offset : Nat) (bytes : List Byte) :
    Statement (.injectionWrite agent hearth offset bytes) := ofNone rfl
theorem tokenArrival (index : Nat) (check : Check) : Statement (.tokenArrival index check) := ofNone rfl
theorem abortTokenArrival (bind : Nat) : Statement (.abortTokenArrival bind) := ofNone rfl
theorem eosPropagate (hearth ce ctx slot : Nat) : Statement (.eosPropagate hearth ce ctx slot) := ofNone rfl
theorem loopIssue (hearth ce ctx : Nat) : Statement (.loopIssue hearth ce ctx) := ofNone rfl
theorem chainStart (index : Nat) : Statement (.chainStart index) := ofNone rfl
theorem chainDone (chain : Chain) : Statement (.chainDone chain) := ofNone rfl
theorem streamDone (chain : Chain) : Statement (.streamDone chain) := ofNone rfl
theorem pstrmDoneEmit (hearth ce ctx slot : Nat) : Statement (.pstrmDoneEmit hearth ce ctx slot) := ofNone rfl
theorem homeAccess (target : HomeTarget) (phys : Phys) : Statement (.homeAccess target phys) := ofNone rfl
theorem portReplyLeave (id count : Nat) : Statement (.portReplyLeave id count) := ofNone rfl
theorem storeCompletion (id : Nat) : Statement (.storeCompletion id) := ofNone rfl
theorem gatherServe (id : Nat) (phys : Phys) : Statement (.gatherServe id phys) := ofNone rfl
theorem scatApply (id : Nat) (phys : Phys) : Statement (.scatApply id phys) := ofNone rfl
theorem tileSealEos (bind hearth tile : Nat) : Statement (.tileSealEos bind hearth tile) := ofNone rfl
theorem tileReadDone (id : Nat) : Statement (.tileReadDone id) := ofNone rfl
theorem tileDrainDone (hearth entry : Nat) : Statement (.tileDrainDone hearth entry) := ofNone rfl
theorem bcpyBeat (id : Nat) (phys : Phys) : Statement (.bcpyBeat id phys) := ofNone rfl
theorem bcpyComplete (id : Nat) : Statement (.bcpyComplete id) := ofNone rfl
theorem nmcStripe (id : Nat) (failing : Option (BitVec 6)) : Statement (.nmcStripe id failing) := ofNone rfl
theorem nmcComplete (id : Nat) : Statement (.nmcComplete id) := ofNone rfl
theorem tlincAdd (id : Nat) : Statement (.tlincAdd id) := ofNone rfl
theorem tlwaitRelease (id : Nat) : Statement (.tlwaitRelease id) := ofNone rfl
theorem ntfyPost (id : Nat) : Statement (.ntfyPost id) := ofNone rfl
theorem uintDeliver (vdev : Nat) : Statement (.uintDeliver vdev) := ofNone rfl
theorem lsendAck (bind stream : Nat) : Statement (.lsendAck bind stream) := ofNone rfl
theorem lrecvRun (bind stream : Nat) : Statement (.lrecvRun bind stream) := ofNone rfl
theorem rednResult (bind stream : Nat) (iter : Iter) : Statement (.rednResult bind stream iter) := ofNone rfl
theorem scaleEntry (hearth ce : Nat) : Statement (.scaleEntry hearth ce) := ofNone rfl
theorem mgathReadReturn (hearth ce : Nat) (second : Bool) (phys : Phys) :
    Statement (.mgathReadReturn hearth ce second phys) := ofNone rfl
theorem matrixEos (hearth ce ctx slot : Nat) : Statement (.matrixEos hearth ce ctx slot) := ofNone rfl
theorem jdroDrainDone (bind hearth : Nat) : Statement (.jdroDrainDone bind hearth) := ofNone rfl
theorem ieWalk (hearth : Nat) (phys : Phys) : Statement (.ieWalk hearth phys) := ofNone rfl
theorem spliceSuccessorLoad (bind hearth ce : Nat) : Statement (.spliceSuccessorLoad bind hearth ce) := ofNone rfl
theorem launchComplete (bind : Nat) : Statement (.launchComplete bind) := ofNone rfl
theorem hangDetect (bind : Nat) : Statement (.hangDetect bind) := ofNone rfl
theorem quantumExpire (bind : Nat) : Statement (.quantumExpire bind) := ofNone rfl
theorem selfPreempt (bind : Nat) : Statement (.selfPreempt bind) := ofNone rfl
theorem xsdRequest (agent : Agent) (p : Nat) (bytes : List Byte) : Statement (.xsdRequest agent p bytes) := ofNone rfl
theorem shootdownHearthAck (id hearth : Nat) : Statement (.shootdownHearthAck id hearth) := ofNone rfl
theorem shootdownComplete (id : Nat) : Statement (.shootdownComplete id) := ofNone rfl
theorem migrationRequest (agent : Agent) (p : Nat) (bytes : List Byte) : Statement (.migrationRequest agent p bytes) :=
  ofNone rfl
theorem migrationCancel (agent : Agent) (p : Nat) (bytes : List Byte) : Statement (.migrationCancel agent p bytes) :=
  ofNone rfl
theorem migrationLineCopy (id : Nat) (error : CopyError) : Statement (.migrationLineCopy id error) := ofNone rfl
theorem migrationComplete (id : Nat) : Statement (.migrationComplete id) := ofNone rfl
theorem emberWrite (agent : Agent) (frame : Nat) (value : Byte) : Statement (.emberWrite agent frame value) := ofNone rfl
theorem partitionReset (agent : Agent) (p : Nat) : Statement (.partitionReset agent p) := ofNone rfl
theorem vfReset (agent : Agent) (v : Nat) : Statement (.vfReset agent v) := ofNone rfl
theorem doorbellRing (agent : Agent) (v q : Nat) (tail : BitVec 24) : Statement (.doorbellRing agent v q tail) :=
  ofNone rfl
theorem queueOpen (agent : Agent) (v q : Nat) : Statement (.queueOpen agent v q) := ofNone rfl
theorem queueDestroy (agent : Agent) (v q : Nat) : Statement (.queueDestroy agent v q) := ofNone rfl
theorem queueClearFault (agent : Agent) (v q : Nat) : Statement (.queueClearFault agent v q) := ofNone rfl
theorem packetRead (v q : Nat) (check : Check) : Statement (.packetRead v q check) := ofNone rfl
theorem waitReread (v q : Nat) : Statement (.waitReread v q) := ofNone rfl
theorem launchListAppend (v q : Nat) : Statement (.launchListAppend v q) := ofNone rfl
theorem bindDispatch (agent : Agent) (i : Nat) (record : BitVec 256) : Statement (.bindDispatch agent i record) :=
  ofNone rfl
theorem chargeLoad (i pick : Nat) : Statement (.chargeLoad i pick) := ofNone rfl
theorem bindPreempt (agent : Agent) (i : Nat) (record : BitVec 256) : Statement (.bindPreempt agent i record) :=
  ofNone rfl
theorem bindResume (agent : Agent) (i pick : Nat) (record : BitVec 256) : Statement (.bindResume agent i pick record) :=
  ofNone rfl
theorem bindTeardown (agent : Agent) (i : Nat) (record : BitVec 256) : Statement (.bindTeardown agent i record) :=
  ofNone rfl
theorem shadowSwap (i : Nat) : Statement (.shadowSwap i) := ofNone rfl
theorem contextFrameWriteDone (i : Nat) : Statement (.contextFrameWriteDone i) := ofNone rfl
theorem deferredActivation (controller : Nat) : Statement (.deferredActivation controller) := ofNone rfl
theorem freezeStart (bind : Nat) : Statement (.freezeStart bind) := ofNone rfl
theorem freezeComplete (bind : Nat) : Statement (.freezeComplete bind) := ofNone rfl
theorem faultRecordPost (ring : Nat) : Statement (.faultRecordPost ring) := ofNone rfl
theorem faultResume (agent : Agent) (ring : Nat) (seq : BitVec 32) : Statement (.faultResume agent ring seq) := ofNone rfl
theorem faultForward (agent : Agent) (ring : Nat) (seq : BitVec 32) : Statement (.faultForward agent ring seq) :=
  ofNone rfl
theorem faultAbort (agent : Agent) (ring : Nat) (seq : BitVec 32) : Statement (.faultAbort agent ring seq) := ofNone rfl
theorem repairPass (bind : Nat) : Statement (.repairPass bind) := ofNone rfl
theorem repairPassEnd (bind : Nat) : Statement (.repairPassEnd bind) := ofNone rfl
theorem uncorrectableError (place : ErrorPlace) : Statement (.uncorrectableError place) := ofNone rfl
theorem nop (w : WordA) : Statement (.nop w) := ofA 0x00 w rfl rfl rfl rfl
theorem const (w : WordA) : Statement (.const w) := ofA 0x01 w rfl rfl rfl rfl
theorem dup (w : WordA) : Statement (.dup w) := ofA 0x02 w rfl rfl rfl rfl
theorem steer (w : WordA) : Statement (.steer w) := ofA 0x03 w rfl rfl rfl rfl
theorem merge (w : WordA) : Statement (.merge w) := ofA 0x04 w rfl rfl rfl rfl
theorem gate (w : WordA) : Statement (.gate w) := ofA 0x05 w rfl rfl rfl rfl
theorem sync (w : WordA) : Statement (.sync w) := ofA 0x06 w rfl rfl rfl rfl
theorem sink (w : WordA) : Statement (.sink w) := ofA 0x07 w rfl rfl rfl rfl
theorem eos (w : WordA) : Statement (.eos w) := ofA 0x08 w rfl rfl rfl rfl
theorem isbub (w : WordA) : Statement (.isbub w) := ofA 0x09 w rfl rfl rfl rfl
theorem trig (w : WordA) : Statement (.trig w) := ofA 0x0A w rfl rfl rfl rfl
theorem hndl (w : WordA) : Statement (.hndl w) := ofA 0x0B w rfl rfl rfl rfl
theorem loop (w : WordB) : Statement (.loop w) := ofB 0x10 w rfl rfl rfl rfl
theorem loopd (w : WordB) : Statement (.loopd w) := ofB 0x11 w rfl rfl rfl rfl
theorem lexit (w : WordB) : Statement (.lexit w) := ofB 0x12 w rfl rfl rfl rfl
theorem tchk (w : WordB) : Statement (.tchk w) := ofB 0x13 w rfl rfl rfl rfl
theorem tgset (w : WordB) : Statement (.tgset w) := ofB 0x14 w rfl rfl rfl rfl
theorem tgget (w : WordB) : Statement (.tgget w) := ofB 0x15 w rfl rfl rfl rfl
theorem scan (w : WordB) : Statement (.scan w) := ofB 0x16 w rfl rfl rfl rfl
theorem scant (w : WordB) : Statement (.scant w) := ofB 0x17 w rfl rfl rfl rfl
theorem pstrm (w : WordB) : Statement (.pstrm w) := ofB 0x18 w rfl rfl rfl rfl
theorem add (w : WordA) : Statement (.add w) := ofA 0x20 w rfl rfl rfl rfl
theorem sub (w : WordA) : Statement (.sub w) := ofA 0x21 w rfl rfl rfl rfl
theorem adds (w : WordA) : Statement (.adds w) := ofA 0x22 w rfl rfl rfl rfl
theorem subs (w : WordA) : Statement (.subs w) := ofA 0x23 w rfl rfl rfl rfl
theorem mul (w : WordA) : Statement (.mul w) := ofA 0x24 w rfl rfl rfl rfl
theorem mulh (w : WordA) : Statement (.mulh w) := ofA 0x25 w rfl rfl rfl rfl
theorem mad (w : WordA) : Statement (.mad w) := ofA 0x26 w rfl rfl rfl rfl
theorem div (w : WordA) : Statement (.div w) := ofA 0x27 w rfl rfl rfl rfl
theorem rem (w : WordA) : Statement (.rem w) := ofA 0x28 w rfl rfl rfl rfl
theorem neg (w : WordA) : Statement (.neg w) := ofA 0x29 w rfl rfl rfl rfl
theorem abs (w : WordA) : Statement (.abs w) := ofA 0x2A w rfl rfl rfl rfl
theorem min (w : WordA) : Statement (.min w) := ofA 0x2B w rfl rfl rfl rfl
theorem max (w : WordA) : Statement (.max w) := ofA 0x2C w rfl rfl rfl rfl
theorem avg (w : WordA) : Statement (.avg w) := ofA 0x2D w rfl rfl rfl rfl
theorem idx (w : WordA) : Statement (.idx w) := ofA 0x2E w rfl rfl rfl rfl
theorem idx2 (w : WordA) : Statement (.idx2 w) := ofA 0x2F w rfl rfl rfl rfl
theorem and (w : WordA) : Statement (.and w) := ofA 0x30 w rfl rfl rfl rfl
theorem or (w : WordA) : Statement (.or w) := ofA 0x31 w rfl rfl rfl rfl
theorem xor (w : WordA) : Statement (.xor w) := ofA 0x32 w rfl rfl rfl rfl
theorem andn (w : WordA) : Statement (.andn w) := ofA 0x33 w rfl rfl rfl rfl
theorem not (w : WordA) : Statement (.not w) := ofA 0x34 w rfl rfl rfl rfl
theorem shl (w : WordA) : Statement (.shl w) := ofA 0x35 w rfl rfl rfl rfl
theorem shr (w : WordA) : Statement (.shr w) := ofA 0x36 w rfl rfl rfl rfl
theorem sha (w : WordA) : Statement (.sha w) := ofA 0x37 w rfl rfl rfl rfl
theorem rot (w : WordA) : Statement (.rot w) := ofA 0x38 w rfl rfl rfl rfl
theorem clz (w : WordA) : Statement (.clz w) := ofA 0x39 w rfl rfl rfl rfl
theorem popc (w : WordA) : Statement (.popc w) := ofA 0x3A w rfl rfl rfl rfl
theorem brev (w : WordA) : Statement (.brev w) := ofA 0x3B w rfl rfl rfl rfl
theorem bfx (w : WordA) : Statement (.bfx w) := ofA 0x3C w rfl rfl rfl rfl
theorem bfi (w : WordA) : Statement (.bfi w) := ofA 0x3D w rfl rfl rfl rfl
theorem cmp (w : WordA) : Statement (.cmp w) := ofA 0x3E w rfl rfl rfl rfl
theorem sel (w : WordA) : Statement (.sel w) := ofA 0x3F w rfl rfl rfl rfl
theorem fadd (w : WordA) : Statement (.fadd w) := ofA 0x40 w rfl rfl rfl rfl
theorem fsub (w : WordA) : Statement (.fsub w) := ofA 0x41 w rfl rfl rfl rfl
theorem fmul (w : WordA) : Statement (.fmul w) := ofA 0x42 w rfl rfl rfl rfl
theorem fma (w : WordA) : Statement (.fma w) := ofA 0x43 w rfl rfl rfl rfl
theorem fnma (w : WordA) : Statement (.fnma w) := ofA 0x44 w rfl rfl rfl rfl
theorem fmin (w : WordA) : Statement (.fmin w) := ofA 0x45 w rfl rfl rfl rfl
theorem fmax (w : WordA) : Statement (.fmax w) := ofA 0x46 w rfl rfl rfl rfl
theorem fabs (w : WordA) : Statement (.fabs w) := ofA 0x47 w rfl rfl rfl rfl
theorem fneg (w : WordA) : Statement (.fneg w) := ofA 0x48 w rfl rfl rfl rfl
theorem fcmp (w : WordA) : Statement (.fcmp w) := ofA 0x49 w rfl rfl rfl rfl
theorem fclass (w : WordA) : Statement (.fclass w) := ofA 0x4A w rfl rfl rfl rfl
theorem frnd (w : WordA) : Statement (.frnd w) := ofA 0x4B w rfl rfl rfl rfl
theorem fdiv (w : WordA) : Statement (.fdiv w) := ofA 0x4C w rfl rfl rfl rfl
theorem fsqrt (w : WordA) : Statement (.fsqrt w) := ofA 0x4D w rfl rfl rfl rfl
theorem fscal (w : WordA) : Statement (.fscal w) := ofA 0x4E w rfl rfl rfl rfl
theorem fcpys (w : WordA) : Statement (.fcpys w) := ofA 0x4F w rfl rfl rfl rfl
theorem frcp (w : WordA) : Statement (.frcp w) := ofA 0x50 w rfl rfl rfl rfl
theorem frsq (w : WordA) : Statement (.frsq w) := ofA 0x51 w rfl rfl rfl rfl
theorem fex2 (w : WordA) : Statement (.fex2 w) := ofA 0x52 w rfl rfl rfl rfl
theorem flg2 (w : WordA) : Statement (.flg2 w) := ofA 0x53 w rfl rfl rfl rfl
theorem ftnh (w : WordA) : Statement (.ftnh w) := ofA 0x54 w rfl rfl rfl rfl
theorem fsgm (w : WordA) : Statement (.fsgm w) := ofA 0x55 w rfl rfl rfl rfl
theorem fsin (w : WordA) : Statement (.fsin w) := ofA 0x56 w rfl rfl rfl rfl
theorem fcos (w : WordA) : Statement (.fcos w) := ofA 0x57 w rfl rfl rfl rfl
theorem fsilu (w : WordA) : Statement (.fsilu w) := ofA 0x58 w rfl rfl rfl rfl
theorem cvt (w : WordA) : Statement (.cvt w) := ofA 0x60 w rfl rfl rfl rfl
theorem cvto (w : WordA) : Statement (.cvto w) := ofA 0x61 w rfl rfl rfl rfl
theorem cvtl (w : WordA) : Statement (.cvtl w) := ofA 0x62 w rfl rfl rfl rfl
theorem pack (w : WordA) : Statement (.pack w) := ofA 0x63 w rfl rfl rfl rfl
theorem unpk (w : WordA) : Statement (.unpk w) := ofA 0x64 w rfl rfl rfl rfl
theorem scac (w : WordA) : Statement (.scac w) := ofA 0x65 w rfl rfl rfl rfl
theorem scale (w : WordA) : Statement (.scale w) := ofA 0x66 w rfl rfl rfl rfl
theorem cbdec (w : WordA) : Statement (.cbdec w) := ofA 0x67 w rfl rfl rfl rfl
theorem key (w : WordA) : Statement (.key w) := ofA 0x68 w rfl rfl rfl rfl
theorem vsum (w : WordA) : Statement (.vsum w) := ofA 0x70 w rfl rfl rfl rfl
theorem vmax (w : WordA) : Statement (.vmax w) := ofA 0x71 w rfl rfl rfl rfl
theorem vmin (w : WordA) : Statement (.vmin w) := ofA 0x72 w rfl rfl rfl rfl
theorem vand (w : WordA) : Statement (.vand w) := ofA 0x73 w rfl rfl rfl rfl
theorem vor (w : WordA) : Statement (.vor w) := ofA 0x74 w rfl rfl rfl rfl
theorem vscn (w : WordA) : Statement (.vscn w) := ofA 0x75 w rfl rfl rfl rfl
theorem vspl (w : WordA) : Statement (.vspl w) := ofA 0x76 w rfl rfl rfl rfl
theorem vcat (w : WordA) : Statement (.vcat w) := ofA 0x77 w rfl rfl rfl rfl
theorem pand (w : WordA) : Statement (.pand w) := ofA 0x78 w rfl rfl rfl rfl
theorem por (w : WordA) : Statement (.por w) := ofA 0x79 w rfl rfl rfl rfl
theorem pxor (w : WordA) : Statement (.pxor w) := ofA 0x7A w rfl rfl rfl rfl
theorem pnot (w : WordA) : Statement (.pnot w) := ofA 0x7B w rfl rfl rfl rfl
theorem pcnt (w : WordA) : Statement (.pcnt w) := ofA 0x7C w rfl rfl rfl rfl
theorem rdfl (w : WordA) : Statement (.rdfl w) := ofA 0x7D w rfl rfl rfl rfl
theorem clfl (w : WordA) : Statement (.clfl w) := ofA 0x7E w rfl rfl rfl rfl
theorem ld (w : WordM) : Statement (.ld w) := ofM 0x80 w rfl rfl rfl rfl
theorem st (w : WordM) : Statement (.st w) := ofM 0x81 w rfl rfl rfl rfl
theorem lds (w : WordM) : Statement (.lds w) := ofM 0x82 w rfl rfl rfl rfl
theorem sts (w : WordM) : Statement (.sts w) := ofM 0x83 w rfl rfl rfl rfl
theorem atom (w : WordM) : Statement (.atom w) := ofM 0x84 w rfl rfl rfl rfl
theorem cas (w : WordM) : Statement (.cas w) := ofM 0x85 w rfl rfl rfl rfl
theorem gath (w : WordM) : Statement (.gath w) := ofM 0x86 w rfl rfl rfl rfl
theorem scat (w : WordM) : Statement (.scat w) := ofM 0x87 w rfl rfl rfl rfl
theorem tld (w : WordM) : Statement (.tld w) := ofM 0x88 w rfl rfl rfl rfl
theorem tst (w : WordM) : Statement (.tst w) := ofM 0x89 w rfl rfl rfl rfl
theorem tqry (w : WordM) : Statement (.tqry w) := ofM 0x8A w rfl rfl rfl rfl
theorem tclr (w : WordM) : Statement (.tclr w) := ofM 0x8B w rfl rfl rfl rfl
theorem crd (w : WordM) : Statement (.crd w) := ofM 0x8C w rfl rfl rfl rfl
theorem cwr (w : WordM) : Statement (.cwr w) := ofM 0x8D w rfl rfl rfl rfl
theorem zbmp (w : WordM) : Statement (.zbmp w) := ofM 0x8E w rfl rfl rfl rfl
theorem pfch (w : WordM) : Statement (.pfch w) := ofM 0x8F w rfl rfl rfl rfl
theorem bcpy (w : WordM) : Statement (.bcpy w) := ofM 0x90 w rfl rfl rfl rfl
theorem nmc (w : WordM) : Statement (.nmc w) := ofM 0x91 w rfl rfl rfl rfl
theorem place (w : WordM) : Statement (.place w) := ofM 0x92 w rfl rfl rfl rfl
theorem fjoin (w : WordM) : Statement (.fjoin w) := ofM 0x93 w rfl rfl rfl rfl
theorem tlinc (w : WordM) : Statement (.tlinc w) := ofM 0x94 w rfl rfl rfl rfl
theorem tlwait (w : WordM) : Statement (.tlwait w) := ofM 0x95 w rfl rfl rfl rfl
theorem tlrd (w : WordM) : Statement (.tlrd w) := ofM 0x96 w rfl rfl rfl rfl
theorem ntfy (w : WordM) : Statement (.ntfy w) := ofM 0x97 w rfl rfl rfl rfl
theorem lsend (w : WordM) : Statement (.lsend w) := ofM 0x98 w rfl rfl rfl rfl
theorem lrecv (w : WordM) : Statement (.lrecv w) := ofM 0x99 w rfl rfl rfl rfl
theorem redn (w : WordM) : Statement (.redn w) := ofM 0x9A w rfl rfl rfl rfl
theorem mlat (w : WordX) : Statement (.mlat w) := ofX 0xA0 w rfl rfl rfl rfl
theorem mgath (w : WordX) : Statement (.mgath w) := ofX 0xA1 w rfl rfl rfl rfl
theorem mma (w : WordX) : Statement (.mma w) := ofX 0xA2 w rfl rfl rfl rfl
theorem mmas (w : WordX) : Statement (.mmas w) := ofX 0xA3 w rfl rfl rfl rfl
theorem mout (w : WordX) : Statement (.mout w) := ofX 0xA4 w rfl rfl rfl rfl
theorem mzer (w : WordX) : Statement (.mzer w) := ofX 0xA5 w rfl rfl rfl rfl
theorem mcbt (w : WordX) : Statement (.mcbt w) := ofX 0xA6 w rfl rfl rfl rfl
theorem jinit (w : WordX) : Statement (.jinit w) := ofX 0xB0 w rfl rfl rfl rfl
theorem jwin (w : WordX) : Statement (.jwin w) := ofX 0xB1 w rfl rfl rfl rfl
theorem jadd (w : WordX) : Statement (.jadd w) := ofX 0xB2 w rfl rfl rfl rfl
theorem jprd (w : WordX) : Statement (.jprd w) := ofX 0xB3 w rfl rfl rfl rfl
theorem jmatch (w : WordX) : Statement (.jmatch w) := ofX 0xB4 w rfl rfl rfl rfl
theorem jprobe (w : WordX) : Statement (.jprobe w) := ofX 0xB5 w rfl rfl rfl rfl
theorem jdro (w : WordX) : Statement (.jdro w) := ofX 0xB6 w rfl rfl rfl rfl
theorem jdrh (w : WordX) : Statement (.jdrh w) := ofX 0xB7 w rfl rfl rfl rfl
theorem jmrg (w : WordX) : Statement (.jmrg w) := ofX 0xB8 w rfl rfl rfl rfl
theorem jstat (w : WordX) : Statement (.jstat w) := ofX 0xB9 w rfl rfl rfl rfl
theorem iwalk (w : WordX) : Statement (.iwalk w) := ofX 0xBA w rfl rfl rfl rfl
theorem ibal (w : WordX) : Statement (.ibal w) := ofX 0xBB w rfl rfl rfl rfl
theorem trap (w : WordS) : Statement (.trap w) := ofS 0xC0 w rfl rfl rfl rfl
theorem halt (w : WordS) : Statement (.halt w) := ofS 0xC1 w rfl rfl rfl rfl
theorem yield (w : WordS) : Statement (.yield w) := ofS 0xC2 w rfl rfl rfl rfl
theorem splice (w : WordS) : Statement (.splice w) := ofS 0xC3 w rfl rfl rfl rfl
theorem launch (w : WordS) : Statement (.launch w) := ofS 0xC4 w rfl rfl rfl rfl
theorem rdctl (w : WordS) : Statement (.rdctl w) := ofS 0xC5 w rfl rfl rfl rfl
theorem cksum (w : WordS) : Statement (.cksum w) := ofS 0xC6 w rfl rfl rfl rfl
theorem inServiceRepair (repair : Repair) : Statement (.inServiceRepair repair) := ofNone rfl
theorem portOrCoreRetire (part : Part) : Statement (.portOrCoreRetire part) := ofNone rfl
theorem moduleReset : Statement .moduleReset := ofNone rfl
theorem recoveryImageReceive : Statement .recoveryImageReceive := ofNone rfl
theorem bellowsTick : Statement .bellowsTick := ofNone rfl
theorem coolantThresholdCross : Statement .coolantThresholdCross := ofNone rfl
theorem emberHalve : Statement .emberHalve := ofNone rfl
theorem bucketRefill : Statement .bucketRefill := ofNone rfl

end Sys2Proof.Laws.Encoding
end

