-- ==== Sys2Proof/Laws/Quiet.lean ====
section
/-!
SUPPORT. Sys2Proof/Laws/Quiet.lean: while the world holds no miss and no check result for the accesses that no event carries
(assumption entry 113), such an access leaves no trace beside what it reads or stores.
-/

namespace Sys2Proof.Machine

@[simp] theorem missAt_quiet (s : State) (ma n : Nat) (ember : Bool) (part : Nat) (h : s.env.misses = []) :
    s.missAt ma n ember part = s := by
  simp [State.missAt, h]

@[simp] theorem missVia_quiet (s : State) (aspace va n : Nat) (h : s.env.misses = []) : s.missVia aspace va n = s := by
  simp [State.missVia, h]

@[simp] theorem stokerStore_quiet (s : State) (ma : Nat) (bs : List Byte) (h : s.env.misses = []) :
    s.stokerStore ma bs = s.storeHome ma bs := by
  simp [State.stokerStore, h]

@[simp] theorem stokerStoreVia_quiet (s : State) (aspace va ma : Nat) (bs : List Byte) (h : s.env.misses = []) :
    s.stokerStoreVia aspace va ma bs = s.storeHome ma bs := by
  simp [State.stokerStoreVia, h]

@[simp] theorem checkBeats_quiet (s : State) (ma n : Nat) (h : s.env.checks = []) : s.checkBeats ma n = s := by
  simp [State.checkBeats, h]

@[simp] theorem noteReadAt_quiet (s : State) (ma n : Nat) (ember : Bool) (part : Nat) (hc : s.env.checks = [])
    (hm : s.env.misses = []) : s.noteReadAt ma n ember part = s := by
  simp [State.noteReadAt, hc, hm]

@[simp] theorem noteRead_quiet (s : State) (aspace va n : Nat) (hc : s.env.checks = []) (hm : s.env.misses = []) :
    s.noteRead aspace va n = s := by
  simp [State.noteRead, hc, hm]

end Sys2Proof.Machine
end

