-- ==== Sys2Proof/Laws/Table.lean ====
section
/-!
SUPPORT. Sys2Proof/Laws/Table.lean: reading a table after a change of it.
-/

namespace Sys2Proof.Machine

variable {α : Type}

@[simp] theorem Table.get?_nil (k : Nat) : Table.get? ([] : Table α) k = none := rfl

@[simp] theorem Table.get?_put_self (t : Table α) (k : Nat) (v : α) : Table.get? (Table.put t k v) k = some v := by
  induction t with
  | nil => simp [Table.put, Table.get?]
  | cons x xs ih =>
    obtain ⟨j, w⟩ := x
    unfold Table.put
    split
    · simp [Table.get?]
    · split
      · simp [Table.get?]
      · rename_i h _
        simp [Table.get?, h, ih]

theorem Table.get?_put_ne (t : Table α) {k j : Nat} (v : α) (h : j ≠ k) :
    Table.get? (Table.put t k v) j = Table.get? t j := by
  induction t with
  | nil => simp [Table.put, Table.get?, Ne.symm h]
  | cons x xs ih =>
    obtain ⟨i, w⟩ := x
    unfold Table.put
    split
    · rename_i e
      subst e
      simp [Table.get?, Ne.symm h]
    · split
      · simp [Table.get?, Ne.symm h]
      · by_cases e : i = j <;> simp [Table.get?, e, ih]

@[simp] theorem Table.getD_put_self (t : Table α) (k : Nat) (v d : α) : Table.getD (Table.put t k v) k d = v := by
  simp [Table.getD]

theorem Table.getD_put_ne (t : Table α) {k j : Nat} (v d : α) (h : j ≠ k) :
    Table.getD (Table.put t k v) j d = Table.getD t j d := by
  simp [Table.getD, Table.get?_put_ne t v h]

@[simp] theorem Table.getD_update_self (t : Table α) (k : Nat) (d : α) (f : α → α) :
    Table.getD (Table.update t k d f) k d = f (Table.getD t k d) := by
  simp [Table.update]

theorem Table.getD_update_ne (t : Table α) {k j : Nat} (d : α) (f : α → α) (h : j ≠ k) :
    Table.getD (Table.update t k d f) j d = Table.getD t j d := by
  simp [Table.update, Table.getD_put_ne t _ d h]

@[simp] theorem Table.get?_modify_self (t : Table α) (k : Nat) (f : α → α) :
    Table.get? (Table.modify t k f) k = (Table.get? t k).map f := by
  unfold Table.modify
  cases h : Table.get? t k <;> simp [h]

theorem Table.get?_modify_ne (t : Table α) {k j : Nat} (f : α → α) (h : j ≠ k) :
    Table.get? (Table.modify t k f) j = Table.get? t j := by
  unfold Table.modify
  cases Table.get? t k with
  | none => rfl
  | some v => simp [Table.get?_put_ne t _ h]

end Sys2Proof.Machine
end

