-- ==== Sys2Proof/WellFormed.lean ====
section
/-!
DEFINITION. Sys2Proof/WellFormed.lean: which terms of Instr stand for something of this module: an instruction word that
the load-time checks accept as far as the word alone decides (R80 to R92), and an event whose numbers name units, registers
and requests that a module has.
-/

namespace Sys2Proof

open Sys2Proof.Machine

/-- What a well-formed term must meet; `check` names the first failure. -/
inductive WfError where
  /-- a word refused by R93's step 3, with R94's bit and R95's code -/
  | word (bit code : Nat)
  /-- a matrix word whose operand formats do not go together (R243) -/
  | pair (bit code : Nat)
  /-- a hearth number of 168 or more (R10) -/
  | hearth
  /-- a CE number of 48 or more (R11) -/
  | ce
  /-- a context number of 16 or more (R44) -/
  | context
  /-- a block-local slot of 128 or more (R47) -/
  | slot
  /-- a slot-table index of 1024 or more (R335) -/
  | bind
  /-- a virtual device of 1024 or more, or a queue of 256 or more (R323, R327) -/
  | device
  /-- a partition of 255 or more (R322) -/
  | partition
  /-- an Ultra Ethernet port of 24 or more (R12) -/
  | port
  /-- a stack of 12 or more, or another part that the module does not have -/
  | part
  /-- a stream number of 256 or more (R234) -/
  | stream
  /-- an address outside what the event reaches -/
  | address
  /-- a unit number of 16 or more within its hearth (R11) -/
  | unit
  deriving DecidableEq, Repr

def below (n bound : Nat) (e : WfError) : List WfError := if n < bound then [] else [e]

def checkWordOf (i : Instr) : List WfError :=
  match encode i with
  | none => []
  | some w =>
    match checkWord none w with
    | some f => [.word f.bit f.code]
    | none => match firstFailure (checkPair w.toNat) with
      | some f => [.pair f.bit f.code]
      | none => []

def checkPlace (h e c : Nat) : List WfError := below h 168 .hearth ++ below e 48 .ce ++ below c 16 .context

def checkPart : Part → List WfError
  | .stack n => below n 12 .part
  | .bulk n => below n 12 .part
  | .uet n => below n 24 .part
  | .cxl n => below n 4 .part
  | .core n => below n 22 .part

def checkAgent : Agent → List WfError
  | .wholesaler => []
  | .reseller p => below p 255 .partition
  | .tenant v => below v 1024 .device
  | .core c => below c 22 .part

def checkQueue (a : Agent) (v q : Nat) : List WfError := checkAgent a ++ below v 1024 .device ++ below q 256 .device

def checkChain : Chain → List WfError
  | .ag h n b => below h 168 .hearth ++ below n 16 .unit ++ below b 1024 .bind
  | .mt h n b => below h 168 .hearth ++ below n 16 .unit ++ below b 1024 .bind
  | .mx h e b => below h 168 .hearth ++ below e 48 .ce ++ below b 1024 .bind

/-- What keeps a term from being well formed, in order. -/
def Instr.check (i : Instr) : List WfError :=
  checkWordOf i ++
  (match i with
   | .ratePointChangeDone k => below k.stack 12 .part
   | .hearthRetire h => below h 168 .hearth
   | .partRetire p | .partRetired p | .portOrCoreRetire p => checkPart p
   | .portModeWrite n _ | .portDown n | .uetPacketReceive n _ _ => below n 24 .port
   | .chimneyFrameReceive n k _ _ => below n 24 .port ++ below k 256 .stream
   | .exitedDropReport v _ | .uintDeliver v => below v 1024 .device
   | .rcCounterClear a _ | .registerWrite a _ _ | .hearthSlotWrite a _ _ | .emberWrite a _ _ => checkAgent a
   | .paramWindowWrite a h e c g _ => checkAgent a ++ checkPlace h e c ++ below g 64 .address
   | .jafWindowWrite a h _ _ | .injectionWrite a h _ _ => checkAgent a ++ below h 168 .hearth
   | .abortTokenArrival b | .launchComplete b | .hangDetect b | .quantumExpire b | .selfPreempt b | .freezeStart b
   | .freezeComplete b | .repairPass b | .repairPassEnd b | .chargeLoad b _ | .shadowSwap b
   | .contextFrameWriteDone b => below b 1024 .bind
   | .eosPropagate h e c sl | .pstrmDoneEmit h e c sl | .matrixEos h e c sl =>
     checkPlace h e c ++ below sl 128 .slot
   | .loopIssue h e c => checkPlace h e c
   | .chainDone c | .streamDone c => checkChain c
   | .tileSealEos b h t => below b 1024 .bind ++ below h 168 .hearth ++ below t 128 .unit
   | .tileDrainDone h t => below h 168 .hearth ++ below t 128 .unit
   | .scaleEntry h e | .mgathReadReturn h e _ _ => checkPlace h e 0
   | .jdroDrainDone b h => below b 1024 .bind ++ below h 168 .hearth
   | .ieWalk h _ => below h 168 .hearth
   | .spliceSuccessorLoad b h e => below b 1024 .bind ++ checkPlace h e 0
   | .lsendAck b k | .lrecvRun b k | .rednResult b k _ => below b 1024 .bind ++ below k 256 .stream
   | .xsdRequest a p _ | .migrationRequest a p _ | .migrationCancel a p _ => checkAgent a ++ below p 256 .partition
   | .partitionReset a p => checkAgent a ++ below p 255 .partition
   | .vfReset a v => checkAgent a ++ below v 1024 .device
   | .doorbellRing a v q _ | .queueOpen a v q | .queueDestroy a v q | .queueClearFault a v q => checkQueue a v q
   | .packetRead v q _ | .waitReread v q | .launchListAppend v q => below v 1024 .device ++ below q 256 .device
   | .bindDispatch a b _ | .bindPreempt a b _ | .bindResume a b _ _ | .bindTeardown a b _ =>
     checkAgent a ++ below b 1024 .bind
   | .deferredActivation c => below c 28 .part
   | .faultRecordPost n => below n 256 .partition
   | .faultResume a n _ | .faultForward a n _ | .faultAbort a n _ => checkAgent a ++ below n 256 .partition
   | _ => [])

/-- A term that stands for something of this module. -/
def Instr.wf (i : Instr) : Bool := i.check.isEmpty

end Sys2Proof
end

