-- ==== Sys2Proof/Tests/Slice0.lean ====
section
/-!
SUPPORT. Sys2Proof/Tests/Slice0.lean: checks of the model on values that the spec gives or that follow from it by hand, and a
witness for the hypotheses of each statement.
-/

set_option Elab.async false

namespace Sys2Proof.Tests

open Sys2Proof Sys2Proof.Machine Sys2Proof.Claim

/-! ## Terms that are not well formed -/

/-- A format A word with plain fields: arity 2, consumer 1 at slot 1 port L. -/
def wa (f : Fmt) : WordA :=
  { fmt := f, arity := 2, tagop := .same, cons1 := { slot := 1, port := 0 }, cons2 := { slot := 0, port := 3 }, nf := false,
    mode := 0, sat := false, inv := false, isel := 0, imm := 0 }

def wb (f : Fmt) : WordB :=
  { fmt := f, arity := 2, subop := 0, cons1 := { slot := 1, port := 0 }, cons2 := { slot := 0, port := 3 }, fsel := 3,
    inv := false, isel := 0, imm := 0 }

def wm (f : Fmt) (arity : BitVec 2) : WordM :=
  { fmt := f, arity := arity, scope := .h, cons1 := { slot := 1, port := 0 }, cons2 := { slot := 0, port := 3 }, region := 0,
    chan := false, cmpl := false, op := 0, fpol := false, aux := 0 }

def wx (f g : Fmt) : WordX :=
  { fmtA := f, fmtB := g, acc64 := false, cons1 := { slot := 1, port := 0 }, cons2 := { slot := 0, port := 3 }, sel := 4,
    scl := 0, region := 0, pidx := 0, arity := 1, nf := false }

def ws (arity : BitVec 2) : WordS :=
  { fmt := .n32, arity := arity, scope := .e, cons1 := { slot := 1, port := 0 }, cons2 := { slot := 0, port := 3 }, code := 0,
    region := 0, inv := false, queue := 0 }

theorem test_wf_accepts : Instr.wf (.add (wa .s32)) = true ∧ Instr.wf (.hangDetect 1023) = true := by decide

/-- ADD of a floating format is refused. -/
theorem test_wf_word : Instr.wf (.add (wa .f32)) = false := by decide

theorem test_wf_pair : (Instr.mma { wx .f16 .e4m3 with cons1 := { slot := 0, port := 3 } }).wf = false := by decide
theorem test_wf_hearth : (Instr.hearthRetire 168).check = [.hearth] := by decide
theorem test_wf_ce : (Instr.scaleEntry 167 48).check = [.ce] := by decide
theorem test_wf_context : (Instr.loopIssue 167 47 16).check = [.context] := by decide
theorem test_wf_slot : (Instr.matrixEos 0 0 15 128).check = [.slot] := by decide
theorem test_wf_bind : (Instr.freezeStart 1024).check = [.bind] := by decide
theorem test_wf_device : (Instr.packetRead 1023 256 .good).check = [.device] := by decide
theorem test_wf_partition : (Instr.partitionReset .wholesaler 255).check = [.partition] := by decide
theorem test_wf_port : (Instr.portDown 24).check = [.port] := by decide
theorem test_wf_part : (Instr.ratePointChangeDone { stack := 12, index := 0 }).check = [.part] := by decide
theorem test_wf_stream : (Instr.lsendAck 0 256).check = [.stream] := by decide
theorem test_wf_address : (Instr.paramWindowWrite .wholesaler 0 0 0 64 0).check = [.address] := by decide
theorem test_wf_unit : (Instr.tileDrainDone 0 128).check = [.unit] := by decide

/-! ## Words written out by the spec's encoding tables (R80 to R92), one or more of each family -/

/-- R96's FMUL.f32 L, 0.5 -> acc.R: opcode 0x42, fmt 0xC, arity 2, consumer 1 slot 9 port R, no consumer 2, isel 2. -/
theorem test_decode_fmul : decodeTableWord 64 0x42C809406047E000 = some (.fmul
    { wa .f32 with cons1 := { slot := 9, port := 1 }, isel := 2, imm := 0x7E000 }) := by decide

theorem test_decode_gate : decodeTableWord 64 0x05C88C4060000000 = some (.gate
    { wa .f32 with tagop := .inc, cons1 := { slot := 12, port := 1 } }) := by decide

theorem test_decode_hndl : decodeTableWord 64 0x0B54184060000001 = some (.hndl
    { wa .n32 with arity := 1, cons1 := { slot := 24, port := 1 }, imm := 1 }) := by decide

theorem test_decode_tchk : decodeTableWord 64 0x13C80E0788400007 = some (.tchk
    { wb .f32 with cons1 := { slot := 14, port := 0 }, cons2 := { slot := 15, port := 0 }, fsel := 1, isel := 2, imm := 7 }) := by
  decide

theorem test_decode_tgset : decodeTableWord 64 0x1458080110400001 = some (.tgset
    { wb .n32 with cons1 := { slot := 8, port := 0 }, cons2 := { slot := 2, port := 0 }, fsel := 2, isel := 2, imm := 1 }) := by
  decide

theorem test_decode_cmp : decodeTableWord 64 0x3E58044064600000 = some (.cmp
    { wa .n32 with cons1 := { slot := 4, port := 1 }, mode := 2, isel := 3 }) := by decide

theorem test_decode_bfi : decodeTableWord 64 0x3D58190060001206 = some (.bfi
    { wa .n32 with cons1 := { slot := 25, port := 0 }, imm := 0x1206 }) := by decide

theorem test_decode_unpk : decodeTableWord 64 0x6414090060000000 = some (.unpk
    { wa .n8 with arity := 1, cons1 := { slot := 9, port := 0 } }) := by decide

theorem test_decode_lds : decodeTableWord 64 0x82C4864062C00000 = some (.lds
    { wm .f32 1 with cons1 := { slot := 6, port := 1 }, region := 5, chan := true }) := by decide

theorem test_decode_atom : decodeTableWord 64 0x84C9890061800000 = some (.atom
    { wm .f32 2 with scope := .m, cons1 := { slot := 9, port := 0 }, region := 3 }) := by decide

theorem test_decode_nmc : decodeTableWord 64 0x91C9840700A20000 = some (.nmc
    { wm .f32 2 with scope := .m, cons1 := { slot := 4, port := 0 }, cons2 := { slot := 14, port := 0 }, region := 1,
                     cmpl := true, op := 1 }) := by decide

theorem test_decode_bcpy : decodeTableWord 64 0x90798D0060800001 = some (.bcpy
    { wm .n64 2 with scope := .m, cons1 := { slot := 13, port := 0 }, region := 1, aux := 1 }) := by decide

theorem test_decode_mmas : decodeTableWord 64 0xA388140064400100 = some (.mmas
    { wx .e4m3 .e4m3 with cons1 := { slot := 20, port := 0 }, scl := 1 }) := by decide

theorem test_decode_mout : decodeTableWord 64 0xA4AA1C0F24000100 = some (.mout
    { wx .f16 .f16 with cons1 := { slot := 28, port := 0 }, cons2 := { slot := 30, port := 1 } }) := by decide

theorem test_decode_jadd : decodeTableWord 64 0xB27C050060000200 = some (.jadd
    { wx .n64 .f32 with cons1 := { slot := 5, port := 0 }, sel := 0, arity := 2 }) := by decide

theorem test_decode_iwalk : decodeTableWord 64 0xBA50070060010100 = some (.iwalk
    { wx .n32 .s8 with cons1 := { slot := 7, port := 0 }, sel := 0, region := 1 }) := by decide

/-- TRAP.n32 L with code 5, by R90: opcode 0xC0, fmt 0x5, arity 1, no consumers, code at bit 21. -/
theorem test_decode_trap : decodeTableWord 64 (0xC0 * 2 ^ 56 + 5 * 2 ^ 52 + 1 * 2 ^ 50 + 3 * 2 ^ 38 + 3 * 2 ^ 29 + 5 * 2 ^ 21) =
    some (.trap { ws 1 with cons1 := { slot := 0, port := 3 }, code := 5 }) := by decide

/-- A reserved opcode, a reserved tag operation, a reserved scope and a reserved bit are no instruction. -/
theorem test_decode_refuses : decodeTableWord 64 (0x0C * 2 ^ 56) = none ∧ decodeTableWord 64 (0x20 * 2 ^ 56 + 6 * 2 ^ 47) = none ∧
    decodeTableWord 64 (0x80 * 2 ^ 56 + 5 * 2 ^ 47) = none ∧ decodeTableWord 64 (0x10 * 2 ^ 56 + 2 ^ 24) = none := by decide

/-! ## One firing of one word -/

/-- A state in which a firing with positions `pos` stands selected in context 0 of CE 0 of hearth 0, for a charge of one
block. -/
def fired (pos : List FPos) : State :=
  let f : Firing := { probeFiring with pos := pos }
  { State.reset with
    fab := { Fab.reset with charges := [(0, probeCharge 0)], ctxs := [(0, { CeCtx.reset 0 0 0 0 with ready := [f] })] }
    sel := some (.firing 0 0 0 f) }

/-- The firing of `fired`. -/
def fireOf (pos : List FPos) : Fire :=
  let f : Firing := { probeFiring with pos := pos }
  { hearth := 0, ce := 0, ctx := 0, f := f, cc := { CeCtx.reset 0 0 0 0 with ready := [f] }, ch := probeCharge 0,
    blk := { shape := 0, first := 0, header := 0, words := [0] } }

/-- One position with tag 0 and three operands. -/
def pos1 (l r : Nat) : List FPos :=
  [{ iter := 0, l := some (BitVec.ofNat 128 l), r := some (BitVec.ofNat 128 r), p := some 1 }]

/-- Positions from tag `it` on, with the payloads of `l` and `r`. -/
def posN (it : Nat) (l r : List Nat) : List FPos :=
  (l.zip r).zipIdx.map fun (x, i) =>
    { iter := BitVec.ofNat 24 (it + i), l := some (BitVec.ofNat 128 x.1), r := some (BitVec.ofNat 128 x.2), p := some 1 }

/-- Tokens put in transit: slot, first tag and payloads of each. -/
def sent (o : Host.Outcome State Fault Refusal) : List (Nat × Nat × List Nat) :=
  match o with
  | .next t => t.fab.transit.map fun k => (k.slot, k.iter.toNat, k.vals.map BitVec.toNat)
  | _ => []

def run (i : Instr) (pos : List FPos) : List (Nat × Nat × List Nat) := sent (exec i (fired pos))

/-- The flags of a context's entry 0 after a firing. -/
def flagsOf (i : Instr) (pos : List FPos) : Option (BitVec 5) :=
  match exec i (fired pos) with
  | .next t => ((t.ctx? 0 0 0).map fun c => c.flags.getD 0 0)
  | _ => none

/-! ### Integer words -/

theorem test_neg : run (.neg { wa .n32 with arity := 1 }) (pos1 5 0) = [(1, 0, [0xFFFFFFFB])] := by decide
theorem test_neg_sat : run (.neg { wa .n32 with arity := 1, sat := true }) (pos1 5 0) = [(1, 0, [0])] := by decide
theorem test_abs : run (.abs { wa .s8 with arity := 1 }) (pos1 0x80 0) = [(1, 0, [0x80])] := by decide
theorem test_abs_sat : run (.abs { wa .s8 with arity := 1, sat := true }) (pos1 0x80 0) = [(1, 0, [127])] := by decide
theorem test_add_wraps : run (.add (wa .n8)) (pos1 200 100) = [(1, 0, [44])] := by decide
theorem test_add_clamps : run (.add { wa .n8 with sat := true }) (pos1 200 100) = [(1, 0, [255])] := by decide
theorem test_sub_sub8 : run (.sub { wa .n32 with mode := 1 }) (pos1 0x01000203 0x02000104) = [(1, 0, [0xFF0001FF])] := by decide
theorem test_mul_clamps : run (.mul { wa .s16 with sat := true }) (pos1 0x4000 4) = [(1, 0, [32767])] := by decide
theorem test_mulh : run (.mulh (wa .n32)) (pos1 0x80000000 6) = [(1, 0, [3])] := by decide
theorem test_avg_rounds_up : run (.avg (wa .n32)) (pos1 4 7) = [(1, 0, [6])] := by decide
theorem test_min_signed : run (.min (wa .s32)) (pos1 0xFFFFFFFF 1) = [(1, 0, [0xFFFFFFFF])] := by decide
theorem test_max_unsigned : run (.max (wa .n32)) (pos1 0xFFFFFFFF 1) = [(1, 0, [0xFFFFFFFF])] := by decide
theorem test_adds_carry : run (.adds { wa .n8 with cons2 := { slot := 2, port := 0 } }) (pos1 200 100) =
    [(1, 0, [44]), (2, 0, [1])] := by decide
theorem test_subs_borrow : run (.subs { wa .n32 with cons2 := { slot := 2, port := 0 } }) (pos1 3 5) =
    [(1, 0, [0xFFFFFFFE]), (2, 0, [1])] := by decide
theorem test_div_by_zero : run (.div (wa .s32)) (pos1 7 0) = [(1, 0, [0xFFFFFFFF])] := by decide
theorem test_div_corner : run (.div { wa .s32 with sat := true }) (pos1 0x80000000 0xFFFFFFFF) = [(1, 0, [0x7FFFFFFF])] := by
  decide
theorem test_rem_sign : run (.rem (wa .s32)) (pos1 0xFFFFFFF9 2) = [(1, 0, [0xFFFFFFFF])] := by decide
theorem test_idx : run (.idx (wa .n32)) (pos1 0x00030004 10) = [(1, 0, [34])] := by decide
theorem test_idx2 : run (.idx2 (wa .n32)) (pos1 34 10) = [(1, 0, [0x00030004])] := by decide

/-! ### Logic, shifts, fields -/

theorem test_andn : run (.andn (wa .n8)) (pos1 0xFF 0x0F) = [(1, 0, [0xF0])] := by decide
theorem test_xor : run (.xor (wa .n16)) (pos1 0xFF00 0x0FF0) = [(1, 0, [0xF0F0])] := by decide
theorem test_not : run (.not { wa .n8 with arity := 1 }) (pos1 0x0F 0) = [(1, 0, [0xF0])] := by decide

/-- The worked case of R156. -/
theorem test_sha_sub8 : run (.sha { wa .s32 with mode := 1 }) (pos1 0x80402010 0x09080701) = [(1, 0, [0xFF000008])] := by decide
theorem test_shl_never_masks : run (.shl (wa .n32)) (pos1 1 32) = [(1, 0, [0])] := by decide
theorem test_shr : run (.shr (wa .s32)) (pos1 0x80000000 31) = [(1, 0, [1])] := by decide
theorem test_rot : run (.rot (wa .n8)) (pos1 0x81 9) = [(1, 0, [0x03])] := by decide
theorem test_clz_zero : run (.clz { wa .n16 with arity := 1 }) (pos1 0 0) = [(1, 0, [16])] := by decide
theorem test_popc : run (.popc { wa .n32 with arity := 1 }) (pos1 0xF00F 0) = [(1, 0, [8])] := by decide
theorem test_brev : run (.brev { wa .n8 with arity := 1 }) (pos1 0x12 0) = [(1, 0, [0x48])] := by decide
theorem test_bfx_signed : run (.bfx (wa .s32)) (pos1 0x000000F0 0x0404) = [(1, 0, [0xFFFFFFFF])] := by decide
theorem test_bfi : run (.bfi { wa .n32 with imm := 0x0804 }) (pos1 0 0x1AB) = [(1, 0, [0xAB0])] := by decide
theorem test_cmp_signed : run (.cmp { wa .s32 with mode := 2 }) (pos1 0xFFFFFFFF 1) = [(1, 0, [1])] := by decide
theorem test_cmp_unsigned : run (.cmp { wa .n32 with mode := 2 }) (pos1 0xFFFFFFFF 1) = [(1, 0, [0])] := by decide
theorem test_sel : run (.sel { wa .n32 with arity := 3 }) (pos1 7 9) = [(1, 0, [9])] := by decide
theorem test_sel_inverted : run (.sel { wa .n32 with arity := 3, inv := true }) (pos1 7 9) = [(1, 0, [7])] := by decide
theorem test_pxor : run (.pxor (wa .b1)) (pos1 1 1) = [(1, 0, [0])] := by decide
theorem test_pcnt : run (.pcnt { wa .b1 with arity := 1 }) (posN 0 [1, 0, 1] [0, 0, 0]) = [(1, 0, [2])] := by decide

/-! ### Floating words: 1.5 is 0x3FC00000 in f32 -/

theorem test_fadd : run (.fadd (wa .f32)) (pos1 0x3FC00000 0x3F000000) = [(1, 0, [0x40000000])] := by decide
theorem test_fsub_inf : run (.fsub (wa .f32)) (pos1 0x7F800000 0x7F800000) = [(1, 0, [0x7FC00000])] := by decide
theorem test_fsub_inf_flag : flagsOf (.fsub (wa .f32)) (pos1 0x7F800000 0x7F800000) = some flNV := by decide
theorem test_fmul : run (.fmul (wa .f32)) (pos1 0x3FC00000 0x3FC00000) = [(1, 0, [0x40100000])] := by decide
theorem test_fdiv_by_zero : run (.fdiv (wa .f32)) (pos1 0x3F800000 0x80000000) = [(1, 0, [0xFF800000])] := by decide
theorem test_fdiv_flag : flagsOf (.fdiv (wa .f32)) (pos1 0x3F800000 0x80000000) = some flDZ := by decide
theorem test_fsqrt : run (.fsqrt { wa .f32 with arity := 1 }) (pos1 0x40800000 0) = [(1, 0, [0x40000000])] := by decide +kernel
theorem test_fmin_zero : run (.fmin (wa .f32)) (pos1 0 0x80000000) = [(1, 0, [0x80000000])] := by decide
theorem test_fmax_nan : run (.fmax (wa .f32)) (pos1 0x7FC00000 0x3F800000) = [(1, 0, [0x3F800000])] := by decide
theorem test_fneg_nan : run (.fneg { wa .f32 with arity := 1 }) (pos1 0x7FC00001 0) = [(1, 0, [0xFFC00001])] := by decide
theorem test_fcpys : run (.fcpys (wa .f32)) (pos1 0x3F800000 0x80000000) = [(1, 0, [0xBF800000])] := by decide
theorem test_fclass_negzero : run (.fclass { wa .f32 with arity := 1 }) (pos1 0x80000000 0) = [(1, 0, [8])] := by decide
theorem test_fclass_snan : run (.fclass { wa .f32 with arity := 1 }) (pos1 0x7F800001 0) = [(1, 0, [256])] := by decide
theorem test_fcmp_nan : run (.fcmp { wa .f32 with mode := 1 }) (pos1 0x7FC00000 0x7FC00000) = [(1, 0, [1])] := by decide
/-- R167: −0.25 under RNE gives −0. -/
theorem test_frnd : run (.frnd { wa .f32 with arity := 1 }) (pos1 0xBE800000 0) = [(1, 0, [0x80000000])] := by decide
theorem test_fscal : run (.fscal (wa .f32)) (pos1 0x3F800000 3) = [(1, 0, [0x41000000])] := by decide
theorem test_fex2_exact : run (.fex2 { wa .f32 with arity := 1 }) (pos1 0x40400000 0) = [(1, 0, [0x41000000])] := by
  decide +kernel
theorem test_frcp_zero : run (.frcp { wa .f32 with arity := 1 }) (pos1 0 0) = [(1, 0, [0x7F800000])] := by decide

/-! ### Conversions, packing, reductions -/

/-- −1 in s32 to f32, and 300.0 in f32 to n8, which clamps with NV (R120). -/
theorem test_cvt_to_float : run (.cvt { wa .s32 with arity := 1, imm := 0xC }) (pos1 0xFFFFFFFF 0) = [(1, 0, [0xBF800000])] := by
  decide
theorem test_cvt_to_int : run (.cvt { wa .f32 with arity := 1, imm := 0x1 }) (pos1 0x43960000 0) = [(1, 0, [255])] := by decide
theorem test_cvto : run (.cvto { wa .f32 with arity := 1, imm := 0x1, cons2 := { slot := 2, port := 0 } })
    (posN 4 [0x40000000, 0x43960000] [0, 0]) = [(1, 4, [2, 255]), (2, 5, [0x43960000])] := by decide
theorem test_cvtl : run (.cvtl { wa .f32 with arity := 1, imm := 0x1, cons2 := { slot := 2, port := 0 } })
    (posN 4 [0x40000000, 0x43960000] [0, 0]) = [(1, 4, [2, 0]), (2, 5, [0x43960000])] := by decide
theorem test_pack : run (.pack { wa .n8 with arity := 1 }) (posN 4 [1, 2, 3, 4] [0, 0, 0, 0]) = [(1, 1, [0x04030201])] := by decide
theorem test_unpk : run (.unpk { wa .s8 with arity := 1 }) (posN 1 [0x80030201] [0]) = [(1, 4, [1, 2, 3, 0xFFFFFF80])] := by decide
theorem test_key : run (.key (wa .n8)) (pos1 3 4) = [(1, 0, [0x0304])] := by decide

/-- The worked decode of R112. -/
theorem test_cbdec : cbWeights (List.replicate 42 0 ++ [0x01234567]) 0x2AA7 = [-15, -13, 11, 9, -7, 5, -3, 1] := by decide
theorem test_scale_e8 : run (.scale { wa .f32 with imm := 1 }) (pos1 0x3F800000 128) = [(1, 0, [0x40000000])] := by decide
theorem test_vsum : run (.vsum { wa .n8 with arity := 1, sat := true }) (posN 0 [100, 100, 100] [0, 0, 0]) = [(1, 0, [255])] := by
  decide
theorem test_vmin : run (.vmin { wa .s32 with arity := 1 }) (posN 6 [1, 0xFFFFFFFE, 3] [0, 0, 0]) = [(1, 6, [0xFFFFFFFE])] := by
  decide
theorem test_vscn : run (.vscn { wa .n32 with arity := 1 }) (posN 0 [1, 2, 3] [0, 0, 0]) = [(1, 0, [1, 3, 6])] := by decide
theorem test_vspl : run (.vspl { wa .n32 with arity := 1, cons2 := { slot := 2, port := 0 } }) (posN 4 [1, 2, 3, 4] [0, 0, 0, 0]) =
    [(1, 2, [1, 3]), (2, 2, [2, 4])] := by decide
theorem test_vcat : run (.vcat (wa .n32)) (posN 4 [1, 2] [8, 9]) = [(1, 8, [1, 8, 2, 9])] := by decide

/-! ### Token words and loops -/

/-- The worked case of R136. -/
theorem test_steer : run (.steer { wa .n32 with cons2 := { slot := 2, port := 0 } })
    (posN 0x40 [10, 11, 12, 13, 14, 15] [1, 1, 0, 1, 0, 0]) =
    [(1, 0x40, [10, 11]), (1, 0x43, [13]), (2, 0x42, [12]), (2, 0x44, [14, 15])] := by decide
theorem test_gate : run (.gate (wa .n32)) (posN 0x40 [10, 11, 12] [1, 0, 1]) = [(1, 0x40, [10]), (1, 0x42, [12])] := by decide
theorem test_isbub : run (.isbub { wa .n32 with arity := 1 }) [{ iter := 3, l := none, r := none, p := none }] = [(1, 3, [1])] := by
  decide
theorem test_trig : run (.trig { wa .n32 with arity := 1 }) (posN 9 [1, 2, 3] [0, 0, 0]) = [(1, 9, [3])] := by decide
theorem test_sink : run (.sink { wa .n32 with arity := 1 }) (pos1 1 0) = [] := by decide
theorem test_tgset : run (.tgset (wb .n32)) (pos1 5 77) = [(1, 77, [5])] := by decide
theorem test_tgget : run (.tgget { wb .n32 with arity := 1 }) (posN 33 [5] [0]) = [(1, 33, [33])] := by decide
theorem test_scant : run (.scant { wb .n32 with subop := 3, arity := 1 }) (posN 2 [0x80000003] [0]) =
    [(1, 64, [64, 65]), (1, 95, [95])] := by decide
theorem test_scan : run (.scan { wb .n32 with cons2 := { slot := 2, port := 0 } }) (posN 2 [0x80000003] [0x80000001]) =
    [(1, 0, [64, 95]), (2, 2, [2])] := by decide

/-! ## Witnesses: words, steps, firings -/

/-- Whether CE 0 of hearth 0 would start, with the step's own choice, a firing whose bytes decode (or do not). -/
def fires (s : State) : Option Bool :=
  ((s.ceChoice 0 0).bind fun x => x.firing).bind fun y => (s.fetch 0 0 y.ctx y.f.slot).map fun bs => match decode bs with
    | .ok _ => true
    | .error _ => false

/-- Whether the head of a matrix queue of CE 0 of hearth 0 can start, for a charge that stands, and its bytes decode. -/
def mxFires (s : State) : Option Bool :=
  match s.mxPick 0 0 with
  | some (m, .word slot _ _ _ _ _ _) => (((s.ce 0 0).mx m).owner.bind s.charge?).bind fun c =>
      (s.fetch 0 0 c.ctx slot).map fun bs => match decode bs with
        | .ok _ => true
        | .error _ => false
  | _ => none

def placed (w : Nat) : State := { State.reset.withFetchWord 64 w with agenda := [] }

theorem wit_encode : (encode (.add (wa .s32))).isSome = true ∧ (encode (.yield (ws 1))).isSome = true ∧
    (encode (.hangDetect 0)).isNone = true := by decide

theorem wit_step_event : ({ State.reset with agenda := [.event .bellowsTick, .advance 3] } : State).agenda =
    .event .bellowsTick :: [.advance 3] := rfl
theorem wit_step_fire : fires (placed 0x42C809406047E000) = some true := by decide
theorem wit_step_bad : fires (placed (0x0C * 2 ^ 56)) = some false := by decide
theorem wit_step_matrix : mxFires (placed 0xA2AA00C064000100) = some true := by decide
theorem wit_inv : Inv (State.reset.withFetchWord 64 0x42C809406047E000) ∧
    (match step (State.reset.withFetchWord 64 0x42C809406047E000) with | .next _ => true | _ => false) = true := by
  exact ⟨⟨rfl, rfl, rfl⟩, by decide⟩

/-- Two ready firings of one context, of which the one with the older tag, 2^24 − 1 before 0, goes first. -/
def twoReady : State :=
  let f : Firing := { probeFiring with pos := [{ iter := 0, l := some 0, r := some 0, p := some 0 }] }
  let g : Firing := { probeFiring with pos := [{ iter := 0xFFFFFF, l := some 0, r := some 0, p := some 0 }] }
  let s := placed 0x42C809406047E000
  { s with fab := { s.fab with ctxs := [(0, { CeCtx.reset 0 0 0 0 with ready := [f, g] })] } }

theorem wit_arbiter : ((twoReady.contextChoice 0 0 0).map fun y => y.f.tag) = some 0xFFFFFF ∧
    ((twoReady.ceChoice 0 0).bind fun y => y.firing.map fun x => (x.f.tag, y.ctx)) = some (0xFFFFFF, 0) := by decide

/-- A CE that has started a firing in this cycle. -/
theorem wit_arbiter_busy : (((placed 0).modCe 0 0 fun x => { x with lastStart := some 0 }).ce 0 0).lastStart = some 0 := by decide

theorem wit_runs : runsOf 2 [⟨5, some 1⟩, ⟨6, some 2⟩, ⟨7, some 3⟩, ⟨8, none⟩, ⟨10, none⟩] =
    [[⟨5, some 1⟩, ⟨6, some 2⟩], [⟨7, some 3⟩], [⟨8, none⟩], [⟨10, none⟩]] := by decide
theorem wit_aligned : alignedRuns 32 [⟨31, some 1⟩, ⟨32, some 2⟩, ⟨33, some 3⟩] = [[⟨31, some 1⟩], [⟨32, some 2⟩, ⟨33, some 3⟩]] := by
  decide

theorem wit_dest : (probeCharge 0).dest 0 0 0 { slot := 1, port := 1 } = some { blk := 0, slot := 1, port := .R, task := false } ∧
    (probeCharge 0).image.edges = [] := by decide

theorem wit_stands : Stands (fired (pos1 3 5)) (fireOf (pos1 3 5)) := ⟨rfl, rfl, ⟨_, rfl, rfl⟩, rfl⟩
theorem wit_stands_log : (fired (pos1 3 5)).wlog = [] := rfl
theorem wit_opcodes : opcodeA 0x20 = some .add ∧ opcodeB 0x12 = some .lexit ∧ opcodeM 0x87 = some .scat := ⟨rfl, rfl, rfl⟩
theorem wit_next : (match exec (.lexit (wb .n32)) (fired (pos1 3 5)) with | .next _ => true | _ => false) = true ∧
    (match exec (.scat (wm .n32 2)) (fired (pos1 3 5)) with | .next _ => true | _ => false) = true := by decide

/-- The loop header of another CE than the firing's: a block of 33 words with LOOP in its last slot. -/
theorem wit_loop_ce : ({ shape := 0, first := 0, header := 0, words := List.replicate 32 0 ++ [0x1050000000000000] } : Block).loopCe = 1 := by
  decide

theorem wit_split : splitOk (wa .f32) ∧ splitOk { wa .s32 with mode := 1 } ∧ splitOk { wa .n32 with mode := 2 } :=
  ⟨.inl rfl, .inr ⟨.inl rfl, rfl⟩, .inr ⟨.inr rfl, rfl⟩⟩
theorem wit_split_row : (Instr.avg, fun a b => (a + b + 1) / 2) ∈ splitRows := by simp [splitRows]
theorem wit_flt_row : (Instr.fadd, fltAdd) ∈ fltRows := .head _

/-- Operands: a BUBBLE one, a false predicate, and a live one (R130). -/
theorem wit_operands : ({ iter := 0, l := none, r := some 0, p := none } : Opnd).bubble 2 = true ∧
    ({ iter := 0, l := some 1, r := some 2, p := some 0 } : Opnd).pred 3 false = false ∧
    ({ iter := 0, l := some 1, r := some 2, p := some 0 } : Opnd).bubble 3 = false ∧
    ({ iter := 0, l := some 1, r := some 2, p := none } : Opnd).pred 2 false = true := by decide

/-- Integer division: a zero divisor, and one that is not. -/
theorem wit_division : num true 32 0 = 0 ∧ num true 32 0xFFFFFFFF = -1 ∧ num false 8 255 = 255 := by decide

/-- BFI's field at its least and at its most: one bit at 0, and all 32. -/
theorem wit_bfi : 0 < (0x100 : Nat) / 256 % 256 ∧ 0x100 % 256 + 0x100 / 256 % 256 ≤ Fmt.n32.bits ∧
    0x2000 % 256 + 0x2000 / 256 % 256 ≤ Fmt.n32.bits := by decide

theorem wit_compare : ({ wa .s32 with mode := 5 } : WordA).mode = 5 ∧ (5 : BitVec 3).toNat ≤ 6 ∧ Fmt.f16.classF = true ∧
    Fmt.f64.classF = true := by decide

/-- Floating operands of each case: both NaN, one NaN, none; a subnormal read. -/
theorem wit_nan : fNaN .f32 0x7FC00000 = true ∧ fSNaN .f32 0x7F800001 = true ∧ fNaN .f32 0x7F800000 = false ∧ fSub .f32 1 = true := by
  decide

theorem wit_corners : Fmt.classF .bf16 = true ∧ (1 : Nat) ≠ 0 := by decide
theorem wit_fscal : (wa .f32).isel = 0 := rfl

/-- CVT's clauses: integer to integer, and a floating NaN to an integer. -/
theorem wit_cvt : Fmt.s8.isInt = true ∧ (Fmt.ofCode 5).isInt = true ∧ Fmt.f32.classF = true := by decide
theorem wit_scale : (1 : Nat) % 4 = 1 ∧ (0xFF : Nat) % 256 = 255 ∧ ¬((0 : Nat) % 4 = 1 ∧ (0xFF : Nat) % 256 = 255) := by decide
theorem wit_key : Fmt.n8 = .n8 ∨ Fmt.n8 = .n16 ∨ Fmt.n8 = .n32 := .inl rfl

/-- Narrowing to n8: 300.0 is an outlier and 2.0 is not. -/
theorem wit_narrow : isOutlier .n8 0 (readFlt (policyOf 0) .f32 0x43960000) = true ∧
    isOutlier .n8 0 (readFlt (policyOf 0) .f32 0x40000000) = false := by decide

/-- PACK: consecutive tags at both ends of a word. -/
theorem wit_pack : (posN 3 [1, 2] [0, 0]).length ≤ 32 ∧ ((posN 3 [1, 2] [0, 0]).map FPos.iter) = [3, 3 + BitVec.ofNat 24 1] ∧
    Fmt.n16.bits = 16 ∧ Fmt.e4m3.bits = 8 := by decide

/-- A reduction of 32 positions, and one with a BUBBLE. -/
theorem wit_reduce : posN 0 (List.replicate 32 1) (List.replicate 32 1) ≠ [] ∧
    (posN 0 (List.replicate 32 1) (List.replicate 32 1)).length ≤ 32 ∧
    (∃ q ∈ ([{ iter := 3, l := none, r := none, p := none }] : List FPos), q.l = none) := by
  refine ⟨by decide, by decide, _, .head _, rfl⟩

theorem wit_trig : posN 9 [1] [0] = [{ iter := 9, l := some 1, r := some 0, p := some 1 }] := by decide

/-! ## Witnesses: handlers, loops and pilots -/

/-- A charge of one block whose slot 0 holds HNDL with a body of one MMA, in a CE whose first matrix context is the
charge's and holds `n` entries. -/
def hndlState (kind : Kind) (n : Nat) : State :=
  let f : Firing := { probeFiring with pos := pos1 0 0, kind := kind }
  let ch := probeCharge 0
  let blk : Block := { shape := 0, first := 0, header := 0, words := [0x0B54184060000001, if kind = .scale then 0xA02A00C064400100 else 0xA2AA00C064000100] }
  let q : QEntry := .word 1 0 (pos1 0 0) 0 0 0 0
  { State.reset with
    fab := { Fab.reset with
             charges := [(0, { ch with image := { ch.image with blocks := [blk] } })]
             ctxs := [(0, { CeCtx.reset 0 0 0 0 with ready := [f] })]
             hearths := [(0, { Hearth.reset with
               ces := [(0, { Ce.reset with mx0 := { MCtx.reset with owner := some 0, queue := List.replicate n q } })] })] }
    sel := some (.firing 0 0 0 f) }

def hndlFire (kind : Kind) : Fire :=
  let f : Firing := { probeFiring with pos := pos1 0 0, kind := kind }
  let ch := probeCharge 0
  let blk : Block := { shape := 0, first := 0, header := 0, words := [0x0B54184060000001, if kind = .scale then 0xA02A00C064400100 else 0xA2AA00C064000100] }
  { hearth := 0, ce := 0, ctx := 0, f := f, cc := { CeCtx.reset 0 0 0 0 with ready := [f] },
    ch := { ch with image := { ch.image with blocks := [blk] } }, blk := blk }

theorem wit_hndl : Stands (hndlState .data 15) (hndlFire .data) ∧ (hndlFire .data).f.kind ≠ .scale ∧
    ((hndlState .data 15).ce 0 0).mx0.queue.length ≤ 16 ∧ ((hndlFire .data).blk.bodyWords 0).length ≤ 16 - 15 ∧
    ((hndlState .data 15).ce 0 0).mxOf 0 = some false := by
  exact ⟨⟨rfl, rfl, ⟨_, rfl, rfl⟩, rfl⟩, by decide, by decide, by decide, by decide⟩
theorem wit_hndl_scale : Stands (hndlState .scale 15) (hndlFire .scale) ∧ ((hndlState .scale 15).ce 0 0).mx0.queue.length < 16 ∧
    ((hndlFire .scale).blk.bodyWords 0).find? (fun y => y.2.extractLsb' 22 2 != 0) = some (1, 0xA02A00C064400100) := by
  exact ⟨⟨rfl, rfl, ⟨_, rfl, rfl⟩, rfl⟩, by decide, by decide⟩
theorem wit_hndl_scale_waits : Stands (hndlState .scale 16) (hndlFire .scale) ∧ 16 ≤ ((hndlState .scale 16).ce 0 0).mx0.queue.length := by
  exact ⟨⟨rfl, rfl, ⟨_, rfl, rfl⟩, rfl⟩, by decide⟩
theorem wit_hndl_waits : Stands (hndlState .data 16) (hndlFire .data) ∧ 16 - 16 < ((hndlFire .data).blk.bodyWords 0).length := by
  exact ⟨⟨rfl, rfl, ⟨_, rfl, rfl⟩, rfl⟩, by decide⟩

/-- HNDL appends its body's one word. -/
theorem test_hndl : (match exec (.hndl { wa .n32 with arity := 1, imm := 1 }) (hndlState .data 15) with
    | .next t => (t.ce 0 0).mx0.queue.length
    | _ => 0) = 16 := by decide

theorem wit_pstrm : (taken (fired (pos1 3 5)) (fireOf (pos1 3 5))).streams 0 + 0 + 1 ≤ 2048 := by decide

/-- A hearth with 2,048 pilots on their way. -/
theorem wit_pstrm_waits : 2048 < (fired (pos1 3 5)).streams 0 + (List.replicate 2048
    ({ bind := 0, route := 0, hearth := 0, ce := 0, slot := 0 } : Pilot)).length + (fireOf (pos1 3 5)).f.pos.length := by
  have h : (List.replicate 2048 ({ bind := 0, route := 0, hearth := 0, ce := 0, slot := 0 } : Pilot)).length = 2048 := List.length_replicate
  rw [h]; decide

/-- A loop header in slot 0 with a trip of `n` iterations, `j` of them issued, at cnt 30. -/
def loopState (n j out : Nat) : State :=
  let ch := probeCharge 0
  let blk : Block := { shape := 0, first := 0, header := BitVec.ofNat 128 (4 * 2 ^ 32), words := [0x1058010060600000] }
  let cc := { CeCtx.reset 0 0 0 0 with
              loop := { LoopSt.reset with cnt := 30, out := out, queue := [{ n := n, j := j }] }
              pstrm := [(0, [(7, false), (8, true)])], pdone := [(0, [[]])] }
  { State.reset with
    fab := { Fab.reset with charges := [(0, { ch with image := { ch.image with blocks := [blk] } })], ctxs := [(0, cc)] } }

/-- What the header of `loopState` has sent, and what stays of its loop. -/
def issued (s : State) : Option (List (Nat × Nat × List Nat) × Nat × Nat × Nat) :=
  match exec (.loopIssue 0 0 0) s with
  | .next t => (t.ctx? 0 0 0).map fun c => (sent (.next t), c.loop.cnt.toNat, c.loop.out, c.loop.queue.length)
  | _ => none

/-- R141: with 2^4 credits, 3 outstanding and cnt 30, a trip of 5 issues 2 iterations before the multiple of 32. -/
theorem test_loop_issue : issued (loopState 5 0 3) = some ([(1, 30, [0, 1])], 32, 5, 1) := by decide
theorem test_loop_issue_ends : issued (loopState 5 4 3) = some ([(1, 30, [4])], 31, 4, 0) := by decide
theorem wit_loop : ((loopState 5 0 3).charge? 0).any Charge.runs = true ∧ ((loopState 5 0 3).ce 0 0).lastStart ≠ some 0 ∧
    ((loopState 5 0 3).ce 0 0).busyUntil ≤ 0 ∧ (0 : Nat) ≤ 5 ∧ 0 < min (2 ^ 4 - 3) (min (5 - 0) (32 - 30 % 32)) := by decide
theorem wit_loop_empty : issued (loopState 0 0 3) = some ([], 30, 3, 0) := by decide
theorem test_pstrm_done : sent (exec (.pstrmDoneEmit 0 0 0 0) (loopState 5 0 3)) = [(1, 7, [0])] := by decide
theorem wit_pstrm_done : Table.getD (CeCtx.pstrm { CeCtx.reset 0 0 0 0 with pstrm := [(0, [(7, false), (8, true)])] }) 0 [] =
    [(7, false), (8, true)] := rfl

/-- LEXIT retires one iteration for each position, and the third of three with out 2 finds none left (R142). -/
theorem test_lexit_fault : (match exec (.lexit (wb .n32)) (fired (posN 0 [1, 2] [1, 0])) with
    | .next t => (t.charge? 0).map fun c => c.faults.map fun r => (r.code, r.tag)
    | _ => none) = some [(0x12, 0)] := by decide
theorem test_tchk : run (.tchk { wb .n32 with fsel := 3, isel := 2, imm := 6, cons2 := { slot := 2, port := 0 } })
    (posN 5 [50, 60] [0, 0]) = [(1, 6, [60]), (2, 5, [50])] := by decide

/-! ## Witnesses: memory ports, homes, tiles and engines -/

def withFab (s : State) (g : Fab → Fab) : State := { s with fab := g s.fab }

/-- A request of charge 0 at hearth 0: a scratchpad word of region 0, element 3, of four bytes. -/
def req0 (op : MemOp) (u : ReqUnit) (owes : Bool) : Req :=
  { id := 0, flight := 0, bind := 0, hearth := 0, ce := 0, slot := 0, unit := u, index := 0, iter := 7, op := op, fmt := .n32,
    wide := false, region := 0, elem := 3, r := 5, p := 0, scope := .h, bubbleOk := false, live := true, owes := owes,
    epoch := 0, done := false, reply := none, wrote := false, parked := false, left := false, cycle := 0 }

def flight0 (owes : Bool) : Flight :=
  { id := 0, bind := 0, hearth := 0, ce := 0, slot := 0, region := 0, iter0 := 7, tagged := true, cmpl := !owes, store := !owes,
    owes := owes, accepted := 1, count := 1, closed := false }

/-- The word STS at slot 0, whose region 0 is the hearth's own scratchpad, with one request. -/
def padState (q : Req) : State :=
  withFab (placed 0x8350000000000000) fun f => { f with reqs := [q], flights := [flight0 q.owes] }

def calm : Phys := { evict := [], check := .good, miss := false }
theorem wit_calm : Calm calm := ⟨rfl, rfl, rfl⟩

theorem wit_port : Stands (fired (pos1 3 5)) (fireOf (pos1 3 5)) ∧ (fired (pos1 3 5)).portHeld 0 0 0 + 1 ≤ 256 :=
  ⟨⟨rfl, rfl, ⟨_, rfl, rfl⟩, rfl⟩, by decide⟩

/-- The same request where region 0 is a scratchpad, memory, a peer's window `win`, or bytes of another module's address `at_`. -/
def placeState (space win at_ : Nat) (q : Req) : State :=
  withFab (padState q) fun f => { f with charges := f.charges.map fun (b, c) => (b, { c with
    bindings := [BitVec.ofNat 64 at_]
    image := { c.image with regions := [(BitVec.ofNat 64 (7 * 2 ^ 24 + space * 2 ^ 16 + win * 2 ^ 36), 0, 65536)] } }) }
def placeRegion (space win : Nat) : Region := regionOf (BitVec.ofNat 64 (7 * 2 ^ 24 + space * 2 ^ 16 + win * 2 ^ 36), 0, 65536)

/-- In the scratchpad, and in near memory. -/
theorem wit_home : ∀ x ∈ [(0, padAddr 0 12), (2, 65536 + 12)],
    ∀ q ∈ [req0 .store (.port 0) false, req0 .load .gather true, req0 (.scat 0) .gather false],
    ∃ c, Ready (placeState x.1 0 0 q) 0 q c ∧ c.region? q.region = some (placeRegion x.1 0) ∧ (placeState x.1 0 0 q).wlog = [] ∧
      AtHome (placeState x.1 0 0 q) c q.hearth (placeRegion x.1 0) 12 4 (opReads q.op) (opWrites q.op) x.2 := by
  intro x hs q hq
  simp only [List.mem_cons, List.not_mem_nil, or_false] at hq hs
  rcases hs with rfl | rfl <;> rcases hq with rfl | rfl | rfl
  all_goals refine ⟨_, ⟨rfl, rfl, rfl, rfl, rfl, rfl, rfl, rfl⟩, rfl, rfl, ?_⟩
  · exact ⟨rfl, rfl, rfl, .inl ⟨0, rfl, rfl, by decide, by decide, by decide⟩⟩
  · exact ⟨rfl, rfl, rfl, .inl ⟨0, rfl, rfl, by decide, by decide, by decide⟩⟩
  · exact ⟨rfl, rfl, rfl, .inl ⟨0, rfl, rfl, by decide, by decide, by decide⟩⟩
  · exact ⟨rfl, rfl, rfl, .inr (.inl ⟨_, rfl, rfl, rfl, rfl⟩)⟩
  · exact ⟨rfl, rfl, rfl, .inr (.inl ⟨_, rfl, rfl, rfl, rfl⟩)⟩
  · exact ⟨rfl, rfl, rfl, .inr (.inl ⟨_, rfl, rfl, rfl, rfl⟩)⟩
/-- A peer's join slots and parameters, the tile table, and another module. -/
theorem wit_home_window : (∀ win ∈ [1, 2, 3], ∃ c, (placeState 1 win 0 (req0 .load (.port 0) true)).charge? 0 = some c ∧
      (placeState 1 win 0 (req0 .load (.port 0) true)).place c 0 (placeRegion 1 win) 12 true false = .ok (.window 0 win 12) ∧
      (placeState 1 win 0 (req0 .load (.port 0) true)).passes 0 0 = true) ∧
    (placed 0).windowAddr 0 0 3 12 ≠ none ∧ (placed 0).windowHeld 0 0 3 12 4 = false ∧ (placed 0).windowAddr 0 0 2 12 = none := by
  refine ⟨fun win h => ?_, by decide, by decide, by decide⟩
  simp only [List.mem_cons, List.not_mem_nil, or_false] at h
  rcases h with rfl | rfl | rfl <;> exact ⟨_, rfl, rfl, rfl⟩
theorem wit_home_remote : ∃ c, (placeState 5 0 (2 ^ 56) (req0 .store (.port 0) false)).charge? 0 = some c ∧
    (placeState 5 0 (2 ^ 56) (req0 .store (.port 0) false)).place c 0 (placeRegion 5 0) 12 false true = .ok (.remote 1 12) ∧
    (1 : Nat) ≠ (placeState 5 0 (2 ^ 56) (req0 .store (.port 0) false)).mod.number.toNat ∧ refusalOf calm = none ∧
    refusalOf { calm with refused := some 3 } = some 3 ∧ c.phase = .running := ⟨_, rfl, rfl, by decide, rfl, rfl, rfl⟩
/-- A line that PFCH has asked for, in near memory. -/
def fetchState : State :=
  let s := withFab (placed 0) fun f => { f with fetches := [{ id := 4, bind := 0, ma := 0x10000, ember := true }] }
  { s with adm := { s.adm with vdevs := [(0, { Vdev.reset with burst := 8 })] } }
theorem wit_fetch : ∃ x c, (fetchState.fab.fetches.find? fun y => y.id == 4) = some x ∧ fetchState.charge? x.bind = some c ∧ c.serves = true ∧
    fetchState.mod.stoves.length = 12 ∧ fetchState.channelBusy x.ma = false ∧ fetchState.deferredOf 4 = none ∧ fetchState.mod.actLimit = 0 ∧
    fetchState.cycle / cyclesPerMs ≤ fetchState.mod.emberMs ∧ 4 ≤ fetchState.bucket (fetchState.controllerOf x.ma) c.vdev :=
  ⟨_, _, rfl, rfl, rfl, rfl, rfl, rfl, rfl, by decide, by decide⟩

/-- A store of 5 to element 3 writes its four bytes at byte 12 of the scratchpad. -/
theorem test_store_bytes : (match exec (.homeAccess (.req 0) calm) (padState (req0 .store (.port 0) false)) with
    | .next t => (List.range 5).map fun i => (t.byte (padAddr 0 (12 + i))).toNat
    | _ => []) = [5, 0, 0, 0, 0] := by decide

theorem wit_hart : calm.evict = [] ∧ (placed 0).memSide.moves = [] ∧ (placed 0).wlog = [] ∧
    (∀ a, 256 ≤ a → a < 256 + ([1] : List Byte).length → (tierOf a).isSome ∧ (placed 0).writable a = true) := by
  refine ⟨rfl, rfl, rfl, fun a h1 h2 => ?_⟩
  have : a = 256 := by simp at h2; omega
  subst this; exact ⟨by decide, by decide⟩

theorem wit_reply : ∃ q c f cc b l, (padState { req0 .load (.port 0) true with done := true, reply := some 9 }).req? 0 = some q ∧
    (padState q).charge? q.bind = some c ∧ (padState q).flight? q.flight = some f ∧
    (padState q).ctx? q.hearth q.ce c.ctx = some cc ∧ c.block? cc.block = some b ∧ q.owes = true ∧ c.phase = .running ∧
    (padState q).leaving q f 1 = some l :=
  ⟨_, _, _, _, _, _, rfl, rfl, rfl, rfl, rfl, rfl, rfl, rfl⟩

theorem wit_completion : ∃ f c cc b, ((withFab (padState (req0 .store (.port 0) false)) fun f => { f with reqs := [] }).fab.flights.filter
      fun g => g.id == 0) = [f] ∧
    (placed 0).charge? f.bind = some c ∧ (placed 0).ctx? f.hearth f.ce c.ctx = some cc ∧ c.block? cc.block = some b ∧
    f.closed = false ∧ c.serves = true ∧ (placed 0).fab.copies = [] ∧ (placed 0).fab.nmcs = [] :=
  ⟨_, _, _, _, rfl, rfl, rfl, rfl, rfl, rfl, rfl, rfl⟩

/-- A firing of a tile word with operands `pos` on tile 0, whose entry 0 is in state `st`. -/
def tileState (st : BitVec 2) (pos : List FPos) : State :=
  (fired pos).modHearth 0 fun x =>
    { x with tiles := [(0, { TileEntry.reset with fmt := .n32, mapped := true, state := st, bind := 0, tile := 0 })] }

theorem wit_tile : ∀ st ∈ [0, 1, 2, 3], OnTile (tileState st (pos1 0 1)) (fireOf (pos1 0 1)) (wm .n32 2) 0
    { TileEntry.reset with fmt := .n32, mapped := true, state := st, bind := 0, tile := 0 } := by
  intro st h
  simp only [List.mem_cons, List.not_mem_nil, or_false] at h
  rcases h with rfl | rfl | rfl | rfl <;> exact ⟨⟨rfl, rfl, ⟨_, rfl, rfl⟩, rfl⟩, rfl, rfl⟩
theorem wit_tile_reads : TileEntry.reset.busy.toNat + 1 ≤ 63 ∧ (tileState 2 (pos1 0 1)).tilePoisoned 0 0 = false ∧
    (tileState 2 (pos1 0 1)).wlog = [] ∧ Memory.wf (tileState 0 (pos1 0 1)).mem = true := ⟨by decide, rfl, rfl, rfl⟩

/-- TST of one element in an EMPTY tile of n32 goes to FILLING with that element's bit. -/
theorem test_tst_state : (match exec (.tst (wm .n32 1)) (tileState 0 (pos1 9 1)) with
    | .next t => some ((t.tile 0 0).state, (t.tile 0 0).fill)
    | _ => none) = some (1, 1) := by decide +kernel

/-- A FILLING tile whose one writer, TST in slot 0, holds EOS on its only port. -/
def eosL : Entry := { slot := 0, port := .L, iter := 0, kind := .eos, vals := [], check := 0, stamp := 0, pair := (0, 0), inTable := false, count := 0, acq := [] }

def sealState (st : BitVec 2) : State :=
  withFab (tileState st []) fun f => { f with
    charges := (placed 0x8950000000000000).fab.charges
    ctxs := [(0, { CeCtx.reset 0 0 0 0 with entries := [eosL] })]
    tileReads := [{ id := 4, hearth := 0, entry := 0, bind := 0 }] }

theorem wit_seal : ∃ c, (sealState 1).charge? 0 = some c ∧ (sealState 1).tileOf 0 0 0 = some 0 ∧ c.runs = true ∧
    ((sealState 1).tile 0 0).state = 1 ∧ (c.tileWriters 0 0).map (·.2.2.1) = [0] ∧
    (∀ x ∈ c.tileWriters 0 0, ∃ cc k, (sealState 1).ctx? 0 x.2.1 c.ctx = some cc ∧ c.block? x.1 = some k ∧
      (sealState 1).eosReady 0 x.2.1 c.ctx cc c k x.2.2.1 = true) := by
  refine ⟨_, rfl, rfl, rfl, rfl, rfl, fun x hx => ?_⟩
  have h : x = (0, 0, 0, 0x8950000000000000) := by
    have : Charge.tileWriters (probeCharge 0x8950000000000000) 0 0 = [(0, 0, 0, 0x8950000000000000)] := rfl
    exact List.mem_singleton.mp (this ▸ hx)
  subst h; exact ⟨_, _, rfl, rfl, rfl⟩
theorem wit_read_done : ((sealState 1).fab.tileReads.find? fun r => r.id == 4).isSome = true ∧
    (Table.get? ((sealState 1).hearth 0).tiles 0).isSome = true := by decide
theorem wit_drained : ((sealState 3).tile 0 0).mapped = true ∧ ((sealState 3).tile 0 0).state = 3 ∧ ((sealState 3).tile 0 0).busy = 0 ∧
    ((sealState 3).charge? 0).any Charge.serves = true := by decide

/-- A charge whose slot 0 holds `w`, with more of the fabric set. -/
def wordState (w : Nat) (g : Fab → Fab) : State := withFab (placed w) g

def copy0 (next : Nat) (st : Option Nat) : Copy :=
  { id := 5, bind := 0, hearth := 0, ce := 0, slot := 0, iter := 1, flight := 9, srcRegion := 0, dstRegion := 0, bubbleOk := false,
    src := 0, dst := 256, length := 256, next := next, status := st, worst := 0, parked := false, vec := Vec.empty, epoch := 0 }

theorem wit_bcpy : (taken (fired (pos1 3 5)) (fireOf (pos1 3 5))).streams 0 + 1 ≤ 2048 ∧
    (fireOf (pos1 3 5)).ch.region? 0 ≠ none := by exact ⟨by decide, by decide⟩

theorem wit_bcpy_beat : ∃ c sr u, (wordState 0x8350000000000000 fun f => { f with copies := [copy0 64 none] }).charge? 0 = some c ∧
    (placed 0x8350000000000000).wlog = [] ∧ Memory.wf (placed 0x8350000000000000).mem = true ∧ c.region? 0 = some sr ∧
    (placed 0x8350000000000000).unitWord 0 0 0 0 = some u ∧ c.engines = true ∧ (64 : Nat) < 256 ∧ sr.injects = false ∧
    (placed 0x8350000000000000).place c 0 sr (sr.base + (0 + 64)) true false = .ok (.pad 0 (padAddr 0 64)) ∧
    (placed 0x8350000000000000).place c 0 sr (sr.base + (256 + 64)) false true = .ok (.pad 0 (padAddr 0 320)) ∧
    calm.check = .good ∧ calm.evict = [] ∧ (placed 0x8350000000000000).anyPoison (padAddr 0 64) 64 = false :=
  ⟨_, _, _, rfl, rfl, rfl, rfl, rfl, rfl, by decide, rfl, rfl, rfl, rfl, rfl, rfl⟩

theorem wit_bcpy_complete : ∃ c u, (wordState 0 fun f => { f with copies := [copy0 256 none] }).charge? 0 = some c ∧
    (placed 0).unitWord 0 0 0 0 = some u ∧ c.engines = true ∧ (copy0 256 none).length ≤ (copy0 256 none).next ∧
    c.timelines[u.2.2.toNat % 256]?.isSome = true := ⟨_, _, rfl, rfl, rfl, by decide, rfl⟩

def nmc0 (done : Nat) : Nmc :=
  { id := 6, bind := 0, hearth := 0, ce := 0, slot := 0, iter := 1, flight := 9, count := 1, target := 0, second := 0, region := 0,
    fmt := .n32, op := 2, c0 := 0, c1 := 0, done := done, status := none, vec := Vec.empty, epoch := 0 }

/-- Byte `o` of a stripe that starts the page of frame 1. -/
theorem stripe_at (x : Stripe) (hv : x.va = 0) (hl : x.lo.1 = 65536) (o : Nat) (h : o < 4096) : x.at o = 65536 + o := by
  unfold Stripe.at Stripe.cut
  rw [hv, hl, if_pos (by omega)]

theorem wit_nmc_stripe : ∃ c r u x, (wordState 0 fun f => { f with nmcs := [nmc0 0] }).charge? 0 = some c ∧
    c.region? 0 = some r ∧ (placed 0).unitWord 0 0 0 0 = some u ∧ c.engines = true ∧ (nmc0 0).done < (nmc0 0).count ∧
    (placed 0).nmcPages c r (nmc0 0) = .ok (x, none) ∧ x.lo.2.watched = false ∧ x.hi.2.watched = false ∧
    c.mayTry (engineKey 6) = true ∧ x.va % 64 = 0 ∧ (∀ o, o < 4096 → x.at o = 65536 + o) ∧ (∀ o, o < 4096 → Plain (placed 0) (65536 + o) 1) ∧
    (placed 0).controllerWaits 6 (x.at 0) c.vdev 64 ((placed 0).fundedAt 6) = none ∧ (placed 0).memSide.poison = [] ∧
    (nmc0 0).fmt.bits = 32 := by
  refine ⟨_, _, _, _, rfl, rfl, rfl, rfl, by decide, rfl, rfl, rfl, rfl, rfl, fun o h => ?_, fun o h => ⟨by decide, fun i hi => ?_⟩,
    rfl, rfl, rfl⟩
  · exact stripe_at _ rfl rfl o h
  · have h0 : tierOf (65536 + o + i) = some 0 := by unfold tierOf nearEnd; rw [if_pos (by omega)]
    refine ⟨by rw [h0]; rfl, ?_⟩
    unfold State.writable; rw [h0]; rfl
theorem wit_nmc_complete : (nmc0 1).count ≤ (nmc0 1).done := by decide

/-- The hint's page is that of region 0 for element 0, and none for an element past the region's end. -/
theorem wit_hint : ∃ r ma e, (fireOf (pos1 0 0)).ch.region? 0 = some r ∧ (fireOf (pos1 0 0)).ch.hintPage r .n32 0 = some (ma, e) ∧
    (fired (pos1 0 0)).emberOwner (ma / 65536) = 0xFF ∧ ((fired (pos1 0 0)).part 0).pq = 0 ∧
    (fireOf (pos1 0 0)).ch.hintPage r .n32 16384 = none := ⟨_, _, _, rfl, rfl, rfl, rfl, rfl⟩
theorem wit_fjoin : (wm .n32 2).arity = 2 ∧ (wm .n32 1).arity ≠ 2 ∧ (fireOf (pos1 0 0)).f.pos ≠ [] := by decide

def pend0 (ntf : Bool) : Pending :=
  { id := 7, bind := 0, hearth := 0, ce := 0, slot := 0, notify := ntf, index := 0, amount := 5, pos := pos1 5 0, upTo := 0,
    sends := [], cycle := 0 }
def pendState (ntf : Bool) : State := wordState 0 fun f =>
  { f with pending := [pend0 ntf], waits := [TlWait.mk 8 0 0 0 0 0 3 0, TlWait.mk 9 0 0 0 0 0 4 7] }

theorem wit_pending : ∀ ntf, ∃ c u, ((pendState ntf).fab.pending.find? fun x => x.id == 7 && x.notify == ntf) = some (pend0 ntf) ∧
    (pendState ntf).charge? 0 = some c ∧ (pendState ntf).unitWord 0 0 0 0 = some u ∧ c.engines = true ∧
    (pendState ntf).pendingMet (pend0 ntf) = true ∧ c.timelines[(0 : Nat)]?.isSome = true ∧
    (pendState ntf).thread? c.vdev = none := by
  intro ntf; cases ntf <;> exact ⟨_, _, rfl, rfl, rfl, rfl, rfl, rfl, rfl⟩

theorem wit_tlwait : ∃ c tl, (pendState false).charge? 0 = some c ∧ c.runs = true ∧ c.timelines[(0 : Nat)]? = some tl ∧
    (TlWait.mk 8 0 0 0 0 0 3 0).level.toNat ≤ tl.value.toNat ∧
    (∀ y ∈ (pendState false).fab.waits, (0 : Nat) < y.level.toNat ∨ 0 = y.level ∧ 8 ≤ y.id) := by
  refine ⟨_, _, rfl, rfl, rfl, by decide, fun y hy => ?_⟩
  have h : y ∈ [TlWait.mk 8 0 0 0 0 0 3 0, TlWait.mk 9 0 0 0 0 0 4 7] := hy
  simp only [List.mem_cons, List.not_mem_nil, or_false] at h
  rcases h with rfl | rfl
  · exact .inr ⟨rfl, Nat.le_refl _⟩
  · exact .inl (by decide)

def thread0 : Thread := { juivec := 0, juirec := 0, registered := true, aspace := 0, running := false, pending := true, raised := 0 }
def threadState : State := { State.reset with adm := { State.reset.adm with threads := [(3, thread0)] } }
theorem wit_uint : threadState.thread? 3 = some thread0 ∧ thread0.pending = true := ⟨rfl, rfl⟩
theorem test_uint : (match exec (.uintDeliver 3) threadState with
    | .next t => (t.thread? 3).map fun x => (x.pending, x.raised)
    | _ => none) = some (false, 1) := by decide

/-! ### Chimney streams -/

/-- A charge with stream 0 of the role given, of two participants, at rank 0 on port 0, with timeline 0. -/
def linkState (role : Nat) (ch : Chimney) : State := wordState 0x9A50000000000000 fun f =>
  { f with
    charges := f.charges.map fun (b, c) => (b, { c with image := { c.image with streams :=
      [BitVec.ofNat 128 (role * 2 ^ 21 + 2 ^ 32)] } })
    chimneys := [(0, ch)] }
def frame0 : Frame := frameOf .data 0 7 [9] false
def chim0 : Chimney :=
  { Chimney.reset with
    credit := 1, sentNo := 1, ackNo := 0, opened := some (0, 0, 0), place := some (0, 0, 0), arrived := [frame0],
    contrib := [(0, 7, some 3), (1, 7, some 4)] }

theorem wit_lsend : Stands (fired (pos1 3 5)) (fireOf (pos1 3 5)) ∧ ((fired (pos1 3 5)).chimney 0 1).credit = 0 ∧
    ((linkState 0 chim0).chimney 0 0).credit ≠ 0 := ⟨⟨rfl, rfl, ⟨_, rfl, rfl⟩, rfl⟩, by decide, by decide⟩
theorem wit_redn : ((fireOf (pos1 3 5)).ch.stream? 0).isSome = true ∧ ((fired (pos1 3 5)).chimney 0 0).contrib = [] := by decide
theorem wit_lsend_ack : ∃ c e, (linkState 0 chim0).charge? 0 = some c ∧ c.stream? 0 = some e ∧ c.engines = true ∧
    ((linkState 0 chim0).chimney 0 0).ackNo < ((linkState 0 chim0).chimney 0 0).sentNo ∧ e.tl ≠ 0xFF ∧
    c.timelines[e.tl]?.isSome = true := ⟨_, _, rfl, rfl, rfl, by decide, by decide, rfl⟩
theorem wit_lrecv_run : ∃ c u, (linkState 1 chim0).charge? 0 = some c ∧ ((linkState 1 chim0).chimney 0 0).opened = some (0, 0, 0) ∧
    ((linkState 1 chim0).chimney 0 0).arrived = [frame0] ∧ (linkState 1 chim0).unitWord 0 0 0 0 = some u ∧ c.runs = true ∧
    ((linkState 1 chim0).ce 0 0).lastStart ≠ some (linkState 1 chim0).cycle ∧
    ((linkState 1 chim0).ce 0 0).busyUntil ≤ (linkState 1 chim0).cycle ∧ c.image.tracks = [] :=
  ⟨_, _, rfl, rfl, rfl, rfl, rfl, by decide, by decide, rfl⟩
theorem wit_redn_result : ∃ c e u, (linkState 2 chim0).charge? 0 = some c ∧ c.stream? 0 = some e ∧ e.role = 2 ∧
    ((linkState 2 chim0).chimney 0 0).place = some (0, 0, 0) ∧ (linkState 2 chim0).unitWord 0 0 0 0 = some u ∧ c.runs = true ∧
    ([some 3, some 4] : List (Option Val)).length = e.count ∧
    (∀ (r : Nat) v, ([some 3, some 4] : List (Option Val))[r]? = some v →
      (((linkState 2 chim0).chimney 0 0).contrib.find? fun x => x.1.toNat == r && x.2.1 == 7) = some (BitVec.ofNat 8 r, 7, v)) ∧
    (∃ r, r < e.count ∧ ∀ x ∈ ((linkState 2 chim0).chimney 0 0).contrib, ¬(x.1.toNat = r ∧ x.2.1 = 7 + 1)) := by
  refine ⟨_, _, _, rfl, rfl, rfl, rfl, rfl, rfl, rfl, fun r v h => ?_, 0, by decide, fun x hx => ?_⟩
  · match r, h with
    | 0, h => cases h; rfl
    | 1, h => cases h; rfl
  · have hx : x ∈ ([(0, 7, some 3), (1, 7, some 4)] : List (BitVec 8 × Iter × Option Val)) := hx
    simp only [List.mem_cons, List.not_mem_nil, or_false] at hx
    rcases hx with rfl | rfl <;> decide
def portState (mode : BitVec 2) : State := (linkState 1 chim0).modPort 0 fun p => { p with mode := mode }
theorem wit_frame_receive : 0 < (portState 1).mod.ports.length ∧ (portState 1).portPresent 0 = true ∧
    ((portState 2).port 0).mode = 2 ∧ ((portState 1).port 0).mode = 1 ∧
    ∃ c e, (portState 1).streamHolder 0 0 = some (0, c, e) ∧ c.phase = .running ∧ frame0.kind ≠ .abort ∧ e.role = 1 :=
  ⟨by decide, by decide, by decide, by decide, _, _, rfl, rfl, by decide, rfl⟩
/-- A frame that matches its check, and one whose value has changed on the way. -/
theorem wit_frame_check : frame0.check = tokenCheck (headerOf .data 1 0 7 0 .L false false) 4 [9] ∧
    ({ frame0 with vals := [8] } : Frame).check ≠ tokenCheck (headerOf .data 1 0 7 0 .L false false) 4 [8] := by decide +kernel
theorem wit_kept : ((fireOf (pos1 3 5)).ch.stream? 0).any (fun e => e.port < (fired (pos1 3 5)).mod.ports.length &&
    ((fired (pos1 3 5)).port e.port).mode != 2) = true := by decide
theorem test_drop_report : (match exec (.exitedDropReport 3 0) State.reset with | .next _ => true | _ => false) = true := by decide

/-! ### The matrix block -/

/-- A selected head entry of matrix word `w`, with `pos`, in CE 0's first matrix context, whose state is `m`. -/
def mxState (w : Nat) (pos : List FPos) (m : MCtx) : State :=
  let y : QEntry := .word 0 0 pos 2 0 0 0
  let s := (placed w).modCe 0 0 fun x => { x with mx0 := { m with owner := some 0, queue := y :: m.queue } }
  { s with sel := some (.entry 0 0 false y) }
def mxRun0 (w : Nat) (pos : List FPos) : MxRun :=
  { hearth := 0, ce := 0, second := false, bind := 0, ch := probeCharge (BitVec.ofNat 64 w),
    cc := { CeCtx.reset 0 0 0 0 with ready := [probeFiring] },
    blk := { shape := 0, first := 0, header := 0, words := [BitVec.ofNat 64 w] }, slot := 0, pos := pos, p0 := 2, p1 := 0, epoch := 0 }
/-- A row of 32 ones, its first tag 32 g. -/
def row32 (g : Nat) : List FPos := posN (32 * g) (List.replicate 32 1) (List.replicate 32 0)
/-- A latch whose column 0 holds 2 in each of rows 0 to 31, of one column. -/
def latch2 : MCtx := { MCtx.reset with latch := (List.range 32).map fun r => (16 * r, 2) }

theorem wit_matrix : MxEntry (mxState 0xA2AA00C064000100 (row32 3) latch2) (mxRun0 0xA2AA00C064000100 (row32 3))
      (.word 0 0 (row32 3) 2 0 0 0) ∧ (wx .s8 .s8).sel.toNat % 8 ≤ 4 ∧ row32 3 ≠ [] ∧
    (∀ q ∈ row32 3, q.iter.toNat / 32 = 3) := ⟨⟨rfl, rfl, rfl⟩, by decide, by decide, by decide⟩
theorem wit_matrix_one : (pos1 7 0) = [{ iter := 0, l := some 7, r := some 0, p := some 1 }] ∧
    MxEntry (mxState 0 (pos1 7 0) latch2) (mxRun0 0 (pos1 7 0)) (.word 0 0 (pos1 7 0) 2 0 0 0) := ⟨rfl, rfl, rfl, rfl⟩
/-- MMAS's scale pairs: with SCL 1 and no scale in the latch, the pair of each column is that of the defaults. -/
theorem wit_matrix_scale : (∀ n, n < 16 → latch2.pairOf 1 n = latch2.pairOf 1 0) ∧ { latch2 with sa := some 5 }.pairOf 1 0 ≠
    { latch2 with sa := some 5 }.last 0 1 := by decide
/-- MMA of a row of 32 ones with a column of twos adds 64 to row 3, and nothing to row 4. -/
theorem test_mma : (match exec (.mma { wx .s8 .s8 with sel := 0 }) (mxState 0xA2AA00C064000100 (row32 3) latch2) with
    | .next t => some (((t.ce 0 0).mx0.accAt 3 0), ((t.ce 0 0).mx0.accAt 4 0))
    | _ => none) = some (64, 0) := by decide +kernel

def scaleState (streaming : Bool) : State :=
  (placed 0x0B54184060000001).modCe 0 0 fun x =>
    { x with mx0 := { MCtx.reset with owner := some 0, queue := [.scale 0 streaming 5 0x3F80] } }
theorem wit_scale_entry : ∀ b, (∃ c blk, (scaleState b).mxPick 0 0 = some (false, .scale 0 b 5 0x3F80) ∧
    ((scaleState b).ce 0 0).mx0.owner = some 0 ∧ (scaleState b).charge? 0 = some c ∧ (scaleState b).blockOf c 0 0 = some blk) := by
  intro b; cases b <;> exact ⟨_, _, rfl, rfl, rfl, rfl⟩

/-- A handler at slot 0 whose body's last word is MMAS, with EOS taken, and an empty queue. -/
def mxEosState : State :=
  let h := hndlState .data 0
  let blk : Block := { shape := 0, first := 0, header := 0, words := [0x0B54184060000001, 0xA3AA00C064000100] }
  withFab h fun f => { f with
    charges := f.charges.map fun (b, c) => (b, { c with image := { c.image with blocks := [blk] } })
    ctxs := [(0, { CeCtx.reset 0 0 0 0 with eosOut := [(0, 9)] })] }
theorem wit_matrix_eos : ∃ cc c b, mxEosState.ctx? 0 0 0 = some cc ∧ mxEosState.charge? cc.bind = some c ∧
    (mxEosState.ce 0 0).mxOf cc.bind = some false ∧ c.block? cc.block = some b ∧ Table.get? cc.eosOut 0 = some 9 ∧ c.runs = true ∧
    (mxEosState.ce 0 0).mx0.queue = [] ∧
    ((b.bodyWords 0).filter fun x => (wordOp x.2 == 0xA3 || wordOp x.2 == 0xA4) && (Table.get? cc.eosOut x.1).isNone) ≠ [] :=
  ⟨_, _, _, rfl, rfl, rfl, rfl, rfl, rfl, rfl, by decide⟩

/-- MGATH of n32 elements from a scratchpad region, one column, at its first element and with a second one left. -/
def gathState (pos : List FPos) : State :=
  let s := mxState 0xA8AA000000000000 pos { MCtx.reset with mgath := 1 }
  withFab s fun f => { f with charges := f.charges.map fun (b, c) => (b, { c with image := { c.image with
    regions := [(BitVec.ofNat 64 (7 * 2 ^ 24), 0, 65536)] } }) }
theorem wit_mgath : (∃ q ∈ pos1 7 0, q.l ≠ none) ∧ (∀ q ∈ ([{ iter := 0, l := none, r := none, p := none }] : List FPos), q.l = none) ∧
    MxEntry (mxState 0 [{ iter := 0, l := none, r := none, p := none }] latch2) (mxRun0 0 [{ iter := 0, l := none, r := none, p := none }])
      (.word 0 0 [{ iter := 0, l := none, r := none, p := none }] 2 0 0 0) :=
  ⟨⟨_, .head _, by decide⟩, by decide, rfl, rfl, rfl⟩
theorem wit_mgath_return : ∀ pos ∈ [pos1 3 0, posN 0 [3, 4] [0, 0]], ∃ y rest M r q v ma,
    ((gathState pos).ce 0 0).mx0.queue = y :: rest ∧ (gathState pos).mxRun 0 0 false y = some M ∧
    ((gathState pos).ce 0 0).mx0.mgath ≠ 0 ∧ ((gathState pos).ce 0 0).mx0.parked = false ∧ M.ch.serves = true ∧
    M.ch.region? 0 = some r ∧ (M.pos.filter fun q => q.l.isSome)[(0 : Nat)]? = some q ∧ q.l = some v ∧
    r.inBounds (v.toNat % 2 ^ 32 * M.p0.toNat + M.p1.toNat + 0) 4 = true ∧
    (gathState pos).place M.ch 0 r (r.base + (v.toNat % 2 ^ 32 * M.p0.toNat + M.p1.toNat + 0) * 4) true false = .ok (.pad 0 ma) ∧
    (gathState pos).passes 0 0 = true ∧ (gathState pos).anyPoison ma 4 = false ∧ (gathState pos).moveAt ma = none := by
  intro pos h
  simp only [List.mem_cons, List.not_mem_nil, or_false] at h
  rcases h with rfl | rfl <;>
    exact ⟨_, _, _, _, _, _, _, rfl, rfl, by decide, rfl, rfl, rfl, rfl, rfl, rfl, rfl, rfl, rfl, rfl⟩

/-! ### Joins -/

/-- A join word in slot 0 with positions `pos`; context 0 has partition `j`, whose ash is region 0, 64 KiB of the
scratchpad. -/
def joinState (pos : List FPos) (j : Join) : State :=
  let s := fired pos
  (withFab s fun f => { f with charges := f.charges.map fun (b, c) => (b, { c with image := { c.image with
    regions := [(BitVec.ofNat 64 (7 * 2 ^ 24), 0, 65536)] } }) }).modHearth 0 fun x => { x with joins := [(0, j)] }
def joinFire (pos : List FPos) : Fire :=
  { fireOf pos with ch := { probeCharge 0 with image := { (probeCharge 0).image with
    regions := [(BitVec.ofNat 64 (7 * 2 ^ 24), 0, 65536)] } } }
def join0 : Join := probeJoin 0
def region0 : Region := regionOf (BitVec.ofNat 64 (7 * 2 ^ 24), 0, 65536)

theorem wit_join (pos : List FPos) : OnJoin (joinState pos join0) (joinFire pos) join0 ∧ (joinState pos join0).wlog = [] ∧
    Memory.wf (joinState pos join0).mem = true := ⟨⟨⟨rfl, rfl, ⟨_, rfl, rfl⟩, rfl⟩, rfl, rfl, rfl, rfl, rfl, rfl, rfl, rfl⟩, rfl, rfl⟩

/-- R260: key 1 has home bank 28 and index 1240, key 2 bank 26 and index 433. -/
theorem test_homes : homeOf 1 = (28, 1240) ∧ homeOf 2 = (26, 433) := by decide

theorem wit_join_key : (1 : Val).toNat % 2 ^ Fmt.n32.bits = 1 ∧ join0.wlo.toNat ≤ 1 ∧ 1 ≤ join0.whi.toNat ∧
    ¬(({ join0 with wlo := 5 } : Join).wlo.toNat ≤ 1) := by decide
/-- Probes of an empty partition, and of one that holds the key. -/
theorem wit_probe_empty : (joinState [] join0).probe 0 join0 1 = (.empty (2048 * 28 + 1240 % 64), 1) := by decide +kernel

/-- JADD of (1, 2.0) where the slot holds (1, 1.0): 3.0 with two additions; the steps are those of one insertion. -/
def joined : State := match exec (.jadd { wx .n32 .f32 with arity := 2 }) (joinState (pos1 1 0x3F800000) join0) with
  | .next t => t
  | _ => State.reset
theorem wit_probe_hit : joined.probe 0 join0 1 = (.hit (2048 * 28 + 1240 % 64) (JSlot.mk 1 0x3F800000 1), 1) := by decide +kernel
theorem test_jadd : (match exec (.jadd { wx .n32 .f32 with arity := 2 })
      { joinState (pos1 1 0x40000000) join0 with mem := joined.mem } with
    | .next t => (t.jslot 0 (2048 * 28 + 1240 % 64) false).map fun x => (x.key, x.value, x.adds)
    | _ => none) = some (1, 0x40400000, 2) := by decide +kernel

theorem wit_pad : region0.space = 0 ∧ (joinFire []).ch.region? 0 = some region0 ∧ join0.ash = 0 ∧
    Pad (joinState [] join0) (joinFire []).ch 0 region0 (padAddr 0 0) ∧
    (∀ n a, padAddr 0 0 ≤ a → a < padAddr 0 0 + region0.length → ¬(jafAddr 0 n ≤ a ∧ a < jafAddr 0 n + 64)) ∧
    (joinState [] join0).nat (padAddr 0 0) 4 = 0 ∧ Quiet (joinState [] join0) := by
  refine ⟨rfl, rfl, rfl, ⟨rfl, rfl, rfl, by decide, by decide, rfl⟩, fun n a h1 h2 h3 => ?_, by decide +kernel, rfl, rfl⟩
  have h : region0.length = 65536 := rfl
  unfold jafAddr at h3; unfold padAddr at h2; omega

/-- The spill of an empty partition into an ash whose header says no run and 64 bytes used. -/
def ash0 : Ash := { b := 0, c := (joinFire []).ch, h := 0, r := region0, a := { agent := 1, epoch := 0, table := Vec.empty, part := 0 }, cycle := 0 }
def spillState : State := { joinState [] join0 with mem := [(padAddr 0 8, 64)] }
theorem wit_spill : Pad spillState ash0.c 0 region0 (padAddr 0 0) ∧ spillState.wlog = [] ∧ spillState.nat (padAddr 0 0) 4 = 0 ∧
    Quiet spillState ∧ spillState.nat (padAddr 0 0 + 8) 8 = 64 ∧ 64 + 16 + 16 * ([] : List JSlot).length ≤ region0.length := by
  refine ⟨⟨rfl, rfl, rfl, by decide, by decide, rfl⟩, rfl, by decide, ⟨rfl, rfl⟩, by decide, by decide⟩
theorem wit_combine : (combine (policyOf 0) .f32 [(2, 0x3F800000), (1, 0x40000000), (2, 0x3F800000)]).1 =
    [(1, 0x40000000), (2, 0x40000000)] := by decide +kernel

/-- A drain that has the records `todo` left, the first of tag 30. -/
def drain0 (ordered : Bool) (todo : List (Nat × Nat)) : Drain := { ordered := ordered, ce := 0, slot := 0, trig := 0, cycle := 0, tag := 30, todo := todo }
def drainState (ordered : Bool) (todo : List (Nat × Nat)) : State :=
  joinState [] { join0 with draining := some (drain0 ordered todo) }
theorem wit_drain_done : ∀ b, ∀ todo ∈ [[], [(1, 2), (3, 4), (5, 6)]], ∃ c j, (drainState b todo).charge? 0 = some c ∧
    (drainState b todo).join? 0 c.ctx = some j ∧ j.draining = some (drain0 b todo) ∧
    c.region? j.ash = some region0 ∧ j.bind = 0 ∧ c.engines = true ∧ c.mayTry (juKey 0) = true ∧ (drainState b todo).wlog = [] ∧
    (drainState b todo).writeHeld 0 0 c.ctx 0 = false ∧ ((drainState b todo).unitWord 0 0 0 0).isSome = true ∧
    Pad (drainState b todo) c 0 region0 (padAddr 0 0) ∧
    Memory.wf (drainState b todo).mem = true ∧ c.timelines[j.dtl]? = none := by
  intro b todo h
  simp only [List.mem_cons, List.not_mem_nil, or_false] at h
  cases b <;> rcases h with rfl | rfl <;>
    exact ⟨_, _, rfl, rfl, rfl, rfl, rfl, rfl, rfl, rfl, rfl, rfl, ⟨rfl, rfl, rfl, by decide, by decide, rfl⟩, rfl, rfl⟩
/-- R266: of three records from tag 30 on the first run ends before the next multiple of 32. -/
theorem test_drain_run : (drain0 false [(1, 2), (3, 4), (5, 6)]).nextRun 32 = 2 := by decide

/-! ### The index engine: R272's row pointers 0, 2, 5, 9, 12 -/

def walk0 (e0 e1 : Nat) : Walk :=
  { bind := 0, ce := 0, slot := 0, iter := 7, e0 := BitVec.ofNat 32 e0, e1 := BitVec.ofNat 32 e1, quad := [0, 16, 4, 100],
    region := 0, epoch := 0, cycle := 0, parked := false, bubble := false, memo := [], want := none }

/-- Such a walk by the word `i` of slot 0, both consumers being in block 0. -/
def ieState (i : Instr) (e0 e1 : Nat) : State :=
  let blk : Block := { shape := 0, first := 0, header := 0, words := [(encode i).getD 0] }
  let s := withFab (joinState [] join0) fun f => { f with
    charges := f.charges.map fun (b, c) => (b, { c with image := { c.image with blocks := [blk] } }) }
  { s.modHearth 0 fun x => { x with ie := [walk0 e0 e1] } with
    mem := [(padAddr 0 4, 2), (padAddr 0 8, 5), (padAddr 0 12, 9), (padAddr 0 16, 12)] }
def bothCons : WordX := { wx .n32 .n32 with cons2 := { slot := 2, port := 0 } }

theorem wit_walk_off (off : Nat) : padAddr 0 (0 + (0 + off)) = padAddr 0 0 + off := by unfold padAddr; omega
theorem wit_walking : ∀ i ∈ [Instr.ibal bothCons, .iwalk bothCons], ∃ c u, Walking (ieState i 0x301 6) 0 (walk0 0x301 6) c region0 (padAddr 0 0) u ∧
    u.2.2 = (encode i).getD 0 ∧ calm.check = .good ∧ rowPtr (ieState i 0x301 6) (walk0 0x301 6) (padAddr 0 0) 0 = 0 ∧
    rowPtr (ieState i 0x301 6) (walk0 0x301 6) (padAddr 0 0) 4 = 12 ∧
    (∀ k, k < 4 → rowPtr (ieState i 0x301 6) (walk0 0x301 6) (padAddr 0 0) k ≤ rowPtr (ieState i 0x301 6) (walk0 0x301 6) (padAddr 0 0) (k + 1)) ∧
    4 * (0 + 4) + 4 ≤ region0.length ∧ 4 * (16 + 12) ≤ region0.length := by
  intro i h
  simp only [List.mem_cons, List.not_mem_nil, or_false] at h
  rcases h with rfl | rfl <;>
    exact ⟨_, _, ⟨rfl, rfl, rfl, rfl, rfl, ⟨rfl, rfl⟩, by decide, rfl, rfl, rfl, wit_walk_off⟩, rfl, rfl, by decide,
      by decide, by decide +kernel, by decide, by decide⟩
theorem wit_walking_op : wordOp ((encode (.ibal bothCons)).getD 0) = 0xBB ∧ wordOp ((encode (.iwalk bothCons)).getD 0) = 0xBA := by decide

/-- Participant 1 of 4 has [3, 6), whose first element lies in row 1. -/
theorem test_ibal : sent (exec (.ieWalk 0 calm) (ieState (.ibal bothCons) 0x301 0)) =
    [(1, 7, [3 + 2 ^ 32 * 6]), (2, 7, [1])] := by decide +kernel
/-- Elements 1 to 5: rows 0, 1, 1, 1, 2, at tags 101 to 105. -/
theorem test_iwalk : sent (exec (.ieWalk 0 calm) (ieState (.iwalk bothCons) 1 6)) =
    [(1, 101, [0, 1, 1, 1, 2]), (2, 101, [0, 0, 0, 0, 0])] := by decide +kernel

/-! ## Witnesses: system words -/

theorem wit_sys_live : (pos1 3 5).filter (liveSys (ws 1)) = pos1 3 5 ∧
    ([{ iter := 0, l := none, r := none, p := none }] : List FPos).filter (liveSys (ws 1)) = [] ∧
    (fireOf (pos1 3 5)).ch.phase = .running := by decide

theorem test_halt : (match exec (.halt { ws 1 with code := 7 }) (fired (pos1 3 5)) with
    | .next t => (t.charge? 0).map (·.phase)
    | _ => none) = some (.halting 7) := by decide
theorem test_trap : (match exec (.trap { ws 1 with code := 7 }) (fired (pos1 3 5)) with
    | .next t => (t.charge? 0).map fun c => c.faults.map fun r => (r.code, r.detail)
    | _ => none) = some [(0x15, [0, 0, 0, 1, 7, 3])] := by decide
theorem test_rdctl_ctx : run (.rdctl { ws 1 with code := 1 }) (pos1 3 5) = [(1, 0, [0])] := by decide
theorem test_yield : run (.yield (ws 1)) (pos1 3 5) = [(1, 0, [3])] := by decide

/-- Tables at 0x2000 to 0x8000, used by both stages, that give pages 0 of both stages to frame 0, readable and writable. -/
def tables : List Host.Cell :=
  [(0x2000, 3), (0x2001, 0x40), (0x4000, 3), (0x4001, 0x60), (0x6000, 3), (0x6001, 0x80), (0x8000, 0x0D)]
def mapped (s : State) : State :=
  { s with mem := tables, adm := { s.adm with aspaces := [(0, { partition := 0, wRoot := 1, sRoot := 1, enable := true })] } }

theorem wit_stoker : (mapped (fired (pos1 0 0))).stokerAddr 0 0 true false = some 0 ∧
    (mapped (fired (pos1 0 0))).stokerAddr 0 0xA080 false true = some 0xA080 := by decide +kernel
theorem wit_rdctl : Stands (mapped (fired (pos1 0 0))) (fireOf (pos1 0 0)) ∧ ({ ws 1 with code := 10 } : WordS).code = 10 ∧
    (fireOf (pos1 0 0)).ch.launch.aspace = 0 ∧ (fireOf (pos1 0 0)).ch.launch.record = 0 := ⟨⟨rfl, rfl, ⟨_, rfl, rfl⟩, rfl⟩, rfl, rfl, rfl⟩

/-- A queue of four entries whose ring lies at 0xA000, with `n` packets. -/
def launchState (st : BitVec 3) (n : Nat) : State :=
  let s := mapped (fired (pos1 0 0))
  { s with adm := { s.adm with queues := [(0, { Queue.reset with
    state := st, ring := 0xA000, lsize := 2, tail := BitVec.ofNat 24 n, aspace := 0 })] } }
theorem wit_launch : Stands (launchState 1 1) (fireOf (pos1 0 0)) ∧
    (taken (launchState 1 1) (fireOf (pos1 0 0))).packetAt (fireOf (pos1 0 0)) 0 1 = .misplaced ∧
    (taken (launchState 1 1) (fireOf (pos1 0 0))).packetAt (fireOf (pos1 0 0)) 0 0 = .bytes (List.replicate 128 0) ∧
    ((launchState 0 1).queue 0 0).state ≠ 1 ∧ ((launchState 0 1).queue 0 0).destroyed ≠ some 0 ∧
    ((launchState 1 1).queue 0 0).state = 1 ∧
    2 ^ ((launchState 1 4).queue 0 0).lsize ≤ (((launchState 1 4).queue 0 0).tail - ((launchState 1 4).queue 0 0).head).toNat ∧
    (((launchState 1 1).queue 0 0).tail - ((launchState 1 1).queue 0 0).head).toNat < 2 ^ ((launchState 1 1).queue 0 0).lsize ∧
    (launchState 1 1).stokerAddr 0 0xA080 false true = some 0xA080 ∧ (launchState 1 1).memSide.moves = [] ∧
    (launchState 1 1).writable 0xA080 = true ∧ (launchState 1 1).wlog = [] ∧ Memory.wf (launchState 1 1).mem = true := by
  refine ⟨⟨rfl, rfl, ⟨_, rfl, rfl⟩, rfl⟩, by rfl, by decide +kernel, ?_, ?_, ?_, ?_, ?_, ?_, rfl, ?_, rfl, ?_⟩ <;> decide +kernel

/-- SPLICE's packet of zeros has a right check, and its image of zeros no shape; a packet of ones has a wrong one. -/
theorem wit_splice : (fireOf (pos1 0 0)).ch.successor = none ∧ packetCheckOk (List.replicate 128 0) = true ∧
    packetCheckOk (List.replicate 128 1) = false ∧
    (taken (launchState 1 1) (fireOf (pos1 0 0))).imageBytes ((fireOf (pos1 0 0)).launchOf (List.replicate 128 0) .empty) =
      some (List.replicate 64 0) ∧ shapeOf (List.replicate 64 0) = [] ∧ (fireOf (pos1 0 0)).ch.image.shape = [0] ∧
    (taken (launchState 1 1) (fireOf (pos1 0 0))).freeRecord = some 1 ∧
    ((List.range 16).find? fun k => !((taken (launchState 1 1) (fireOf (pos1 0 0))).ctxHeld 1024 k [0])) = some 1 := by
  refine ⟨rfl, ?_, ?_, ?_, ?_, rfl, ?_, ?_⟩ <;> decide +kernel
/-- Sixteen charges on one hearth leave no context free. -/
def crowded : State := withFab (launchState 1 1) fun f =>
  { f with charges := (List.range 16).map fun k => (k, { probeCharge 0 with ctx := k }) }
theorem wit_splice_full : Stands crowded (fireOf (pos1 0 0)) ∧
    ((List.range 16).find? fun k => !((taken crowded (fireOf (pos1 0 0))).ctxHeld 1024 k [0])) = none := by
  exact ⟨⟨rfl, rfl, ⟨_, rfl, rfl⟩, rfl⟩, by decide +kernel⟩

/-! ## Witnesses: tokens that arrive -/

def token0 (p : Port) (vals : List Val) : Token :=
  { src := [3], bind := 0, hearth := 0, ce := 0, slot := 0, port := p, kind := .data, iter := 4, vals := vals, words := 1, ctx := 0, task := false,
    nd := false, check := 0, acq := [], parked := false }
def entry0 (p : Port) (vals : List Val) : Entry := { eosL with port := p, kind := .data, iter := 4, vals := vals }
/-- One token in transit to a word of slot 0 of the arity given, whose context holds `l`, in a CE with `ways`. -/
def arriveState (arity ways : Nat) (t : Token) (l : List Entry) : State :=
  (withFab (placed (0x2050004060000000 + arity * 2 ^ 50)) fun f =>
    { f with transit := [t], ctxs := [(0, { CeCtx.reset 0 0 0 0 with entries := l })] }).modHearth 0 fun x =>
      { x with ways := [(0, ways)] }

theorem wit_arriving (arity ways : Nat) (p : Port) (l : List Entry) :
    ∃ c cc b, Arriving (arriveState arity ways (token0 p [5, 6]) l) 0 (token0 p [5, 6]) c cc b ∧ cc.entries = l ∧ c.ctx = 0 :=
  ⟨_, _, _, ⟨rfl, rfl, fun _ h => (List.not_mem_nil h).elim, rfl, rfl, rfl, rfl, rfl, rfl⟩, rfl, rfl⟩
theorem wit_run_operands : ∀ arity, arity ∈ [1, 2] → Operands (token0 .L [5, 6])
    { shape := 0, first := 0, header := 0, words := [BitVec.ofNat 64 (0x2050004060000000 + arity * 2 ^ 50)] } := by
  intro a h
  simp only [List.mem_cons, List.not_mem_nil, or_false] at h
  rcases h with rfl | rfl <;> exact ⟨.inl rfl, by decide, by decide, by decide⟩
theorem wit_required : (((arriveState 1 4 (token0 .L [5, 6]) []).charge? 0).map fun c => c.required 0 0) = some [.L] ∧
    (((arriveState 2 4 (token0 .L [5, 6]) []).charge? 0).map fun c => c.required 0 0) = some [.L, .R] := by decide
/-- The other operand is there, or nothing is; room in a way, in the table, and nowhere; and the same tag at the same port. -/
theorem wit_room : (entry0 .R [7, 8]).port ≠ .L ∧ (entry0 .R [7, 8]).iter = (token0 .L [5, 6]).iter ∧
    (entry0 .R [7, 8]).vals.length = 2 ∧
    waysUsed (arriveState 2 4 (token0 .L [5, 6]) []) 0 0 0 (setOf 0 0 4) [] < (arriveState 2 4 (token0 .L [5, 6]) []).wayCount 0 0 ∧
    (arriveState 2 0 (token0 .L [5, 6]) []).wayCount 0 0 ≤ waysUsed (arriveState 2 0 (token0 .L [5, 6]) []) 0 0 0 (setOf 0 0 4) [] ∧
    (probeCharge 0).image.overflow ≤ tableUsed (arriveState 2 0 (token0 .L [5, 6]) []) 0 0 0 [] ∧
    (entry0 .L [7, 8]).port = (token0 .L [5, 6]).port := by decide
/-- R56's set hash: context 3, slot 0x45, iter 0x123 has set 0xB; context 2, slot 0x10 sends tags 0x3C and 0x40 to 2 and 1. -/
theorem test_set : setOf 3 0x45 0x123 = 0xB ∧ setOf 2 0x10 0x3C = 2 ∧ setOf 2 0x10 0x40 = 1 ∧ setOf 2 0x10 0xFFFFFC = 4 ∧
    setOf 2 0x10 0 = 3 := by decide
/-- A run of two tags whose other operands wait fires once; the word's entries are gone. -/
theorem test_match : (match exec (.tokenArrival 0 .good) (arriveState 2 4 (token0 .L [5, 6]) [entry0 .R [7, 8]]) with
    | .next t => (t.ctx? 0 0 0).map fun c => (c.entries.length, c.ready.map fun f => f.pos.map fun q => (q.iter.toNat, (q.l.getD 0).toNat, (q.r.getD 0).toNat))
    | _ => none) = some (0, [[(4, 5, 7), (5, 6, 8)]]) := by decide

theorem wit_abort : (placed 0).charge? 0 ≠ none ∧ (∀ c, (placed 0).charge? 0 = some c → c.phase = .running) ∧
    (placed 0).charge? 9 = none ∧ ((placed 0).bindRec 9).state ≠ 1 ∧ ((placed 0).bindRec 9).state ≠ 2 ∧
    (((placed 0).modBind 9 fun r => { r with state := 2 }).bindRec 9).state = 2 := by
  refine ⟨by decide, fun c h => ?_, rfl, by decide, by decide, rfl⟩
  cases h; rfl

theorem wit_eos : ∃ cc ch b x, (arriveState 1 4 (token0 .L [5]) [eosL]).ctx? 0 0 0 = some cc ∧
    (arriveState 1 4 (token0 .L [5]) [eosL]).charge? cc.bind = some ch ∧ ch.block? cc.block = some b ∧ ch.runs = true ∧
    cc.loaded = true ∧ wordOp (b.words.getD 0 0) ∉ [0x07, 0x89, 0x8D, 0x98, 0x9A] ∧
    (arriveState 1 4 (token0 .L [5]) [eosL]).eosReady 0 0 0 cc ch b 0 = true ∧ ch.required cc.block 0 = [.L] ∧
    heldEos cc 0 .L = some x := ⟨_, _, _, _, rfl, rfl, rfl, rfl, rfl, by decide, rfl, rfl, rfl⟩

/-! ### Address generators -/

/-- AG 0's program: four n32 elements of region 0 from element 0, read, or written with `wr`. -/
def agBytes (wr : Bool) : List Byte :=
  (List.range 96).map fun k => if k = 3 then 0x0A else if k = 2 ∧ wr = true then 0x40 else if k = 32 then 4 else if k = 40 then 1 else 0
def chainState (wr : Bool) (g : ChainSt) : State :=
  (withFab (joinState [] join0) fun f => { f with
    pilots := [{ bind := 0, route := 0, hearth := 0, ce := 0, slot := 0 }]
    charges := f.charges.map fun (b, c) => (b, { c with image := { c.image with pilots := [0], ags := [agBytes wr] } }) }).modHearth 0
      fun x => { x with ags := [(0, g)] }
def chain0 : ChainSt :=
  { running := false, index := 0, pending := 0, starts := 0, buffer := [], fifo := [some 9], routes := [(0, 0, 0)], parked := false,
    since := 0, began := 0, vec := Vec.empty, epoch := 0, ended := false }

theorem wit_chain_start (g : ChainSt) : ∃ p c, (chainState false g).fab.pilots[(0 : Nat)]? = some p ∧
    (chainState false g).charge? p.bind = some c ∧ c.routeChain p.bind p.route = some (.ag 0 0 0) ∧
    (chainState false g).passes p.hearth 0 = true ∧ (chainState false g).chain? (.ag 0 0 0) = some g ∧ c.phase = .running :=
  ⟨_, _, rfl, rfl, rfl, rfl, rfl, rfl⟩
theorem wit_chain_step : ∀ wr, ∃ c p, (chainState wr { chain0 with running := true }).charge? 0 = some c ∧
    (chainState wr { chain0 with running := true }).chain? (.ag 0 0 0) = some { chain0 with running := true } ∧ c.agAt 0 0 = some p ∧
    p.write = wr ∧ c.region? p.region = some region0 ∧ c.engines = true ∧ 0 < p.total ∧ (p.point 0).1 = ((0 : Nat) : Int) ∧
    region0.inBounds 0 (elemBytes p.fmt false) = true ∧ (chainState wr chain0).fab.reqs = [] := by
  intro wr; cases wr <;> exact ⟨_, _, rfl, rfl, rfl, rfl, rfl, rfl, by decide, rfl, rfl, rfl⟩
theorem wit_stream_over : ∃ c cc, (chainState false { chain0 with running := true, index := 4 }).charge? 0 = some c ∧
    (chainState false { chain0 with running := true, index := 4 }).streamOver c (.ag 0 0 0) { chain0 with running := true, index := 4 } = true ∧
    (chainState false chain0).ctx? 0 0 c.ctx = some cc ∧ chain0.routes = [(0, 0, 0)] := ⟨_, _, rfl, rfl, rfl, rfl⟩
theorem wit_chain_rerun : ({ chain0 with ended := true, pending := 2 } : ChainSt).pending ≠ 0 ∧ chain0.pending = 0 ∧
    (255 : Nat) ≤ ({ chain0 with running := true, pending := 255 } : ChainSt).pending := by decide
theorem test_ag_write : (match exec (.homeAccess (.ag 0 0 0) calm) (chainState true { chain0 with running := true }) with
    | .next t => (t.byte (padAddr 0 0)).toNat
    | _ => 0) = 9 := by decide +kernel

/-! ### Windows, registers, embers and buckets -/

/-- Hearth 0 held by the partition of device 0, which the reset leaves in 0xFF. -/
def windowState : State := (placed 0).modHearth 0 fun x => { x with owner := some ((placed 0).vdev 0).partition.toNat }

theorem wit_reaches : windowState.reachesSlot .wholesaler 0 = true ∧ windowState.reachesSlot (.tenant 0) 0 = true ∧
    windowState.reachesSlot (.core 3) 0 = false ∧ windowState.wlog = [] ∧ Memory.wf windowState.mem = true ∧
    (∀ x ∈ (State.reset.hearth 0).tiles, x.2.mapped = false) := by decide
/-- A record of zeros is a token of kind DATA for slot 0, whose check is right; one of ones is none. -/
theorem wit_inject : deviceOf (.tenant 0) = some 0 ∧ (windowState.recordToken 0 0 (some 0) (List.replicate 256 0)).isSome = true ∧
    windowState.recordToken 0 0 (some 0) (List.replicate 256 1) = none := by refine ⟨rfl, ?_, ?_⟩ <;> decide +kernel
theorem test_param_write : (match exec (.paramWindowWrite .wholesaler 0 1 2 3 0x01020304) windowState with
    | .next t => some (t.param 0 1 2 3 32)
    | _ => none) = some 0x01020304 := by decide +kernel
theorem wit_doorbell : ((launchState 1 0).queue 0 0).state = 1 ∧ leNat [2, 0, 0, 0, 0, 0, 0, 0] / 2 ^ 56 % 4 = 0 ∧
    leNat [0, 0, 0, 0, 0, 0, 0, 1] / 2 ^ 56 % 4 ≠ 0 := by decide +kernel
theorem wit_core_store : writesSlots (.core 20) = true ∧
    (BitVec.ofNat 256 (leNat (List.replicate 14 0 ++ [0x40] ++ List.replicate 17 0))).extractLsb' 118 3 = 1 ∧
    (BitVec.ofNat 256 (leNat (List.replicate 15 0 ++ [1] ++ List.replicate 16 0))).extractLsb' 118 3 = 4 := by decide
theorem wit_no_register : regAt 0xFF8 = none ∨ regAt 0xFFFFFF8 = none := by decide
theorem test_clear : (match exec (.rcCounterClear .wholesaler 0xC08) { State.reset with mod := { State.reset.mod with windowRej := 5 } } with
    | .next t => some t.mod.windowRej
    | _ => none) = some 0 := by decide

theorem wit_ember : 5 < emberEnd - emberBase ∧ State.reset.emberOwner 5 = 0xFF ∧ State.reset.memSide.emberOwner = [] := by decide
theorem wit_halve : ({ State.reset with cycle := 1600000 } : State).mod.emberMs < 1600000 / cyclesPerMs ∧
    ({ State.reset with cycle := 1600000 } : State).mod.bucketUs < 1600000 / cyclesPerUs := by decide
def deferState : State := { State.reset with memSide := { State.reset.memSide with deferred := [Deferred.mk 3 0 7 1 false] } }
theorem wit_deferred : (deferState.memSide.deferred.find? fun x => x.controller == 3 && !x.granted) = some (Deferred.mk 3 0 7 1 false) ∧
    deferState.memSide.served = [] := ⟨rfl, rfl⟩
/-- The interval of reset is served at most once: what was served is not the next interval's number. -/
theorem wit_deferred_slot : Table.getD deferState.memSide.served 3 0 ≠ deferState.refreshSlot + 1 := by
  show (0 : Nat) ≠ _ + 1
  omega

/-! ## Witnesses: queues, records, loads and swaps -/

/-- Bytes `bs` from address `a` on, as memory cells: those that are not 0. -/
def cells (a : Nat) (bs : List Byte) : List Host.Cell := (bs.zipIdx.map fun (b, i) => (a + i, b)).filter fun x => x.2 ≠ 0

def crcTail (p : List Byte) : List Byte := p ++ leBytes 2 (crc16 (p ++ [0, 0]))
/-- A launch packet of version 1 whose image lies at 0xC000, its check right. -/
def goodPacket : List Byte := crcTail ((List.range 126).map fun i => if i = 0 then 1 else if i = 9 then 0xC0 else 0)
/-- A splice-bit packet of flags 4, for which reason 1 rejects. -/
def badPacket : List Byte := crcTail ((List.range 126).map fun i => if i = 0 then 1 else if i = 3 then 0xFF else 0)

/-- Partition 2 holds device 0, which may bind; its queue 0 has a ring at 0xA000 of 16 entries, with `p` first. -/
def queueState (st : BitVec 3) (n : Nat) (p : List Byte) (ring : Nat) : State :=
  let s := State.reset
  { s with
    mem := tables ++ cells 0xA000 p
    adm := { s.adm with
      aspaces := [(0, { partition := 2, wRoot := 1, sRoot := 1, enable := true })]
      parts := [(2, { PartReg.reset with rights := BitVec.allOnes _ })]
      vdevs := [(0, { qtable := 0xE000, partition := 2, rights := BitVec.allOnes 6, state := 1, burst := 0, rate := 0 })]
      queues := [(0, { Queue.reset with state := st, ring := BitVec.ofNat 64 ring, lsize := 4, tail := BitVec.ofNat 24 n, aspace := 0 })] } }

/-- This module's own domain: module number 0, whose address space gives page 0. -/
theorem wit_home_own : (match ((queueState 1 0 [] 0xA000).walkPage ((queueState 1 0 [] 0xA000).aspace 0) (some 0) 0 12).grant false true with
    | .ok x => x.machine 12 == 12 && !x.xs && (tierOf 12).isSome
    | .error _ => false) = true ∧ ((queueState 1 0 [] 0xA000).aspace 0).enable = true := by decide +kernel

theorem wit_queue_agents : (queueState 1 0 [] 0xA000).reachesQueue (.tenant 0) 0 = true ∧
    (queueState 1 0 [] 0xA000).reachesQueue (.core 3) 0 = false ∧ (queueState 1 0 [] 0xA000).mayDevice (.tenant 0) 0 rightBind = true ∧
    (queueState 1 0 [] 0xA000).mayDevice (.core 3) 0 rightBind = false ∧ ((queueState 1 0 [] 0xA000).queue 0 0).state = 1 ∧
    ((queueState 2 0 [] 0xA000).queue 0 0).state = 2 ∧ ((queueState 0 0 [] 0xA000).queue 0 0).state = 0 ∧
    (queueState 1 0 [] 0xA000).adm.listed = [] ∧ (queueState 1 0 [] 0xA000).adm.spliced = [] ∧
    ((queueState 1 0 [] 0xA000).queue 0 0).held = [] ∧ ((queueState 1 0 [] 0xA000).queue 0 0).launched = [] ∧
    (queueState 0 0 [] 0xA000).anyPoison 0xE000 32 = false := by decide
/-- A descriptor of 16 entries in address space 0 is good, and one of zeros is not. -/
theorem wit_descriptor : (queueState 0 0 [] 0xA000).descriptorOk 0 ((List.range 32).map fun i => if i = 8 then 4 else 0) = true ∧
    (queueState 0 0 [] 0xA000).descriptorOk 0 (List.replicate 32 0) = false := by decide

theorem wit_packet : ((queueState 1 1 goodPacket 0xA000).queue 0 0).head ≠ ((queueState 1 1 goodPacket 0xA000).queue 0 0).tail ∧
    (queueState 1 1 goodPacket 0xA000).vdevHolds 0 rightBind = true ∧
    2 ^ 4 < (((queueState 1 17 [] 0xA000).queue 0 0).tail - ((queueState 1 17 [] 0xA000).queue 0 0).head).toNat ∧
    (queueState 1 1 [] 0x20000).vread 0 0x20000 128 = none := by decide +kernel
theorem wit_packet_read : (queueState 1 1 goodPacket 0xA000).vread 0 0xA000 128 = some goodPacket ∧
    packetCheckOk goodPacket = true ∧ packetCheckOk (List.replicate 128 1) = false ∧ packetCheckOk badPacket = true := by decide +kernel
def launch0 (p : List Byte) : Launch := { packet := p, vec := .empty, vdev := 0, queue := 0, aspace := 0, record := 0 }
theorem wit_packet_accepts : packetReject (launch0 goodPacket) 0 = none ∧ (launch0 goodPacket).isSplice = false ∧
    packetReject (launch0 badPacket) 0 = some 1 ∧ (launch0 goodPacket).record % 64 = 0 ∧ (5 : Nat) % 64 ≠ 0 ∧
    (queueState 1 1 goodPacket 0xA000).stokerAddr 0 0 false true = some 0 ∧
    (queueState 1 1 goodPacket 0xA000).stokerAddr 0 0x20000 false true = none ∧
    (queueState 1 1 goodPacket 0xA000).writable 0 = true ∧ Memory.wf (queueState 1 1 goodPacket 0xA000).mem = true := by
  decide +kernel

def heldState (met : Bool) : State :=
  let s := queueState 1 1 [] 0xA000
  { s with adm := { s.adm with
      sched := { Sched.reset with base := 9 }
      queues := [(0, { Queue.reset with state := 1, lsize := 4, held := [{ launch := launch0 goodPacket, seq := 3, met := met }] })] } }
theorem wit_held : ((heldState true).queue 0 0).held = [{ launch := launch0 goodPacket, seq := 3, met := true }] ∧
    (launch0 goodPacket).waitCount = 0 ∧ (heldState true).writable (9 * 4096) = true ∧ (launch0 goodPacket).packet.length = 128 ∧
    (heldState true).wlog = [] ∧ Memory.wf (heldState true).mem = true ∧ (heldState true).memSide.moves = [] ∧
    ((heldState true).adm.sched.tail - (heldState true).adm.sched.head).toNat < 2 ^ 8 := by decide +kernel
theorem test_packet_held : (match exec (.packetRead 0 0 .good) (queueState 1 1 goodPacket 0xA000) with
    | .next t => some ((t.queue 0 0).held.map (fun h => (h.seq.toNat, h.met)), (t.queue 0 0).head.toNat)
    | _ => none) = some ([(1, true)], 1) := by decide +kernel

/-! ### Bind records -/

/-- A launch listed under number 0 whose entry's record number reads as 0. -/
def listedState : State :=
  let s := queueState 1 0 [] 0xA000
  { s with adm := { s.adm with listed := [(0, launch0 goodPacket)] } }
/-- A record's store: share 1, quantum 5, priority 2, pre-emptable. -/
def store0 : BitVec 256 := BitVec.ofNat 256 (1 * 2 ^ 150 + 5 * 2 ^ 126 + 2 * 2 ^ 123 + 2 ^ 122)

theorem wit_dispatch : writesSlots (.core 20) = true ∧ writesSlots .wholesaler = false ∧ (listedState.bindRec 7).state = 0 ∧
    listedState.charge? 7 = none ∧ Table.get? listedState.adm.listed 0 = some (launch0 goodPacket) ∧ listedState.recordOf 0 = none ∧
    store0.extractLsb' 150 8 ≠ 0 ∧ listedState.fab.charges = [] ∧ listedState.adm.spliced = [] ∧ listedState.requested = [] ∧
    listedState.aspaceRefused 0 = false := by decide +kernel
theorem wit_dispatch_number : leNat (listedState.bytesHome ((store0.extractLsb' 192 64).toNat + 132) 4) = 0 := by decide +kernel

/-- A bound running charge, whose record may be pre-empted. -/
def boundState (r : Bind → Bind) : State := (placed 0).modBind 0 r
theorem wit_preempt : ∃ c, (placed 0).charge? 0 = some c ∧ ((placed 0).bindRec 0).state = 3 ∧ c.phase = .running ∧
    ((placed 0).storedBind 0 store0).preempt = true ∧ c.preempting = false := ⟨_, rfl, by decide, rfl, by decide, rfl⟩
def requestedState : State :=
  { listedState with adm := { listedState.adm with binds := [(7, { Bind.reset with state := 1, launch := some 0 })] } }
theorem wit_teardown : (requestedState.bindRec 7).state = 1 ∧ requestedState.launchOf 7 = some (launch0 goodPacket) ∧
    RecordAt requestedState (launch0 goodPacket) 0 ∧ requestedState.fab.charges = [] ∧ Table.getD requestedState.adm.inbox 7 [] = [] := by
  refine ⟨by decide, rfl, ⟨⟨rfl, rfl⟩, ?_, ?_, ?_, ?_, ?_, rfl, rfl, ?_⟩, rfl, rfl⟩ <;> decide +kernel
theorem wit_quantum : ((boundState fun r => { r with quantum := 2 }).bindRec 0).quantum ≠ 0 ∧
    ((boundState fun r => { r with quantum := 2 }).bindRec 0).expired = false ∧ 0 + 2 * cyclesPerUs ≤ 3200 := by decide

/-! ### Loads -/

/-- A block record: one word SINK in slot 0, on CE 0 of shape hearth 0, credit 0, no entry and no loop. -/
def blockBytes : List Byte :=
  let w := leBytes 8 ((encode (.sink { wa .n32 with arity := 1, cons1 := { slot := 0, port := 3 } })).getD 0).toNat
  let h := leBytes 16 (2 ^ 120 + 0xFF * 2 ^ 24 + 0xFF * 2 ^ 16)
  List.replicate 8 0 ++ (leBytes 2 (crc16 ([0, 0] ++ h.drop 2 ++ w)) ++ h.drop 2 ++ w)

/-- An image of one hearth and that block: header, two directory entries, the shape and the block record. -/
def imageBytes0 : List Byte :=
  let head := leBytes 4 0x4A4B4348 ++ leBytes 2 1 ++ leBytes 2 2 ++ leBytes 4 0x90 ++ leBytes 6 0 ++ leBytes 2 1 ++ leBytes 2 1 ++
    List.replicate 40 0
  let rest := leBytes 4 1 ++ leBytes 4 0x60 ++ leBytes 4 4 ++ leBytes 4 1 ++ leBytes 4 2 ++ leBytes 4 0x70 ++ leBytes 4 32 ++ leBytes 4 1 ++
    List.replicate 16 0 ++ blockBytes
  head ++ leBytes 2 (crc16 (head ++ [0, 0] ++ rest)) ++ rest

/-- The launch of that image requested at record 7, with a pool of context frames. -/
def loadState (img : List Byte) : State :=
  { requestedState with
    mem := tables ++ cells 0xB000 [1, 0, 0, 0, 0, 0, 0, 0, 9] ++ cells 0xC000 img ++ cells 0xE000 [1] ++ cells 0xE008 [2]
    adm := { requestedState.adm with ctxPool := { Pool.reset with base := 14, tail := 2 } } }

theorem wit_load : (loadState imageBytes0).mod.boot ≠ .recoveryImage ∧
    (loadState imageBytes0).launchOf 7 = some (launch0 goodPacket) ∧ (loadState imageBytes0).fab.charges = [] ∧
    RecordAt (loadState imageBytes0) (launch0 goodPacket) 0 := by
  refine ⟨by decide, rfl, rfl, ⟨rfl, rfl⟩, ?_, ?_, ?_, ?_, ?_, rfl, rfl, ?_⟩ <;> decide +kernel
theorem wit_load_refused : (match (loadState []).checkLoad 7 0 (launch0 goodPacket) true with
    | .refused _ => true
    | _ => false) = true := by decide +kernel
def goodLoad : Option Loaded := match (loadState imageBytes0).checkLoad 7 0 (launch0 goodPacket) true with
  | .good x => some x
  | _ => none
theorem wit_load_good : goodLoad.map (fun x => (x.region, x.image.blocks.length)) = some ([0], 1) := by decide +kernel
theorem wit_load_units : (goodLoad.any fun x => x.region.all (loadState imageBytes0).hearthEnabled &&
    !((loadState imageBytes0).ctxHeld 7 0 x.region) && !((loadState imageBytes0).outranked 7 x.region) &&
    (match (loadState imageBytes0).takeUnits 7 0 0 x.image x.region true with
     | .ok _ => true
     | .error _ => false) && ((loadState imageBytes0).takeContextFrames (framesNeeded x.image)).isSome) = true := by decide +kernel
/-- The same launch with a parameter block at an address that no page maps, and at 0xB000, where its one entry names block 9. -/
def paramsLaunch (at_ : Nat) : Launch :=
  launch0 ((List.range 128).map fun i => if i = 9 then 0xC0 else if i = 25 then BitVec.ofNat 8 (at_ / 256) else
    if i = 26 then BitVec.ofNat 8 (at_ / 65536) else 0)
theorem wit_load_rejected : (match (loadState imageBytes0).checkLoad 7 0 (paramsLaunch 0xB000) true with
    | .rejected n => some n
    | _ => none) = some 6 := by decide +kernel
theorem wit_load_stalled : (match (loadState imageBytes0).checkLoad 7 0 (paramsLaunch 0x20000) true with
    | .stalled _ f => some f
    | _ => none) = some (1, false, 0x20000) := by decide +kernel
theorem test_load : (match exec (.chargeLoad 7 0) (loadState imageBytes0) with
    | .next t => (t.charge? 7).map fun c => (c.phase, c.region, (t.bindRec 7).state.toNat)
    | _ => none) = some (.running, [0], 3) := by decide +kernel

def partState : State := withFab State.reset fun f =>
  { f with charges := [(0, probeCharge 0)], ctxs := [(0, { CeCtx.reset 0 0 0 0 with loaded := false })] }
theorem wit_splice_load : ∃ c cc k, partState.charge? 0 = some c ∧ partState.ctx? 0 0 c.ctx = some cc ∧ cc.loaded = false ∧
    c.predecessor = none ∧ c.runs = true ∧ c.block? cc.block = some k ∧ (partState.placePart c.ctx 0 0 cc.part k cc).isSome = true :=
  ⟨_, _, _, rfl, rfl, rfl, rfl, rfl, rfl, by decide⟩

/-- A charge in phase `p` whose completion record, at 0 of a mapped space, can be written, in a CE that is empty. -/
def endState (p : Phase) : State := mapped (withFab State.reset fun f =>
  { f with charges := [(0, { probeCharge 0 with phase := p })], ctxs := [(0, CeCtx.reset 0 0 0 0)] })
theorem wit_complete : ∃ c, (endState .running).charge? 0 = some c ∧ c.runs = true ∧ c.repairing = false ∧ c.bubbles = [] ∧
    (endState .running).sinksDone 0 c = true ∧ c.acks = 0 ∧ (endState .running).enginesDone 0 c = true ∧
    (endState .running).stokerAddr c.launch.aspace c.launch.record false true = some 0 ∧
    Table.get? (Table.erase (endState .running).fab.charges 0) 0 = none := by
  refine ⟨_, rfl, rfl, rfl, rfl, ?_, rfl, ?_, ?_, rfl⟩ <;> decide +kernel
theorem wit_complete_stopped : ∀ p, ∃ c, (endState p).charge? 0 = some c ∧ c.phase = p ∧ (endState p).stopDone 0 c = true :=
  fun _ => ⟨_, rfl, rfl, rfl⟩
theorem wit_complete_ring : ({ endState .running with adm := { (endState .running).adm with
    ctxPool := { Pool.reset with base := 14 } } } : State).adm.ctxPool.base.toNat * 4096 ≥ 0 + 40 := by decide
theorem test_complete : (match exec (.launchComplete 0) (endState (.halting 7)) with
    | .next t => some (t.nat 0 8, t.nat 8 4, t.nat 12 4)
    | _ => none) = some (1, 2, 7) := by decide +kernel

def hangState : State :=
  { placed 0 with
    cycle := 16000, adm := { (placed 0).adm with parts := [(0, { PartReg.reset with hang := 5 })] } }
theorem wit_hang : ∃ c, hangState.charge? 0 = some c ∧ (hangState.part c.part).hang ≠ 0 ∧ c.runs = true ∧
    c.lastActive + min (hangState.part c.part).hang.toNat 1000000 * cyclesPerUs ≤ hangState.cycle ∧
    hangState.anyOutstanding 0 c = false ∧ hangState.hasTokens 0 = true := ⟨_, rfl, by decide, rfl, by decide, rfl, rfl⟩

/-! ### Swaps -/

def swapState (p : Phase) : State := (withFab (placed 0) fun f =>
  { f with charges := [(0, { probeCharge 0 with phase := p, preempting := true, ctxFrames := [0x30000, 0x40000] })],
           transit := [token0 .L [5]] }).modBind 0 fun r => { r with state := 5 }
theorem wit_shadow : ∃ c, (swapState .frozen).charge? 0 = some c ∧ c.phase = .frozen ∧ c.preempting = true ∧
    (∀ h ∈ c.region, ((swapState .frozen).hearth h).shadow = none ∧ Table.get? (swapState .frozen).fab.hearths h ≠ none) := by
  refine ⟨_, rfl, rfl, rfl, fun h hh => ?_⟩
  have : h = 0 := List.mem_singleton.mp hh
  subst this; exact ⟨rfl, by decide⟩
theorem wit_frame_write : ∃ c, (swapState .swapping).charge? 0 = some c ∧ c.phase = .swapping ∧ (swapState .swapping).wlog = [] ∧
    Memory.wf (swapState .swapping).mem = true ∧ (swapState .swapping).memSide.moves = [] ∧
    (swapState .swapping).writable c.frameMa = true := ⟨_, rfl, rfl, rfl, rfl, rfl, by decide⟩
/-- A swapped charge, without a frame of contexts, restored on hearth 0, and on one whose context is held. -/
theorem wit_resume : ∃ c, (swapState .swapped).charge? 0 = some c ∧ ((swapState .swapped).bindRec 0).state = 5 ∧
    regionAt (store0.extractLsb' 162 8).toNat c.image.shape = some [0] ∧ c.holds = 0 ∧ c.bubbleHolds = 0 :=
  ⟨_, rfl, by decide, by decide, rfl, rfl⟩
def resumeRec : Bind :=
  { (swapState .swapped).storedBind 0 store0 with
    ctx := ((swapState .swapped).bindRec 0).ctx, aspace := ((swapState .swapped).bindRec 0).aspace,
    vdev := ((swapState .swapped).bindRec 0).vdev }
def freedState : State := withFab (swapState .swapped) fun f => { f with ctxs := [], hearths := [] }
theorem wit_resume_restores : (match ((freedState.putBind 0 resumeRec).charge? 0).map fun c =>
      ((freedState.putBind 0 resumeRec).regionFits c [0], (freedState.putBind 0 resumeRec).restoreOn 0 0 c [0]) with
    | some (true, .ok _) => true
    | _ => false) = true := by decide +kernel
def heldCtxState : State := withFab (swapState .swapped) fun f => { f with charges := f.charges ++ [(1, probeCharge 0)] }
theorem wit_resume_waits : (match ((heldCtxState.putBind 0 resumeRec).charge? 0).map fun c =>
      ((heldCtxState.putBind 0 resumeRec).regionFits c [0], (heldCtxState.putBind 0 resumeRec).restoreOn 0 0 c [0]) with
    | some (true, .error _) => true
    | _ => false) = true := by decide +kernel

/-! ## Witnesses: faults -/

def fault0 (b : Nat) : FaultRec := State.reset.faultRec b 0x07 0

/-- A charge in phase `p` with the faults given. -/
def faultState (p : Phase) (l : List FaultRec) : State := withFab State.reset fun f =>
  { f with charges := [(0, { probeCharge 0 with phase := p, faults := l })], ctxs := [(0, CeCtx.reset 0 0 0 0)] }
theorem wit_freeze : ∃ c, (faultState .running [fault0 0]).charge? 0 = some c ∧ c.phase = .running ∧ c.faults ≠ [] :=
  ⟨_, rfl, rfl, by decide⟩
theorem wit_frozen : ∀ l ∈ [[], [fault0 0, fault0 0]], ∃ c, (faultState .freezing l).charge? 0 = some c ∧ c.phase = .freezing ∧
    (faultState .freezing l).frontReached 0 c = true ∧ c.faults = l := by
  intro l h
  simp only [List.mem_cons, List.not_mem_nil, or_false] at h
  rcases h with rfl | rfl <;> exact ⟨_, rfl, rfl, rfl, rfl⟩
theorem test_freeze : (match exec (.freezeComplete 0) (faultState .freezing [fault0 0]) with
    | .next t => some ((t.charge? 0).map fun c => (c.holds, c.faults.length), (t.bindRec 0).state.toNat)
    | _ => none) = some (some (1, 0), 4) := by decide

/-- Ring `n` at 0x1000 with a record waiting, and record 5 held. -/
def ringState (p : Phase) (holds : Nat) (n : Nat) : State :=
  let s := withFab State.reset fun f =>
    { f with charges := [(0, { probeCharge 0 with phase := p, holds := holds })], ctxs := [(0, CeCtx.reset 0 0 0 0)] }
  { s with adm := { s.adm with rings := [(n, { Ring.reset with base := 0x1000, lsize := 0, waiting := [fault0 0], holding := [(5, { fault0 0 with bind := 0 })] })] } }
theorem wit_post : ((ringState .running 0 2).ring 2).waiting = [fault0 0] ∧ ((ringState .running 0 2).ring 2).base ≠ 0 ∧
    ((ringState .running 0 2).ring 2).lsize.toNat ≤ 10 ∧
    (((ringState .running 0 2).ring 2).tail - ((ringState .running 0 2).ring 2).head).toNat < 2 ^ 6 ∧
    (ringState .running 0 2).writable 0x1000 = true ∧ (ringState .running 0 2).wlog = [] ∧
    Memory.wf (ringState .running 0 2).mem = true ∧ (ringState .running 0 2).memSide.moves = [] := by decide
theorem wit_held_none : (ringState .frozen 1 2).heldRecord (.core 3) 2 5 = none ∧
    (ringState .frozen 1 2).heldRecord .wholesaler 255 7 = none := by decide
theorem wit_actions : ∀ holds ∈ [1, 2], ∃ r c, (ringState .frozen holds 2).heldRecord (.reseller 2) 2 5 = some r ∧
    (ringState .frozen holds 2).charge? r.bind = some c ∧ c.phase = .frozen ∧ c.preempting = false ∧ c.holds = holds ∧
    c.bubbleHolds = 0 ∧ r.bubbled = false ∧ r.code = 0x07 ∧ (ringState .frozen holds 2).thread? r.vdev = none := by
  intro h hh
  simp only [List.mem_cons, List.not_mem_nil, or_false] at hh
  rcases hh with rfl | rfl <;> exact ⟨_, _, rfl, rfl, rfl, rfl, rfl, rfl, rfl, rfl, rfl⟩

/-- A running charge with one bubble of its block, whose block has, or has not, a loop header, in repair or not. -/
def bubbleState (head rep : Bool) (pass : Nat) (bubbles : List Bubble) : State := withFab State.reset fun f =>
  { f with
    charges := [(0, { probeCharge 0 with
      bubbles := bubbles, repairing := rep, pass := pass
      image := { (probeCharge 0).image with blocks := [{ shape := 0, first := 0, header := 0, words := [if head then 0x1050000000000000 else 0] }] } })]
    ctxs := [(0, CeCtx.reset 0 0 0 0)] }
def bubble0 : Bubble := { block := 0, slot := 0, code := 1, iter := 3, elem := 0 }
theorem wit_repair : ∀ head, ∃ c, (bubbleState head false 0 [bubble0]).charge? 0 = some c ∧ c.runs = true ∧ c.repairing = false ∧
    c.bubbles ≠ [] ∧ c.bubbleHolds = 0 ∧ (bubbleState head false 0 [bubble0]).sinksDone 0 c = true ∧ c.acks = 0 ∧
    (bubbleState head false 0 [bubble0]).enginesDone 0 c = true ∧ c.headless = !head ∧ c.unrepaired = false := by
  intro b; cases b <;> exact ⟨_, rfl, rfl, rfl, by decide, rfl, rfl, rfl, rfl, rfl, rfl⟩
theorem wit_repair_end : ∃ c, (bubbleState true true 4 [bubble0]).charge? 0 = some c ∧ c.runs = true ∧ c.repairing = true ∧ c.bubbles ≠ [] ∧
    4 ≤ c.pass ∧ c.acks = 0 ∧ (∀ x ∈ (bubbleState true true 4 [bubble0]).fab.ctxs, x.2.bind = 0 → x.2.loop.out = 0 ∧ x.2.loop.reissue = []) := by
  refine ⟨_, rfl, rfl, rfl, by decide, by decide, rfl, fun x hx _ => ?_⟩
  have : x = (0, CeCtx.reset 0 0 0 0) := List.mem_singleton.mp hx
  subst this; exact ⟨rfl, rfl⟩
theorem wit_error : ((State.reset.ring 255).waiting.filter fun x => !(x.frozen || x.bubbled)).length < 64 ∧
    (tierOf 0x1000).isSome = true ∧ ∃ c, (placed 0).charge? 0 = some c ∧ c.phase = .running := ⟨by decide, by decide, _, rfl, rfl⟩
theorem wit_service : 3 < State.reset.mod.stoves.length ∧ (State.reset.stove 3).stackState.toNat ≤ 1 ∧ 2 < State.reset.wayCount 5 6 ∧
    State.reset.setsFit 5 6 2 = true ∧ (State.reset.hearth 5).banksOff.getLsbD 31 = false ∧ State.reset.bankBusy 5 31 = false := by decide

/-! ## Witnesses: shootdowns and moves -/

/-- A shootdown of stage S of address space 0, one page, record at 0x100; and one of stage W, which partition 2 may not ask for. -/
def sdBytes (w : Bool) : List Byte := leBytes 32 (0x100 * 2 ^ 192 + 2 ^ 128 + (if w then 1 else 0))
theorem wit_shootdown : (sdBytes true).length = 32 ∧ writesRequest (.reseller 2) 2 = true ∧ writesRequest (.tenant 0) 2 = false ∧
    ((queueState 1 0 [] 0xA000).aspace ((BitVec.ofNat 256 (leNat (sdBytes false))).extractLsb' 16 12).toNat).partition.toNat = 2 ∧
    (BitVec.ofNat 256 (leNat (sdBytes false))).getLsbD 0 = false ∧ (BitVec.ofNat 256 (leNat (sdBytes true))).getLsbD 0 = true ∧
    (BitVec.ofNat 256 (leNat (sdBytes false))).extractLsb' 128 64 = 1 ∧
    (BitVec.ofNat 256 (leNat (sdBytes false))).extractLsb' 1 15 = 0 ∧ (BitVec.ofNat 256 (leNat (sdBytes false))).extractLsb' 28 36 = 0 ∧
    (BitVec.ofNat 256 (leNat (sdBytes false))).extractLsb' 64 16 = 0 ∧
    ((BitVec.ofNat 256 (leNat (sdBytes false))).extractLsb' 192 64).toNat = 0x100 ∧
    (queueState 1 0 [] 0xA000).writable 0x100 = true ∧ Memory.wf (queueState 1 0 [] 0xA000).mem = true := by decide +kernel

def sd0 (acked : List Nat) : Shootdown :=
  { id := 4, stageW := false, aspace := 0, part := 255, first := 0, pages := 2 ^ 40, record := some 0x100, move := none, acked := acked }
def sdState (acked : List Nat) : State := { placed 0 with memSide := { (placed 0).memSide with shootdowns := [sd0 acked] } }
theorem wit_ack : (sdState []).shootdown? 4 = some (sd0 []) ∧ (sdState []).sdActive (sd0 []) = true ∧ 0 ∈ (sdState []).sdHearths (sd0 []) ∧
    (0 : Nat) ∉ (sd0 []).acked ∧ (∀ h ∈ (sdState [0]).sdHearths (sd0 [0]), h ∈ (sd0 [0]).acked) ∧
    (sdState [0]).writable 0x100 = true ∧ (sdState [0]).memSide.moves = [] ∧ (sdState [0]).wlog = [] := by
  refine ⟨rfl, rfl, ?_, ?_, ?_, ?_, rfl, rfl⟩ <;> decide

/-- A move of page 0 to pool 0, or its cancel, record at 0x100. -/
def moveBytes (cancel : Bool) : List Byte := leBytes 32 (0x100 * 2 ^ 192 + 77 * 2 ^ 128 + (if cancel then 256 else 0))
/-- Partition 2 holds pool 0, whose ring at 0xE000 has frame 9, or nothing. -/
def moveState (frames : Nat) (owner : Nat) (rights : Nat) : State :=
  let s := queueState 1 0 [] 0xA000
  { s with
    mem := tables ++ [(0xE000, 9)]
    adm := { s.adm with
      parts := [(2, { PartReg.reset with rights := BitVec.ofNat _ rights })]
      pools := [(0, { Pool.reset with base := 14, tail := BitVec.ofNat 32 frames, owner := BitVec.ofNat 8 owner })] } }
theorem wit_move_refused : (moveState 1 2 0).mayMigrate 2 = false ∧ (moveState 1 2 63).mayMigrate 2 = true ∧
    (moveState 1 3 63).holdsPool 2 0 = false ∧ (moveState 1 2 63).holdsPool 2 0 = true ∧ (moveBytes false).length = 32 ∧
    (BitVec.ofNat 256 (leNat (moveBytes false))).getLsbD 8 = false ∧ (BitVec.ofNat 256 (leNat (moveBytes true))).getLsbD 8 = true ∧
    ((BitVec.ofNat 256 (leNat (moveBytes true))).extractLsb' 192 64).toNat % 32 = 0 ∧ (moveState 1 2 63).writable 0x100 = true ∧
    Memory.wf (moveState 1 2 63).mem = true := by decide +kernel
theorem wit_move : ∀ n, n = 0 ∨ n = 1 → (match (moveState n 2 63).moveStatus 2 0 ((moveState n 2 63).pageOf 2 0) with
    | .ok x => x.frame == 0 && x.leaf.addr == 0x8000 && leafState x.leaf.entry == 0 && (moveState n 2 63).writable x.leaf.addr &&
        ((moveState n 2 63).poolTake ((moveState n 2 63).pool 0)).isSome == (n == 1)
    | .error _ => false) = true := by rintro n (rfl | rfl) <;> decide +kernel

def move0 (cursor : Nat) (written : Bool) : Move :=
  { id := 6, p := 2, page := 0, part := 2, partPage := 0, leaf := 0x8000, src := 0, dst := 9, cursor := cursor, pool := 0, cookie := 77,
    record := 0x100, written := written, sd := 8 }
def movingState (cursor : Nat) (written : Bool) : State :=
  { moveState 1 2 63 with memSide := { State.reset.memSide with moves := [move0 cursor written] } }
theorem wit_moving : (movingState 3 false).moveOf 2 0 = some (move0 3 false) ∧ (move0 3 false).written = false ∧
    (movingState 3 false).memSide.moves = [move0 3 false] ∧ (move0 3 false).cursor < 255 ∧ (move0 255 false).cursor = 255 ∧
    (movingState 3 false).memSide.poison = [] ∧ (movingState 3 false).writable 0x100 = true ∧ (movingState 3 true).writable 0x100 = true ∧
    (movingState 3 true).shootdown? 8 = none ∧ ((move0 3 true).record + 32 ≤ emberBase ∨ emberEnd ≤ (move0 3 true).record) ∧
    (move0 3 true).src < emberEnd - emberBase ∧ (movingState 3 true).wlog = [] := by
  refine ⟨rfl, rfl, rfl, ?_, rfl, rfl, ?_, ?_, rfl, ?_, ?_, rfl⟩ <;> decide

/-! ## Witnesses: resets, power, retirement and ports -/

theorem wit_responder : ({ State.reset with
      mod := { State.reset.mod with boot := .recoveryResponder }, env := { State.reset.env with images := [[1]] } } : State).mod.boot =
    .recoveryResponder := rfl
theorem wit_vf_reset : (queueState 1 0 [] 0xA000).mayDevice (.tenant 0) 0 rightReset = true ∧
    (queueState 1 0 [] 0xA000).mayDevice (.core 3) 0 rightReset = false ∧
    (∃ c, (placed 0).charge? 0 = some c ∧ c.vdev = 0 ∧ c.phase = .running) ∧
    (∀ x ∈ (placed 0).fab.charges, x.1 = 0 → x.2.vdev ≠ 1) ∧ (placed 0).mayDevice .wholesaler 0 rightReset = true := by
  refine ⟨rfl, rfl, ⟨_, rfl, rfl, rfl⟩, fun x hx _ => ?_, rfl⟩
  have : x = (0, probeCharge 0) := List.mem_singleton.mp hx
  subst this; decide
theorem wit_partition_reset : ∃ c, (queueState 1 0 [] 0xA000).charge? 0 = none ∧ (placed 0).charge? 0 = some c ∧
    ((queueState 1 0 [] 0xA000).vdev c.vdev).partition.toNat = 2 ∧ c.phase = .running ∧ c.vdev < 1024 := ⟨_, rfl, rfl, rfl, rfl, by decide⟩

theorem wit_bellows : State.reset.mod.stoves.length = 12 ∧ ({ State.reset with cycle := 1600000 } : State).mod.bellowsMs < 1600000 / cyclesPerMs ∧
    ((List.replicate 12 (BitVec.ofNat 16 500)).map BitVec.toNat).sum ≤ 24000 ∧
    State.reset.mod.inlet.toNat ≤ State.reset.mod.limit.toNat := by decide
theorem wit_coolant : State.reset.mod.limit.toNat < 0xFFFF ∧ State.reset.mod.critical.toNat < 0xFFFF := by decide
def rateState : State := State.reset.modStove 3 fun x => { x with changing := [(0, 2)], nextBudget := some (300, [(1, 3)]) }
theorem wit_rate_point : 3 < rateState.mod.stoves.length ∧ Table.get? (rateState.stove 3).changing 0 = some 2 ∧ Table.erase (rateState.stove 3).changing 0 = [] ∧
    (rateState.stove 3).nextBudget = some (300, [(1, 3)]) := by decide

/-- Hearth 65 of stove 4 whose physical hearth is 9, retiring. -/
def retireState (r : Bool) : State := State.reset.modHearth 65 fun x => { x with retiring := r }
theorem wit_retire : physicalOf ((retireState true).stove (stoveOf 65)).hearthMap (logicalOf 65) ≠ none ∧
    ((retireState true).hearth 65).retiring = true ∧ ((retireState false).hearth 65).retiring = false ∧
    (retireState true).chargesOn 65 = [] ∧ ((retireState true).hearth 65).shadow = none ∧ stoveOf 65 < 12 ∧
    ((retireState true).stove (stoveOf 65)).spare.toNat < 15 ∧
    (physicalOf ((retireState true).stove (stoveOf 65)).hearthMap (logicalOf 65)).any (fun p =>
      ((retireState true).stove (stoveOf 65)).spare.toNat != p && ((retireState true).stove (stoveOf 65)).hearthEnable.getLsbD p) = true ∧
    ((retireState true).stove (stoveOf 65)).spareUsed = false := by decide
/-- The example of 02_module_notes.md: stove 4, spare 12; hearth 65 retires its physical hearth 9. -/
theorem test_retire : (match exec (.hearthRetire 65) ((retireState true).modStove 4 fun x =>
      { x with spare := 12, spareUsed := false, hearthEnable := 0x6FFF, hearthMap := 0xDCFBA9876543210 }) with
    | .next t => some ((t.stove 4).hearthEnable.toNat, (t.stove 4).spareUsed)
    | _ => none) = some (0x7DFF, true) := by decide +kernel
theorem wit_part : State.reset.partState (.stack 3) = some 0 ∨ (State.reset.partState (.stack 3)).isSome = true := by decide
theorem wit_part_drained : (State.reset.modStove 3 fun x => { x with stackState := 2 }).partState (.stack 3) = some 2 ∧
    (State.reset.modStove 3 fun x => { x with stackState := 2 }).pagesIn (fun f _ => frameIn (.stack 3) f) = false := by decide
theorem wit_uet : Part.uet 3 ∉ State.reset.mod.flash.retired ∧ Part.core 19 ∉ State.reset.mod.flash.retired := by decide

theorem wit_ports : 3 < State.reset.mod.ports.length ∧ State.reset.portPresent 3 = true ∧ State.reset.quiesced 3 = true ∧
    (linkState 1 chim0).quiesced 0 = false ∧ ((linkState 1 chim0).port 0).mode ≠ 1 ∧ (State.reset.port 3).mode ≠ 2 ∧
    State.reset.fab.charges = [] ∧ (State.reset.port 3).mode = 0 := by decide
theorem wit_packet_write : ∀ x, 0x100 ≤ x → x < 0x100 + ([1] : List Byte).length → (tierOf x).isSome = true ∧ State.reset.writable x = true := by
  intro x h1 h2
  have : x = 0x100 := by simp at h2; omega
  subst this; decide
def remote0 : RemoteAccess :=
  { aspace := 0, cid := 0, vaddr := 0x200, fmt := .n32, wide := false, policy := 0, op := .store, r := 7, p := 0 }
def remoteOff : State := { queueState 1 0 [] 0xA000 with adm := { (queueState 1 0 [] 0xA000).adm with
  aspaces := [(0, { partition := 2, wRoot := 1, sRoot := 1, enable := false })] } }
theorem wit_remote_off : (remoteOff.aspace 0).enable = false ∧ (remoteOff.aspace 0).partition.toNat < 168 ∧ remoteOff.charge? 1024 = none ∧
    ((remoteOff.ring 2).waiting.filter fun y => !(y.frozen || y.bubbled)).length < 64 := by decide
theorem wit_remote : (match ((queueState 1 0 [] 0xA000).walkPage ((queueState 1 0 [] 0xA000).aspace 0) (some 0) 0 0x200).grant false true with
    | .ok e => e.machine 0x200 == 0x200 && (queueState 1 0 [] 0xA000).writable 0x200
    | .error _ => false) = true ∧ ((queueState 1 0 [] 0xA000).aspace 0).enable = true := by decide +kernel
theorem test_remote_store : (match exec (.remoteAccessReceive remote0 calm) (queueState 1 0 [] 0xA000) with
    | .next t => (t.byte 0x200).toNat
    | _ => 0) = 7 := by decide +kernel
def pooledState : State := { State.reset with mod := { State.reset.mod with pooled := [{ base := pooledBase, length := 65536, image := false, port := 2, dpa := 0 }] } }
theorem wit_pooled : pooledBase % 65536 = 0 ∧ pooledBase + 65536 ≤ pooledEnd ∧ State.reset.mod.pooled = [] ∧
    (∃ m ∈ pooledState.mod.pooled, m.base = pooledBase ∧ m.length = 65536 ∧ m.port = 2 ∧ m.image = false) ∧
    pooledState.pagesIn (framesMeet pooledBase 65536) = false := by
  refine ⟨by decide, by decide, rfl, ⟨_, .head _, rfl, rfl, rfl, rfl⟩, by decide⟩
/-- Address space 0's tables map frame 0 only; a space whose page lies in the range keeps it. -/
def pooledHeld : State := { pooledState with memSide := { State.reset.memSide with moves := [{ move0 0 false with src := pooledBase / 65536 }] } }
theorem wit_pooled_held : pooledHeld.pagesIn (framesMeet pooledBase 65536) = true := by decide

/-! ## Witnesses: tokens of every phase, and ends -/

/-- The arriving token with its charge in phase `p`, or without a charge and with its record in state `n`. -/
def phaseState (p : Phase) : State := withFab (arriveState 1 4 (token0 .L [5]) []) fun f =>
  { f with charges := f.charges.map fun (b, c) => (b, { c with phase := p }) }
def noChargeState (n : Nat) : State :=
  (withFab (arriveState 1 4 (token0 .L [5]) []) fun f => { f with charges := [] }).modBind 0 fun r => { r with state := BitVec.ofNat 3 n }
theorem wit_arrival_phases : (∀ p, ∃ c, (phaseState p).charge? 0 = some c ∧ c.phase = p ∧
      (phaseState p).fab.transit[(0 : Nat)]? = some (token0 .L [5])) ∧ (token0 .L [5]).parked = false ∧ (token0 .L [5]).kind ≠ .scale ∧
    (∀ n, (noChargeState n).charge? 0 = none) ∧ ((noChargeState 1).bindRec 0).state = 1 ∧ ((noChargeState 2).bindRec 0).state = 2 ∧
    ((noChargeState 6).bindRec 0).state ≠ 1 ∧ ((noChargeState 6).bindRec 0).state ≠ 2 ∧
    (phaseState .running).passes ((phaseState .running).producerHearth (token0 .L [5])) 0 = true :=
  ⟨fun _ => ⟨_, rfl, rfl, rfl⟩, rfl, by decide, fun _ => rfl, by decide, by decide, by decide, by decide, rfl⟩
/-- The same token from an instruction of hearth 1, which no tenant has opened. -/
def farToken : Token := { token0 .L [5] with src := [0, 0, 7, 0, 0] }
theorem wit_arrival_closed : ∃ h, h = 1 ∧ (phaseState .running).passes h 0 = false := ⟨_, rfl, by decide⟩
theorem test_arrival_exited : (match exec (.tokenArrival 0 .good) (noChargeState 6) with
    | .next t => some (t.fab.transit.length, t.mod.exitedDrop.toNat)
    | _ => none) = some (0, 1) := by decide
theorem test_arrival_lasting : (match exec (.tokenArrival 0 .lasting) (phaseState .running) with
    | .next t => some (t.fab.transit.map (·.parked), (t.charge? 0).map fun c => c.faults.map (·.code), (t.stove 0).lasting.toNat)
    | _ => none) = some ([true], some [0x20], 1) := by decide
theorem wit_abort_phases : ∀ p ∈ ([.running, .freezing, .frozen, .swapping, .swapped, .aborting, .halting 3] : List Phase),
    ∃ c, (phaseState p).charge? 0 = some c ∧ c.phase = p := fun _ _ => ⟨_, rfl, rfl⟩

/-! ## Witnesses: HALTs of one cycle, and a queue destroyed in it -/

def haltState (n : Option (Nat × Nat × Nat)) : State := withFab (fired (pos1 3 5)) fun f =>
  { f with charges := [(0, { probeCharge 0 with haltFrom := n, phase := if n.isSome then .halting 9 else .running })] }
def haltFire (n : Option (Nat × Nat × Nat)) : Fire :=
  { fireOf (pos1 3 5) with ch := { probeCharge 0 with haltFrom := n, phase := if n.isSome then .halting 9 else .running } }
theorem wit_halt_from : ∀ n ∈ [none, some (0, 2, 0), some (0, 0, 0)], Stands (haltState n) (haltFire n) ∧
    (haltFire n).ch.haltFrom = n ∧ (haltState n).cycle = 0 := by
  intro n h
  simp only [List.mem_cons, List.not_mem_nil, or_false] at h
  rcases h with rfl | rfl | rfl <;> exact ⟨⟨rfl, rfl, ⟨_, rfl, rfl⟩, rfl⟩, rfl, rfl⟩
/-- R98: where HALTs start together, the lower hearth gives the code. -/
theorem test_halt_lowest : ((match exec (.halt { ws 1 with code := 7 }) (haltState (some (0, 2, 0))) with
    | .next t => (t.charge? 0).map (·.phase)
    | _ => none), (match exec (.halt { ws 1 with code := 7 }) (haltState (some (0, 0, 0))) with
    | .next t => (t.charge? 0).map (·.phase)
    | _ => none)) = (some (.halting 7), some (.halting 9)) := by decide
def destroyedState : State :=
  let s := launchState 0 1
  { s with adm := { s.adm with queues := s.adm.queues.map fun (k, q) => (k, { q with destroyed := some 0 }) } }
theorem wit_destroyed : Stands destroyedState (fireOf (pos1 0 0)) ∧ (destroyedState.queue 0 0).state = 0 ∧
    (destroyedState.queue 0 0).destroyed = some destroyedState.cycle :=
  ⟨⟨rfl, rfl, ⟨_, rfl, rfl⟩, rfl⟩, rfl, rfl⟩

/-! ## Witnesses: firebox harts and lines -/

theorem wit_hart_ready : HartReady State.reset 3 calm ∧ State.reset.sharedFrame (0x100 / 65536) = false ∧
    State.reset.anyPoison 0x100 8 = false ∧ (hartOf State.reset 3).reserved ≠ some (0x100, 8) := by
  refine ⟨⟨⟨rfl, rfl⟩, by decide, by decide, rfl, rfl, rfl, rfl, rfl, rfl⟩, by decide, by decide, by decide⟩
theorem wit_hart_plain : Plain State.reset 0x100 8 := by
  refine ⟨by decide, fun i h => ?_⟩
  have h0 : tierOf (0x100 + i) = some 0 := by unfold tierOf nearEnd; rw [if_pos (by omega)]
  refine ⟨by rw [h0]; rfl, ?_⟩
  unfold State.writable; rw [h0]; rfl
def reservedState : State :=
  { State.reset with firebox := { State.reset.firebox with harts := [(3, { Hart.reset with reserved := some (0x100, 8) })] } }
theorem wit_hart_reserved : (hartOf reservedState 3).reserved = some (0x100, 8) := rfl
/-- A store of one hart takes the reservation of another; its line is tagged with the mode of the writer. -/
theorem test_hart_store : (match exec (.homeAccess (.hart 5 (.vu 2) (.store 0x104 [7])) calm) reservedState with
    | .next t => some ((t.byte 0x104).toNat, (hartOf t 3).reserved, (Table.get? t.firebox.lines 1).map fun x => (x.holders, x.dirty))
    | _ => none) = some (7, none, some ([5], some (.vu 2))) := by decide +kernel
theorem test_hart_sc : (match exec (.homeAccess (.hart 3 .hs (.sc 4 0x100 true 9)) calm) reservedState with
    | .next t => some (t.nat 0x100 8, (regOf t 3 4).toNat)
    | _ => none) = some (9, 0) := by decide +kernel
def fireLine (d : Option HartMode) : State :=
  { placed 0 with firebox := { State.reset.firebox with lines := [(2, { holders := [4], dirty := d, mirror := List.replicate 256 6 })] } }
theorem wit_firebox_line : (∀ d, (Table.get? (fireLine d).firebox.lines 2).bind FireLine.dirty = d) ∧
    (fireLine none).writable (256 * 2) = true ∧ (fireLine (some (.vu 0))).fab.charges.length = 1 ∧
    (∀ d, ∀ e ∈ (fireLine d).fab.charges, (fireLine d).charge? e.1 = some e.2) := by
  refine ⟨fun _ => rfl, by decide, rfl, fun d e h => ?_⟩
  have : e = (0, probeCharge 0) := List.mem_singleton.mp h
  subst this; rfl
/-- R366, R367: the error of a device's line ends that device's charges; wholesaler data comes back from the mirror. -/
theorem test_firebox_error : ((match exec (.uncorrectableError (.firebox 2)) (fireLine (some (.vu 0))) with
    | .next t => (t.charge? 0).map (·.phase)
    | _ => none), (match exec (.uncorrectableError (.firebox 2)) (fireLine (some .hs)) with
    | .next t => some ((t.byte 0x2FF).toNat, (t.charge? 0).map (·.phase))
    | _ => none)) = (some .aborting, some (6, some .running)) := by decide +kernel

/-! ## Witnesses: a forwarded fault, and loads that stall -/

/-- The registered thread of device 0, whose record lies at 0x3000 of a mapped space. -/
def forwardState : State :=
  let s := mapped (ringState .frozen 1 2)
  { s with adm := { s.adm with
      threads := [(0, { Thread.reset with juirec := 0x3000, registered := true, running := true })]
      rings := [(2, { Ring.reset with base := 0x1000, holding := [(5, { fault0 0 with bind := 0, vdev := 0 })] })] } }
theorem wit_forward : ∃ r th, forwardState.heldRecord (.reseller 2) 2 5 = some r ∧ r.code = 0x07 ∧ forwardState.thread? r.vdev = some th ∧
    forwardState.stokerAddr th.aspace th.juirec.toNat true true = some 0x3000 ∧ forwardState.memSide.moves = [] ∧
    (forwardState.nat 0x3024 4 + 2 ^ 32 - forwardState.nat 0x3028 4) % 2 ^ 32 < 63 ∧ Memory.wf forwardState.mem = true :=
  ⟨{ fault0 0 with bind := 0, vdev := 0 }, { Thread.reset with juirec := 0x3000, registered := true, running := true },
    rfl, rfl, rfl, by decide +kernel, rfl, by decide +kernel, by decide +kernel⟩
theorem test_forward : (match exec (.faultForward (.reseller 2) 2 5) forwardState with
    | .next t => some (t.nat 0x3040 1, t.nat 0x3048 8, t.nat 0x3024 4, (t.thread? 0).map (·.raised))
    | _ => none) = some (0xFF, 5 + 2 * 2 ^ 32, 1, some 1) := by decide +kernel

def stalledState : State := withFab (loadState imageBytes0) fun f =>
  { f with charges := [(7, { probeCharge 0 with
      loading := true, packet := goodPacket, region := [0],
      image := { (probeCharge 0).image with regions := [], streams := [], timelines := [] } })] }
theorem wit_load_on : ∃ c, stalledState.charge? 7 = some c ∧ c.loading = true ∧ c.phase = .running ∧ c.faults = [] ∧
    c.preempting = false ∧ stalledState.loadsCharges = true ∧
    (match stalledState.checkLaunch c.launch c.image c.region with | .good _ => true | _ => false) = true :=
  ⟨_, rfl, rfl, rfl, rfl, rfl, rfl, by decide +kernel⟩

/-! ## Witnesses: power, retirement and boot -/

theorem wit_within : ∀ n, n < 12 → WithinBounds (State.reset.stove n) := by unfold WithinBounds; decide
def plan0 (b : Nat) : PowerPlan :=
  { stoveBudget := List.replicate 12 (BitVec.ofNat 16 b), stackBudget := [], matrixRate := [], startRate := [], ratePoints := [] }
/-- A plan of 6,000 W for each stove is over the module's 2,400 W; a temperature over the limit, seen before; and a module that is held. -/
theorem wit_plan : State.reset.planAdmitted (plan0 60000) = false ∧
    ({ State.reset with mod := { State.reset.mod with limit := 300, inlet := 310, crossed := true } } : State).mod.limit.toNat <
      ({ State.reset with mod := { State.reset.mod with limit := 300, inlet := 310, crossed := true } } : State).mod.inlet.toNat ∧
    ({ State.reset with mod := { State.reset.mod with held := true } } : State).mod.held = true := by
  refine ⟨decide_eq_false ?_, by decide, rfl⟩
  show ¬(60000 + Config.stackPower _ + List.sum _ ≤ 24000)
  omega
def retiringState : State := { State.reset with mod := { State.reset.mod with retiring := [.uet 3, .core 19] } }
theorem wit_retiring : Part.uet 3 ∈ retiringState.mod.retiring ∧ retiringState.chargesUsing (.uet 3) = [] ∧
    Part.core 19 ∈ retiringState.mod.retiring ∧ Part.uet 3 ∉ State.reset.mod.retiring := by decide
/-- A memory component on CXL port 1 with three bytes at its address 64. -/
def boot0 : State := { State.reset with env := { State.reset.env with
  world := { State.reset.env.world with components := [(1, 3)], regions := [(1, 64, [1, 2, 3])] } } }
def descriptor0 : Descriptor := { port := 1, dpa := 64, length := 3, digest := [], mbase := pooledBase, entry := 0 }
theorem wit_boot_region : boot0.bootRegion descriptor0 = some (1, [1, 2, 3]) := by decide
def channelState : State := State.reset.modStove 3 fun x => { x with changing := [(0, 2), (1, 2)] }
theorem wit_channel_more : Table.get? (channelState.stove 3).changing 0 = some 2 ∧
    Table.erase (channelState.stove 3).changing 0 ≠ [] := by decide

/-! ## Witnesses: streams and the step -/

theorem wit_ag_read : ∃ c p g, (chainState false { chain0 with running := true }).charge? 0 = some c ∧ c.agAt 0 0 = some p ∧
    p.write = false ∧ (chainState false { chain0 with running := true }).portFull 0 0 p.region 1 = false ∧ c.mayTry (agKey 0 0) = true ∧
    (chainState false { chain0 with running := true }).chain? (.ag 0 0 0) = some g ∧ g.index < p.total ∧
    Pad (chainState false { chain0 with running := true }) c 0 region0 (padAddr 0 0) :=
  ⟨_, _, _, rfl, rfl, rfl, rfl, rfl, rfl, by decide, ⟨rfl, rfl, rfl, by decide, by decide, rfl⟩⟩
theorem test_ag_read : (match exec (.homeAccess (.ag 0 0 0) calm) (chainState false { chain0 with running := true }) with
    | .next t => t.fab.reqs.map fun q => (q.region, q.elem, q.done)
    | _ => []) = [(0, 0, false)] := by decide +kernel
theorem wit_jaf_held : State.reset.jafHeld 0 64 64 = false ∧ (drainState true []).jafHeld 0 0 64 = true := by decide +kernel

def frameState : State := (swapState .swapping).modHearth 0 fun x => { x with tiles := [] }
/-- Past its first 4 KiB, a context frame of the two frames 3 and 4 does not come back to frame 3's start. -/
theorem frameAt_past (c : Charge) (hc : c.ctxFrames = [0x30000, 0x40000]) (x : Nat) (h1 : 4096 ≤ x) (h2 : x < 131072) :
    ¬(c.frameMa ≤ c.frameAt x ∧ c.frameAt x < c.frameMa + 4096) := by
  unfold Charge.frameMa Charge.frameAt
  rw [hc]
  have h : x / 65536 = 0 ∨ x / 65536 = 1 := by omega
  rcases h with h | h <;> rw [h] <;> simp <;> omega
theorem wit_frame_room : ∃ c, frameState.charge? 0 = some c ∧ c.frameMa = 0x30000 ∧ c.frameMa + 4096 ≤ slotBase ∧
    (∀ x, 4096 ≤ x → x < c.image.recordAt c.image.shape.length → ¬(c.frameMa ≤ c.frameAt x ∧ c.frameAt x < c.frameMa + 4096)) ∧
    (∀ k, k < c.image.shape.length → ((frameState.saveTiles 0 c).recordBytes k).length ≤ c.image.recordLength k) := by
  exact ⟨_, rfl, rfl, by decide, fun x h1 h2 => frameAt_past _ rfl x h1 (Nat.lt_trans h2 (by decide)), by decide +kernel⟩

/-- A copied line: the move's next line may be copied now, from a visible source to a frame that can be written. -/
theorem wit_line : (movingState 3 false).lineWaits (move0 3 false) = none ∧ (move0 3 false).dst * 65536 + 65536 ≤ slotBase ∧
    (movingState 3 false).writable ((move0 3 false).dst * 65536 + 256 * 3) = true ∧
    (∀ i, i < 256 → (movingState 3 false).visible ((move0 3 false).src * 65536 + 256 * 3 + i) = true) := by
  refine ⟨by decide +kernel, by decide, by decide, fun i h => ?_⟩
  have h0 : tierOf (0 * 65536 + 256 * 3 + i) = some 0 := by unfold tierOf nearEnd; rw [if_pos (by omega)]
  show State.visible _ (0 * 65536 + 256 * 3 + i) = true
  unfold State.visible; rw [h0]; rfl
theorem wit_halts_now : ∀ n, ∃ c, (endState (.halting n)).charge? 0 = some c ∧ (endState (.halting n)).haltsNow c = false :=
  fun _ => ⟨_, rfl, rfl⟩
/-- A loop that can issue while nothing of its context is ready. -/
theorem wit_issue : ((loopState 5 0 3).ceChoice 0 0).map (fun x => (x.ctx, x.firing.isNone, x.issue)) = some (0, true, some (.loopIssue 0 0 0)) ∧
    (loopState 5 0 3).startPlace (.loopIssue 0 0 0) = some (0, 0, 0) := by decide +kernel
theorem wit_frame_drop : (portState 1).streamHolder 5 7 = none ∧ ((portState 1).port 5).mode ≤ 3 ∧ (portState 1).mod.boot ≠ .recoveryResponder := by
  decide

/-! ## Witnesses: a quiet world, tracks, tile streams and posts -/

theorem wit_quiet : Quiet State.reset ∧ Quiet (launchState 1 1) ∧ Quiet (queueState 1 1 goodPacket 0xA000) ∧
    Quiet (ringState .running 0 2) ∧ Quiet (sdState []) ∧ Quiet (movingState 3 false) ∧ Quiet (fireLine none) :=
  ⟨⟨rfl, rfl⟩, ⟨rfl, rfl⟩, ⟨rfl, rfl⟩, ⟨rfl, rfl⟩, ⟨rfl, rfl⟩, ⟨rfl, rfl⟩, ⟨rfl, rfl⟩⟩

/-- A run that a track brings to address generator 0. -/
def agToken : Token := { token0 .L [5, 6] with ce := 64 }
def agArrival : State := withFab (chainState true chain0) fun f => { f with transit := [agToken] }
theorem wit_ag_arrival : ∃ c, agArrival.fab.transit[(0 : Nat)]? = some agToken ∧ agToken.parked = false ∧ First agArrival 0 agToken ∧
    agArrival.passes (agArrival.producerHearth agToken) agToken.hearth = true ∧ agArrival.charge? agToken.bind = some c ∧
    c.phase = .running ∧ 64 ≤ agToken.ce ∧ agArrival.chain? (.ag agToken.hearth (agToken.ce - 64) agToken.bind) = some chain0 :=
  ⟨_, rfl, rfl, fun _ h => (List.not_mem_nil h).elim, rfl, rfl, rfl, by decide, rfl⟩
theorem test_ag_arrival : (match exec (.tokenArrival 0 .good) agArrival with
    | .next t => (t.chain? (.ag 0 0 0)).map fun g => g.fifo.map fun v => v.map BitVec.toNat
    | _ => none) = some [some 9, some 5, some 6] := by decide +kernel

/-- Tile stream 0 of tile 0, at element `k`, with the elements before it on their way. -/
def mtState (k : Nat) : State :=
  (withFab (tileState 2 []) fun f => { f with
    charges := f.charges.map fun (b, c) => (b, { c with image := { c.image with mts := [List.replicate 16 0] } }) }).modHearth 0 fun x =>
      { x with mts := [(0, { chain0 with running := true, index := k, starts := 1 })] }
theorem wit_mt : ∀ k ∈ [0, 1, 1023], ∃ c g p, (mtState k).charge? 0 = some c ∧ (mtState k).chain? (.mt 0 0 0) = some g ∧
    c.mtAt 0 0 = some p ∧ (mtState k).tileOf 0 0 p.tile = some 0 ∧ c.engines = true ∧ g.running = true ∧ g.parked = false ∧
    c.mayTry (mtKey 0 0) = true ∧ (mtState k).wlog = [] ∧ g.index = k ∧ ((mtState k).tile 0 0).state = 2 ∧
    ((mtState k).tile 0 0).busy ≠ 63 ∧ tileBytes ((mtState k).tile 0 0).fmt = 4 ∧
    (mtState k).anyPoison (tileAddr 0 0 ((mtState k).tile 0 0) k) 4 = false := by
  intro k h
  simp only [List.mem_cons, List.not_mem_nil, or_false] at h
  rcases h with rfl | rfl | rfl <;> exact ⟨_, _, _, rfl, rfl, rfl, rfl, rfl, rfl, rfl, rfl, rfl, rfl, rfl, by decide, rfl, rfl⟩

theorem wit_ag_home : ∃ c p, (chainState true { chain0 with running := true }).charge? 0 = some c ∧ c.agAt 0 0 = some p ∧
    AtHome (chainState true { chain0 with running := true }) c 0 region0 0 (elemBytes p.fmt false) false true (padAddr 0 0) :=
  ⟨_, _, rfl, rfl, rfl, rfl, rfl, .inl ⟨0, rfl, rfl, by decide, by decide, by decide⟩⟩

/-- The thread record of `forwardState` lies at 0x3000, with no post in it, and with 63. -/
def postState (n : Nat) : State := { forwardState with mem := (tables.take 2 ++ (if n = 0 then [] else [(0x3024, BitVec.ofNat 8 n)])) ++ tables.drop 2 }
theorem wit_record : ∀ n, n = 0 ∨ n = 63 → ∃ th, (postState n).thread? 0 = some th ∧ Record (postState n) th 0x3000 n ∧ unread (postState n) 0x3000 n = n := by
  rintro n (rfl | rfl) <;>
    refine ⟨_, rfl, ⟨⟨rfl, rfl⟩, rfl, by decide +kernel, rfl, by decide, by decide +kernel, fun i hi => ?_, by decide +kernel⟩, by decide +kernel⟩
  all_goals
    have h0 : tierOf (0x3000 + i) = some 0 := by unfold tierOf nearEnd; rw [if_pos (by omega)]
    unfold State.writable; rw [h0]; rfl
/-- NTFY pending for a charge whose device has that thread. -/
def ntfyState (n : Nat) : State := { pendState true with mem := (postState n).mem, adm := (postState n).adm }
theorem wit_ntfy : ∀ n, n = 0 ∨ n = 63 → ∃ c th q v, ((ntfyState n).fab.pending.find? fun x => x.id == 7 && x.notify) = some (pend0 true) ∧
    (ntfyState n).charge? 0 = some c ∧ c.engines = true ∧ (ntfyState n).pendingMet (pend0 true) = true ∧
    (ntfyState n).thread? c.vdev = some th ∧ Record (ntfyState n) th 0x3000 n ∧ unread (ntfyState n) 0x3000 n = n ∧
    ((pend0 true).pos.filter fun x => x.l.isSome) = [q] ∧ q.l = some v ∧ (pend0 true).index < 256 := by
  rintro n (rfl | rfl) <;>
    refine ⟨_, _, _, _, rfl, rfl, rfl, by decide, rfl, ⟨⟨rfl, rfl⟩, rfl, by decide +kernel, rfl, by decide, by decide +kernel,
      fun i hi => ?_, by decide +kernel⟩, by decide +kernel, rfl, rfl, by decide⟩
  all_goals
    have h0 : tierOf (0x3000 + i) = some 0 := by unfold tierOf nearEnd; rw [if_pos (by omega)]
    unfold State.writable; rw [h0]; rfl
/-- R345, R346: the post takes slot 0, its vector 0 and payload 5, and a full record counts it as lost. -/
theorem test_ntfy : ((match exec (.ntfyPost 7) (ntfyState 0) with
    | .next t => some (t.nat 0x3040 1, t.nat 0x3048 8, t.nat 0x3024 4, t.nat 0x3020 4)
    | _ => none), (match exec (.ntfyPost 7) (ntfyState 63) with
    | .next t => some (t.nat 0x3024 4, t.nat 0x3020 4)
    | _ => none)) = (some (0, 5, 1, 0), some (63, 1)) := by decide +kernel

/-! ## Witnesses: packets that wait, dispatches refused, and the last charge of a queue -/

/-- A held packet with one wait, of 1 at address 0x100, which reads 0. -/
def waitPacket : List Byte := (List.range 128).map fun i => if i = 4 then 1 else if i = 0x41 then 1 else if i = 0x48 then 1 else 0
def waitingState : State :=
  let s := queueState 1 1 [] 0xA000
  { s with adm := { s.adm with queues := [(0, { Queue.reset with state := 1, lsize := 4, held := [{ launch := launch0 waitPacket, seq := 3, met := false }] })] } }
theorem wit_wait_unmet : (launch0 waitPacket).waitCount = 1 ∧ (launch0 waitPacket).wait 0 = (0x100, 1) ∧
    waitingState.stokerAddr 0 0x100 true false = some 0x100 ∧ waitingState.anyPoison 0x100 8 = false ∧ waitingState.loadHome 0x100 8 = 0 := by
  decide +kernel

theorem wit_dispatch_record : (listedState.bindRec 7).state = 0 ∧ RecordAt listedState (launch0 goodPacket) 0 ∧
    Table.getD listedState.adm.inbox 7 [] = [] ∧ (store0 &&& ~~~(0xFF#256 <<< 150)).extractLsb' 150 8 = 0 ∧
    ({ listedState with adm := { listedState.adm with aspaces := [] } } : State).aspaceRefused 0 = true := by
  refine ⟨by decide, ⟨⟨rfl, rfl⟩, ?_, ?_, ?_, ?_, ?_, rfl, rfl, ?_⟩, rfl, ?_, ?_⟩ <;> decide +kernel
/-- Address space 1, which is not enabled, is refused to the same listed launch. -/
theorem wit_dispatch_refused : listedState.aspaceRefused 1 = true ∧ (store0 ||| (1#256 <<< 180)).extractLsb' 180 12 = 1 := by decide +kernel
/-- A charge of context 0 holds hearth 0, which the launch asks for. -/
def takenState : State :=
  let s := loadState imageBytes0
  { s with adm := { s.adm with binds := [] }, fab := { s.fab with charges := [(3, probeCharge 0)] } }
theorem wit_dispatch_held : (3, probeCharge 0) ∈ takenState.fab.charges ∧ (probeCharge 0).ctx = (store0.extractLsb' 158 4).toNat ∧
    Table.get? takenState.adm.listed 0 = some (launch0 goodPacket) ∧ takenState.recordOf 0 = none ∧ RecordAt takenState (launch0 goodPacket) 0 ∧
    (0 : Nat) ∈ (probeCharge 0).region ∧ takenState.regionOfLaunch (launch0 goodPacket) (store0.extractLsb' 162 8).toNat = some [0] := by
  refine ⟨.head _, by decide, rfl, rfl, ⟨⟨rfl, rfl⟩, ?_, ?_, ?_, ?_, ?_, rfl, rfl, ?_⟩, .head _, ?_⟩ <;> decide +kernel
/-- It is rejected for reason 8. -/
theorem test_dispatch_held : (match exec (.bindDispatch (.core 20) 7 store0) takenState with
    | .next t => some ((t.bindRec 7).state.toNat, t.nat 8 4, t.nat 12 4)
    | _ => none) = some (6, statusRejected, 8) := by decide +kernel

def lastState : State :=
  let s := endState .aborting
  { s with adm := { s.adm with queues := [(0, { Queue.reset with state := 3 })] } }
theorem wit_last_charge : ∃ c, lastState.charge? 0 = some c ∧ (lastState.queue c.vdev c.queue).state = 3 ∧ c.queue < 256 ∧
    (∀ x ∈ lastState.fab.charges, x.1 ≠ 0 → ¬(x.2.vdev = c.vdev ∧ x.2.queue = c.queue)) := by
  refine ⟨_, rfl, rfl, by decide, fun x hx h => ?_⟩
  have : x = (0, { probeCharge 0 with phase := .aborting }) := List.mem_singleton.mp hx
  subst this; exact absurd rfl h
theorem test_queue_ends : (match exec (.launchComplete 0) lastState with
    | .next t => some ((t.queue 0 0).state.toNat, (t.charge? 0).isNone)
    | _ => none) = some (0, true) := by decide +kernel

/-! ## Witnesses: a repair pass that issues again, moves, resets and power -/

/-- Iteration 3, which the header gave as index 0 of a trip of one iteration. -/
def tripState : State := withFab (bubbleState true false 0 [bubble0]) fun f => { f with
  ctxs := [(0, { CeCtx.reset 0 0 0 0 with loop := { LoopSt.reset with log := [{ first := 3, n := 1, issued := 1 }] } })] }
theorem wit_trip : TripGave [{ first := 3, n := 1, issued := 1 }] 3 0 :=
  ⟨0, 0, _, rfl, rfl, by decide, rfl, fun m h1 h2 => absurd h2 (by have : (1 : Nat) ≤ m := h1; exact Nat.not_lt.mpr this), fun l x h1 h2 => by
    match l, h2 with
    | l + 1, h2 => exact absurd h2 (by simp)⟩
theorem wit_trip_state : ∃ c, tripState.charge? 0 = some c ∧ (c.image.blocks.map fun x => ctxKey (c.region.getD x.shape 0) x.loopCe c.ctx).Nodup ∧
    (c.image.blocks.map Block.id).Nodup ∧ c.image.blocks.all (fun x => x.loopSlot < x.words.length) = true ∧ c.headless = false :=
  ⟨_, rfl, by decide, by decide, by decide, rfl⟩
theorem wit_trip_pass : ∃ c, tripState.charge? 0 = some c ∧ c.runs = true ∧ c.repairing = false ∧ c.bubbles ≠ [] ∧ c.bubbleHolds = 0 ∧
    tripState.sinksDone 0 c = true ∧ c.acks = 0 ∧ tripState.enginesDone 0 c = true := ⟨_, rfl, rfl, rfl, by decide, rfl, rfl, rfl, rfl⟩
/-- R359: the bubbled iteration is to be issued again with its index, and leaves the bubble list. -/
theorem test_reissue : (match exec (.repairPass 0) tripState with
    | .next t => some ((t.ctx? 0 0 0).map (fun c => c.loop.reissue.map fun x => (x.1.toNat, x.2.toNat)), (t.charge? 0).map fun c => c.bubbles.length)
    | _ => none) = some (some [(3, 0)], some 0) := by decide

/-- The last line of the move, and its cancel: the ring of its pool has room, and its leaf is MOVING at the source. -/
def lastLine : State := { movingState 255 false with mem := tables.take 6 ++ [(0x8000, 0x1D), (0xE000, 9)] }
/-- The same move, whose leaf lies at 0x18000. -/
def move1 : Move := { move0 255 false with leaf := 0x18000 }
def lastLine1 : State := { movingState 255 false with
  mem := tables ++ [(0xE000, 9), (0xFF07, 6), (0x18000, 0x1D), (0x18001, 0xA0)], memSide := { State.reset.memSide with moves := [move1] } }
theorem wit_last_line : lastLine1.memSide.moves = [move1] ∧ move1.cursor = 255 ∧ lastLine1.lineWaits move1 = none ∧ Quiet lastLine1 ∧
    lastLine1.emberOwner move1.src = 0xFF ∧ move1.dst < emberEnd - emberBase ∧ (tierOf move1.leaf).isSome = true ∧
    lastLine1.writable move1.leaf = true ∧ move1.leaf % 8 = 0 ∧ move1.leaf / 65536 ≠ move1.src ∧ lastLine1.wlog = [] ∧
    Memory.wf lastLine1.mem = true ∧ lastLine1.memSide.poison = [] ∧ lastLine1.writable (move1.dst * 65536 + 256 * 255) = true ∧
    Apart move1.leaf 8 (move1.dst * 65536 + 256 * 255) 256 ∧
    (∀ i, i < 256 → lastLine1.visible (move1.src * 65536 + 256 * 255 + i) = true) := by
  refine ⟨rfl, rfl, by decide +kernel, ⟨rfl, rfl⟩, by decide, by decide, by decide, by decide, by decide, by decide, rfl, by decide, rfl,
    by decide, .inl (by decide), fun i h => ?_⟩
  have h0 : tierOf (0 * 65536 + 256 * 255 + i) = some 0 := by unfold tierOf nearEnd; rw [if_pos (by omega)]
  show State.visible _ (0 * 65536 + 256 * 255 + i) = true
  unfold State.visible; rw [h0]; rfl
/-- R313: the line's byte 7 stands at frame 9, and the leaf is RESIDENT there with its bits 15:8 as they were. -/
theorem test_last_line : (match exec (.migrationLineCopy 6 .none) lastLine1 with
    | .next t => some (t.nat 0x18000 8, (t.byte 0x9FF07).toNat)
    | _ => none) = some (0x9A00D, 6) := by decide +kernel
theorem wit_cancel_pool : ((lastLine.pool 0).head.toNat + (lastLine.pool 0).ring - 1) % (lastLine.pool 0).ring ≠ (lastLine.pool 0).tail.toNat % (lastLine.pool 0).ring ∧
    lastLine.writable (14 * 4096 + 8 * 255) = true ∧ Apart (14 * 4096 + 8 * 255) 8 0x100 32 ∧ Apart 0x8000 8 0x100 32 ∧ Apart 0x8000 8 (14 * 4096 + 8 * 255) 8 ∧
    lastLine.nat 0x8000 8 / 16 % 4 = 1 ∧ lastLine.nat 0x8000 8 / 65536 % 2 ^ 40 = 0 := by
  refine ⟨by decide, by decide, .inr (by decide), .inr (by decide), .inl (by decide), by decide, by decide⟩
/-- R316: a cancelled move gives frame 9 back to entry 255 of its pool, and its leaf is RESIDENT again. -/
theorem test_cancel : (match exec (.migrationCancel .wholesaler 2 (moveBytes true)) lastLine with
    | .next t => some ((t.pool 0).head.toNat, t.nat (14 * 4096 + 8 * 255) 8, t.nat 0x8000 8, t.nat 0x100 4, t.nat 0x104 4)
    | _ => none) = some (255, 9, 0x0D, 8, 5) := by decide +kernel

theorem wit_queue_ends : ((queueState 1 0 [] 0xA000).queue 0 0).state.toNat ≤ 2 ∧ ((queueState 1 0 [] 0xA000).queue 0 0).state ≠ 0 ∧
    (∀ y ∈ (queueState 1 0 [] 0xA000).fab.charges, ¬(y.2.vdev = 0 ∧ y.2.queue = 0)) ∧
    (∃ y ∈ (placed 0).fab.charges, y.2.vdev = 0 ∧ y.2.queue = 0) :=
  ⟨by decide, by decide, fun _ h => (List.not_mem_nil h).elim, _, .head _, rfl, rfl⟩
/-- Partition 2 has device 0, whose charge runs; partition 5 has none. -/
def partResetState : State := { queueState 1 0 [] 0xA000 with fab := (placed 0).fab }
theorem wit_part_reset : (∃ y ∈ partResetState.fab.charges, (partResetState.vdev y.2.vdev).partition.toNat = 2) ∧
    (∀ y ∈ partResetState.fab.charges, ∀ x ∈ partResetState.adm.vdevs, x.1 = y.2.vdev → x.2.partition.toNat ≠ 5) := by
  refine ⟨⟨_, .head _, rfl⟩, fun y _ x hx _ => ?_⟩
  have : x = (0, { qtable := 0xE000, partition := 2, rights := BitVec.allOnes 6, state := 1, burst := 0, rate := 0 }) := List.mem_singleton.mp hx
  subst this; decide
theorem test_part_reset : (match exec (.partitionReset .wholesaler 2) partResetState with
    | .next t => some ((t.part 2).state.toNat, (t.vdev 0).state.toNat, (t.queue 0 0).state.toNat)
    | _ => none) = some (2, 2, 3) := by decide +kernel

/-- Stove 3 while a channel of it changes its point, and another whose channels do not. -/
def hotState : State := { channelState with cycle := 1600000, mod := { channelState.mod with limit := 300, inlet := 310, crossed := true } }
theorem wit_hot : hotState.mod.stoves.length = 12 ∧ hotState.mod.bellowsMs < hotState.cycle / cyclesPerMs ∧
    hotState.mod.limit.toNat < hotState.mod.inlet.toNat ∧ hotState.mod.crossed = true ∧ hotState.env.plans = [] ∧ hotState.mod.held = false ∧
    (hotState.stove 3).changing ≠ [] ∧ (hotState.stove 4).changing = [] := by decide
/-- Where no stack draws more than the nominal 30 W (R33), a plan of 140 W for each stove is admitted. -/
theorem wit_plan_admitted (h : ∀ n, Config.stackPower n ≤ 300) : State.reset.planAdmitted (plan0 1400) = true := by
  have h1 := h 2450
  refine decide_eq_true ?_
  let x := 1400 + Config.stackPower 2450
  show x + (x + (x + (x + (x + (x + (x + (x + (x + (x + (x + (x + 0))))))))))) ≤ 24000
  omega
theorem wit_plan_listed : (plan0 500).stoveBudget[(3 : Nat)]? = some 500 ∧
    ({ plan0 500 with stackBudget := List.replicate 12 2000 } : PowerPlan).stackBudget[(3 : Nat)]? = some 2000 := by decide

/-- Three halves of the unit of the last place of 1.0 in f16 and its neighbours: 1.0 + 2^-11 lies half way between 1.0 and the next. -/
theorem wit_rounded : Fmt.f16 ∈ [Fmt.e4m3, .e5m2, .f16, .bf16, .f32, .f64] ∧ (policyOf 0).fout = false ∧
    (fltAdd (policyOf 0) .f16 0 false (.fin false 1 0) (.fin false 1 (-11))) = (0x3C00, 1) ∧
    fBeside .f16 1 2049 1 (-11) (fUnits .f16 0x3C00 + fUnits .f16 0x3C01) = .eq := by decide +kernel
end Sys2Proof.Tests
end

/-! # Instruction words: fields, formats and the opcode map (R80 to R92) -/

namespace Sys2Proof

open Sys2Proof.Machine

/-! ## Codes of fields (R80, R83, R88) -/

@[simp] theorem decodeFmt_encodeFmt (f : Fmt) : decodeFmt (encodeFmt f) = f := by cases f <;> rfl

@[simp] theorem encodeFmt_decodeFmt : ∀ b : BitVec 4, encodeFmt (decodeFmt b) = b := by decide

theorem decodeTagOp_eq_some_iff (b : BitVec 3) (t : TagOp) : decodeTagOp b = some t ↔ b = encodeTagOp t := by
  revert b; cases t <;> decide

theorem decodeScope_eq_some_iff (b : BitVec 3) (t : Scope) : decodeScope b = some t ↔ b = encodeScope t := by
  revert b; cases t <;> decide

@[simp] theorem decodeCons_encodeCons (c : Consumer) : decodeCons (encodeCons c) = c := by
  simp only [decodeCons, encodeCons, BitVec.extractLsb'_append_eq_left, BitVec.extractLsb'_append_eq_right]

@[simp] theorem encodeCons_decodeCons (b : BitVec 9) : encodeCons (decodeCons b) = b := by
  simp only [encodeCons, decodeCons, BitVec.extractLsb'_append_extractLsb'_eq_extractLsb']
  exact BitVec.extractLsb'_eq_self

/-! ## Fields of a word -/

theorem field_append_field (w : BitVec 64) {hi lo m n : Nat} (h : hi = lo + n) :
    field w hi m ++ field w lo n = field w lo (m + n) :=
  BitVec.extractLsb'_append_extractLsb'_eq_extractLsb' h

theorem field_whole (w : BitVec 64) : field w 0 64 = w := BitVec.extractLsb'_eq_self

theorem fieldBit_eq_field (w : BitVec 64) (i : Nat) : fieldBit w i = (field w i 1).getLsbD 0 := by
  simp [fieldBit, field]

theorem ofBool_fieldBit (w : BitVec 64) (i : Nat) : BitVec.ofBool (fieldBit w i) = field w i 1 := by
  ext j hj
  obtain rfl : j = 0 := by omega
  simp [fieldBit, field]

/-- The opcode's eight bits are the word's highest field (R80). -/
theorem field_opcode_of_opcodeOf {w : BitVec 64} {op : BitVec 8} (h : opcodeOf w = op.toNat) : field w 56 8 = op :=
  BitVec.eq_of_toNat_eq h

/-! ## A word of a format and its fields (R81, R83, R87 to R90) -/

theorem wordAOf_encA (op : BitVec 8) (a : WordA) : wordAOf (encA op a) a.tagop = a := by
  simp (disch := omega) only [wordAOf, fieldBit_eq_field, encA, field, BitVec.extractLsb'_append_eq_of_le,
    BitVec.extractLsb'_append_eq_of_add_le, BitVec.extractLsb'_eq_self, Nat.reduceSub]
  simp

theorem field_tagop_encA (op : BitVec 8) (a : WordA) : field (encA op a) 47 3 = encodeTagOp a.tagop := by
  simp (disch := omega) only [encA, field, BitVec.extractLsb'_append_eq_of_le, BitVec.extractLsb'_append_eq_of_add_le,
    BitVec.extractLsb'_eq_self, Nat.reduceSub]

theorem encA_wordAOf {w : BitVec 64} {t : TagOp} (h : field w 47 3 = encodeTagOp t) : encA (field w 56 8) (wordAOf w t) = w := by
  simp only [encA, wordAOf, ← h, encodeFmt_decodeFmt, encodeCons_decodeCons, ofBool_fieldBit]
  simp (disch := omega) only [field_append_field]
  exact field_whole w

theorem wordBOf_encB (op : BitVec 8) (b : WordB) : wordBOf (encB op b) = b := by
  simp (disch := omega) only [wordBOf, fieldBit_eq_field, encB, field, BitVec.extractLsb'_append_eq_of_le,
    BitVec.extractLsb'_append_eq_of_add_le, BitVec.extractLsb'_eq_self, Nat.reduceSub]
  simp

theorem field_reserved_encB (op : BitVec 8) (b : WordB) : field (encB op b) 24 3 = 0 := by
  simp (disch := omega) only [encB, field, BitVec.extractLsb'_append_eq_of_le, BitVec.extractLsb'_append_eq_of_add_le,
    BitVec.extractLsb'_eq_self, Nat.reduceSub]

theorem encB_wordBOf {w : BitVec 64} (h : field w 24 3 = 0) : encB (field w 56 8) (wordBOf w) = w := by
  simp only [encB, wordBOf, ← h, encodeFmt_decodeFmt, encodeCons_decodeCons, ofBool_fieldBit]
  simp (disch := omega) only [field_append_field]
  exact field_whole w

theorem wordMOf_encM (op : BitVec 8) (m : WordM) : wordMOf (encM op m) m.scope = m := by
  simp (disch := omega) only [wordMOf, fieldBit_eq_field, encM, field, BitVec.extractLsb'_append_eq_of_le,
    BitVec.extractLsb'_append_eq_of_add_le, BitVec.extractLsb'_eq_self, Nat.reduceSub]
  simp

theorem field_scope_encM (op : BitVec 8) (m : WordM) : field (encM op m) 47 3 = encodeScope m.scope := by
  simp (disch := omega) only [encM, field, BitVec.extractLsb'_append_eq_of_le, BitVec.extractLsb'_append_eq_of_add_le,
    BitVec.extractLsb'_eq_self, Nat.reduceSub]

theorem encM_wordMOf {w : BitVec 64} {t : Scope} (h : field w 47 3 = encodeScope t) : encM (field w 56 8) (wordMOf w t) = w := by
  simp only [encM, wordMOf, ← h, encodeFmt_decodeFmt, encodeCons_decodeCons, ofBool_fieldBit]
  simp (disch := omega) only [field_append_field]
  exact field_whole w

theorem wordXOf_encX (op : BitVec 8) (x : WordX) : wordXOf (encX op x) = x := by
  simp (disch := omega) only [wordXOf, fieldBit_eq_field, encX, field, BitVec.extractLsb'_append_eq_of_le,
    BitVec.extractLsb'_append_eq_of_add_le, BitVec.extractLsb'_eq_self, Nat.reduceSub]
  simp

theorem field_reserved_encX (op : BitVec 8) (x : WordX) : field (encX op x) 0 7 = 0 := BitVec.extractLsb'_append_eq_right

theorem encX_wordXOf {w : BitVec 64} (h : field w 0 7 = 0) : encX (field w 56 8) (wordXOf w) = w := by
  simp only [encX, wordXOf, ← h, encodeFmt_decodeFmt, encodeCons_decodeCons, ofBool_fieldBit]
  simp (disch := omega) only [field_append_field]
  exact field_whole w

theorem wordSOf_encS (op : BitVec 8) (y : WordS) : wordSOf (encS op y) y.scope = y := by
  simp (disch := omega) only [wordSOf, fieldBit_eq_field, encS, field, BitVec.extractLsb'_append_eq_of_le,
    BitVec.extractLsb'_append_eq_of_add_le, BitVec.extractLsb'_eq_self, Nat.reduceSub]
  simp

theorem field_scope_encS (op : BitVec 8) (y : WordS) : field (encS op y) 47 3 = encodeScope y.scope := by
  simp (disch := omega) only [encS, field, BitVec.extractLsb'_append_eq_of_le, BitVec.extractLsb'_append_eq_of_add_le,
    BitVec.extractLsb'_eq_self, Nat.reduceSub]

theorem field_reserved_encS (op : BitVec 8) (y : WordS) : field (encS op y) 0 6 = 0 := BitVec.extractLsb'_append_eq_right

theorem encS_wordSOf {w : BitVec 64} {t : Scope} (h : field w 47 3 = encodeScope t) (h0 : field w 0 6 = 0) :
    encS (field w 56 8) (wordSOf w t) = w := by
  simp only [encS, wordSOf, ← h, ← h0, encodeFmt_decodeFmt, encodeCons_decodeCons, ofBool_fieldBit]
  simp (disch := omega) only [field_append_field]
  exact field_whole w

/-! ## Decoding by format -/

/-- A word of a format A opcode decodes to `i` exactly where `i` is that opcode's instruction and the word is that of its fields. -/
theorem decodeA_eq_ok_iff (op : Nat) (w : BitVec 64) (i : Instr) :
    decodeA op w = .ok i ↔ ∃ mk a, opcodeA op = some mk ∧ mk a = i ∧ encA (field w 56 8) a = w := by
  unfold decodeA
  constructor
  · intro h
    split at h
    · cases h
    next mk hm =>
    split at h
    · cases h
    · next t ht =>
      cases h
      exact ⟨mk, _, hm, rfl, encA_wordAOf ((decodeTagOp_eq_some_iff _ _).1 ht)⟩
  · rintro ⟨mk, a, hm, rfl, ha⟩
    have ht := (decodeTagOp_eq_some_iff _ _).2 (field_tagop_encA (field w 56 8) a)
    have hw := wordAOf_encA (field w 56 8) a
    rw [ha] at ht hw
    simp only [hm, ht, hw]

theorem decodeB_eq_ok_iff (op : Nat) (w : BitVec 64) (i : Instr) :
    decodeB op w = .ok i ↔ ∃ mk b, opcodeB op = some mk ∧ mk b = i ∧ encB (field w 56 8) b = w := by
  unfold decodeB
  constructor
  · intro h
    split at h
    · cases h
    next mk hm =>
    split at h
    · next h0 =>
      cases h
      exact ⟨mk, _, hm, rfl, encB_wordBOf h0⟩
    · cases h
  · rintro ⟨mk, b, hm, rfl, hb⟩
    have h0 := field_reserved_encB (field w 56 8) b
    have hw := wordBOf_encB (field w 56 8) b
    rw [hb] at h0 hw
    simp only [hm, h0, hw, if_true]

theorem decodeM_eq_ok_iff (op : Nat) (w : BitVec 64) (i : Instr) :
    decodeM op w = .ok i ↔ ∃ mk m, opcodeM op = some mk ∧ mk m = i ∧ encM (field w 56 8) m = w := by
  unfold decodeM
  constructor
  · intro h
    split at h
    · cases h
    next mk hm =>
    split at h
    · cases h
    · next t ht =>
      cases h
      exact ⟨mk, _, hm, rfl, encM_wordMOf ((decodeScope_eq_some_iff _ _).1 ht)⟩
  · rintro ⟨mk, m, hm, rfl, ha⟩
    have ht := (decodeScope_eq_some_iff _ _).2 (field_scope_encM (field w 56 8) m)
    have hw := wordMOf_encM (field w 56 8) m
    rw [ha] at ht hw
    simp only [hm, ht, hw]

theorem decodeX_eq_ok_iff (op : Nat) (w : BitVec 64) (i : Instr) :
    decodeX op w = .ok i ↔ ∃ mk x, opcodeX op = some mk ∧ mk x = i ∧ encX (field w 56 8) x = w := by
  unfold decodeX
  constructor
  · intro h
    split at h
    · cases h
    next mk hm =>
    split at h
    · next h0 =>
      cases h
      exact ⟨mk, _, hm, rfl, encX_wordXOf h0⟩
    · cases h
  · rintro ⟨mk, x, hm, rfl, hx⟩
    have h0 := field_reserved_encX (field w 56 8) x
    have hw := wordXOf_encX (field w 56 8) x
    rw [hx] at h0 hw
    simp only [hm, h0, hw, if_true]

theorem decodeS_eq_ok_iff (op : Nat) (w : BitVec 64) (i : Instr) :
    decodeS op w = .ok i ↔ ∃ mk y, opcodeS op = some mk ∧ mk y = i ∧ encS (field w 56 8) y = w := by
  unfold decodeS
  constructor
  · intro h
    split at h
    · cases h
    next mk hm =>
    split at h
    · cases h
    · next t ht =>
      split at h
      · next h0 =>
        cases h
        exact ⟨mk, _, hm, rfl, encS_wordSOf ((decodeScope_eq_some_iff _ _).1 ht) h0⟩
      · cases h
  · rintro ⟨mk, y, hm, rfl, hy⟩
    have ht := (decodeScope_eq_some_iff _ _).2 (field_scope_encS (field w 56 8) y)
    have h0 := field_reserved_encS (field w 56 8) y
    have hw := wordSOf_encS (field w 56 8) y
    rw [hy] at ht h0 hw
    simp only [hm, ht, h0, hw, if_true]

/-! ## Encoding by format -/

theorem encode_of_opcodeA {op : Nat} {mk : WordA → Instr} (h : opcodeA op = some mk) (a : WordA) :
    encode (mk a) = some (encA (BitVec.ofNat 8 op) a) := by
  unfold opcodeA at h
  split at h <;> cases h <;> rfl

theorem encode_of_opcodeB {op : Nat} {mk : WordB → Instr} (h : opcodeB op = some mk) (b : WordB) :
    encode (mk b) = some (encB (BitVec.ofNat 8 op) b) := by
  unfold opcodeB at h
  split at h <;> cases h <;> rfl

theorem encode_of_opcodeM {op : Nat} {mk : WordM → Instr} (h : opcodeM op = some mk) (m : WordM) :
    encode (mk m) = some (encM (BitVec.ofNat 8 op) m) := by
  unfold opcodeM at h
  split at h <;> cases h <;> rfl

theorem encode_of_opcodeX {op : Nat} {mk : WordX → Instr} (h : opcodeX op = some mk) (x : WordX) :
    encode (mk x) = some (encX (BitVec.ofNat 8 op) x) := by
  unfold opcodeX at h
  split at h <;> cases h <;> rfl

theorem encode_of_opcodeS {op : Nat} {mk : WordS → Instr} (h : opcodeS op = some mk) (y : WordS) :
    encode (mk y) = some (encS (BitVec.ofNat 8 op) y) := by
  unfold opcodeS at h
  split at h <;> cases h <;> rfl

theorem statement_of_instr (i : Instr) : Laws.Encoding.Statement i := by
  cases i with
  | nop w | const w | dup w | steer w | merge w | gate w | sync w | sink w | eos w | isbub w | trig w | hndl w | add w | sub w
  | adds w | subs w | mul w | mulh w | mad w | div w | rem w | neg w | abs w | min w | max w | avg w | idx w | idx2 w | and w
  | or w | xor w | andn w | not w | shl w | shr w | sha w | rot w | clz w | popc w | brev w | bfx w | bfi w | cmp w | sel w
  | fadd w | fsub w | fmul w | fma w | fnma w | fmin w | fmax w | fabs w | fneg w | fcmp w | fclass w | frnd w | fdiv w
  | fsqrt w | fscal w | fcpys w | frcp w | frsq w | fex2 w | flg2 w | ftnh w | fsgm w | fsin w | fcos w | fsilu w | cvt w
  | cvto w | cvtl w | pack w | unpk w | scac w | scale w | cbdec w | key w | vsum w | vmax w | vmin w | vand w | vor w
  | vscn w | vspl w | vcat w | pand w | por w | pxor w | pnot w | pcnt w | rdfl w | clfl w =>
    exact Laws.Encoding.ofA _ w rfl rfl rfl rfl
  | loop w | loopd w | lexit w | tchk w | tgset w | tgget w | scan w | scant w | pstrm w =>
    exact Laws.Encoding.ofB _ w rfl rfl rfl rfl
  | ld w | st w | lds w | sts w | atom w | cas w | gath w | scat w | tld w | tst w | tqry w | tclr w | crd w | cwr w | zbmp w
  | pfch w | bcpy w | nmc w | place w | fjoin w | tlinc w | tlwait w | tlrd w | ntfy w | lsend w | lrecv w | redn w =>
    exact Laws.Encoding.ofM _ w rfl rfl rfl rfl
  | mlat w | mgath w | mma w | mmas w | mout w | mzer w | mcbt w | jinit w | jwin w | jadd w | jprd w | jmatch w | jprobe w
  | jdro w | jdrh w | jmrg w | jstat w | iwalk w | ibal w =>
    exact Laws.Encoding.ofX _ w rfl rfl rfl rfl
  | trap w | halt w | yield w | splice w | launch w | rdctl w | cksum w => exact Laws.Encoding.ofS _ w rfl rfl rfl rfl
  | _ => exact Laws.Encoding.ofNone rfl


theorem decodeA_reservedOpcode_iff (op : Nat) (w : BitVec 64) : decodeA op w = .error .reservedOpcode ↔ opcodeA op = none := by
  unfold decodeA
  split
  · simp [*]
  · split <;> simp [*]

theorem decodeB_reservedOpcode_iff (op : Nat) (w : BitVec 64) : decodeB op w = .error .reservedOpcode ↔ opcodeB op = none := by
  unfold decodeB
  split
  · simp [*]
  · split <;> simp [*]

theorem decodeM_reservedOpcode_iff (op : Nat) (w : BitVec 64) : decodeM op w = .error .reservedOpcode ↔ opcodeM op = none := by
  unfold decodeM
  split
  · simp [*]
  · split <;> simp [*]

theorem decodeX_reservedOpcode_iff (op : Nat) (w : BitVec 64) : decodeX op w = .error .reservedOpcode ↔ opcodeX op = none := by
  unfold decodeX
  split
  · simp [*]
  · split <;> simp [*]

theorem decodeS_reservedOpcode_iff (op : Nat) (w : BitVec 64) : decodeS op w = .error .reservedOpcode ↔ opcodeS op = none := by
  unfold decodeS
  split
  · simp [*]
  · split
    · simp [*]
    · split <;> simp [*]

/-! ## Words and bytes -/

theorem decodeWord_of_encode {i : Instr} {w : BitVec 64} (h : encode i = some w) : decodeWord w = .ok i := by
  obtain ⟨op, a, hf, rfl, mk, hm, hi⟩ | ⟨op, a, hf, rfl, mk, hm, hi⟩ | ⟨op, a, hf, rfl, mk, hm, hi⟩ |
    ⟨op, a, hf, rfl, mk, hm, hi⟩ | ⟨op, a, hf, rfl, mk, hm, hi⟩ := statement_of_instr i w h
  all_goals simp only [decodeWord, hf]
  · exact (decodeA_eq_ok_iff ..).2 ⟨mk, a, hm, hi, by rw [field_opcode_of_opcodeOf (Laws.Encoding.opcodeOf_encA op a)]⟩
  · exact (decodeB_eq_ok_iff ..).2 ⟨mk, a, hm, hi, by rw [field_opcode_of_opcodeOf (Laws.Encoding.opcodeOf_encB op a)]⟩
  · exact (decodeM_eq_ok_iff ..).2 ⟨mk, a, hm, hi, by rw [field_opcode_of_opcodeOf (Laws.Encoding.opcodeOf_encM op a)]⟩
  · exact (decodeX_eq_ok_iff ..).2 ⟨mk, a, hm, hi, by rw [field_opcode_of_opcodeOf (Laws.Encoding.opcodeOf_encX op a)]⟩
  · exact (decodeS_eq_ok_iff ..).2 ⟨mk, a, hm, hi, by rw [field_opcode_of_opcodeOf (Laws.Encoding.opcodeOf_encS op a)]⟩

@[simp] theorem ofNat_opcodeOf (w : BitVec 64) : BitVec.ofNat 8 (opcodeOf w) = field w 56 8 := by simp [opcodeOf]

theorem encode_of_decodeWord {w : BitVec 64} {i : Instr} (h : decodeWord w = .ok i) : encode i = some w := by
  unfold decodeWord at h
  split at h
  · obtain ⟨mk, a, hm, rfl, ha⟩ := (decodeA_eq_ok_iff ..).1 h
    rw [encode_of_opcodeA hm, ofNat_opcodeOf, ha]
  · obtain ⟨mk, b, hm, rfl, hb⟩ := (decodeB_eq_ok_iff ..).1 h
    rw [encode_of_opcodeB hm, ofNat_opcodeOf, hb]
  · obtain ⟨mk, m, hm, rfl, hw⟩ := (decodeM_eq_ok_iff ..).1 h
    rw [encode_of_opcodeM hm, ofNat_opcodeOf, hw]
  · obtain ⟨mk, x, hm, rfl, hx⟩ := (decodeX_eq_ok_iff ..).1 h
    rw [encode_of_opcodeX hm, ofNat_opcodeOf, hx]
  · obtain ⟨mk, y, hm, rfl, hy⟩ := (decodeS_eq_ok_iff ..).1 h
    rw [encode_of_opcodeS hm, ofNat_opcodeOf, hy]
  · cases h

/-- The opcode map of R91 lists `op` in the format that its range gives it. -/
def Mapped (op : Nat) : Prop :=
  match formatOf op with
  | some .a => opcodeA op ≠ none
  | some .b => opcodeB op ≠ none
  | some .m => opcodeM op ≠ none
  | some .x => opcodeX op ≠ none
  | some .s => opcodeS op ≠ none
  | none => False

theorem decodeWord_reservedOpcode_iff (w : BitVec 64) : decodeWord w = .error .reservedOpcode ↔ ¬ Mapped (opcodeOf w) := by
  unfold decodeWord Mapped
  cases formatOf (opcodeOf w) with
  | none => simp
  | some f =>
    cases f with
    | a => simpa using decodeA_reservedOpcode_iff _ w
    | b => simpa using decodeB_reservedOpcode_iff _ w
    | m => simpa using decodeM_reservedOpcode_iff _ w
    | x => simpa using decodeX_reservedOpcode_iff _ w
    | s => simpa using decodeS_reservedOpcode_iff _ w

theorem mapped_of_encode {i : Instr} {v : BitVec 64} (h : encode i = some v) : Mapped (opcodeOf v) := by
  have hv : decodeWord v ≠ .error .reservedOpcode := by simp [decodeWord_of_encode h]
  simpa [decodeWord_reservedOpcode_iff] using hv

/-- Every opcode that the map lists is some instruction's: that of any fields of its format. -/
theorem exists_encode_of_mapped {w : BitVec 64} (h : Mapped (opcodeOf w)) :
    ∃ i v, encode i = some v ∧ opcodeOf v = opcodeOf w := by
  unfold Mapped at h
  split at h
  · obtain ⟨mk, hm⟩ := Option.ne_none_iff_exists'.1 h
    exact ⟨_, _, encode_of_opcodeA hm (wordAOf w .same), by rw [Laws.Encoding.opcodeOf_encA, ofNat_opcodeOf]; rfl⟩
  · obtain ⟨mk, hm⟩ := Option.ne_none_iff_exists'.1 h
    exact ⟨_, _, encode_of_opcodeB hm (wordBOf w), by rw [Laws.Encoding.opcodeOf_encB, ofNat_opcodeOf]; rfl⟩
  · obtain ⟨mk, hm⟩ := Option.ne_none_iff_exists'.1 h
    exact ⟨_, _, encode_of_opcodeM hm (wordMOf w .e), by rw [Laws.Encoding.opcodeOf_encM, ofNat_opcodeOf]; rfl⟩
  · obtain ⟨mk, hm⟩ := Option.ne_none_iff_exists'.1 h
    exact ⟨_, _, encode_of_opcodeX hm (wordXOf w), by rw [Laws.Encoding.opcodeOf_encX, ofNat_opcodeOf]; rfl⟩
  · obtain ⟨mk, hm⟩ := Option.ne_none_iff_exists'.1 h
    exact ⟨_, _, encode_of_opcodeS hm (wordSOf w .e), by rw [Laws.Encoding.opcodeOf_encS, ofNat_opcodeOf]; rfl⟩
  · exact h.elim

@[simp] theorem length_leBytes (n v : Nat) : (leBytes n v).length = n := by
  induction n generalizing v with
  | zero => rfl
  | succ n ih => simp [leBytes, ih]

theorem leNat_leBytes (n v : Nat) : leNat (leBytes n v) = v % 256 ^ n := by
  induction n generalizing v with
  | zero => simp [leBytes, leNat, Nat.mod_one]
  | succ n ih =>
    rw [leBytes, leNat, ih, BitVec.toNat_ofNat, Nat.pow_succ' (n := n), Nat.mod_mul (x := v)]

/-- The decoder reads a word from its eight bytes, least significant first, and leaves what follows (R3, R75). -/
theorem decode_leBytes_append {w : BitVec 64} {i : Instr} (h : decodeWord w = .ok i) (rest : List Byte) :
    decode (leBytes 8 w.toNat ++ rest) = .ok (i, rest) := by
  have hn : BitVec.ofNat 64 (leNat (leBytes 8 w.toNat)) = w := by
    rw [leNat_leBytes, Nat.mod_eq_of_lt (show w.toNat < 256 ^ 8 from w.isLt), BitVec.ofNat_toNat, BitVec.setWidth_eq]
  have hl : ¬ (leBytes 8 w.toNat ++ rest).length < 8 := by simp
  rw [decode, if_neg hl, List.take_left' (length_leBytes ..), List.drop_left' (length_leBytes ..), hn, h]

/-- Settles O1: the word of each format and its fields determine each other, so that decoding and encoding undo each other; a word is
refused for its opcode exactly where the map lacks it. -/
theorem decodeAndEncodeAgree : Obligations.DecodeAndEncodeAgree := by
  refine ⟨fun i w rest h => ?_, fun w i => encode_of_decodeWord, fun w => ?_⟩
  · have hw := decodeWord_of_encode h
    exact ⟨decode_leBytes_append hw rest, hw⟩
  · rw [decodeWord_reservedOpcode_iff]
    constructor
    · intro hn i v h hv
      exact hn (hv ▸ mapped_of_encode h)
    · intro h hm
      obtain ⟨i, v, he, hv⟩ := exists_encode_of_mapped hm
      exact h i v he hv

end Sys2Proof

/-! # The invariant between steps -/

namespace Sys2Proof.Machine

/-! ## Every step keeps the canonical form -/

/-- Every meaning ends through `finish`, over the memory of the state it starts from or, at module reset, over an empty one (R28). -/
theorem exec_finishes (i : Instr) (s : State) :
    ∃ u o, exec i s = finish u o ∧ (u.mem = s.mem ∨ u.mem = []) := by
  cases i with
  | moduleReset => exact ⟨{ s with mem := [] }, some s.resetModule.bootUp, rfl, .inr rfl⟩
  | portModeWrite | registerWrite | abortTokenArrival => exact ⟨s, some _, rfl, .inl rfl⟩
  | _ => exact ⟨s, _, rfl, .inl rfl⟩

/-- A meaning leaves the invariant behind wherever memory was canonical, whatever was logged or selected as it began. -/
theorem exec_inv {i : Instr} {s t : State} (hw : Memory.wf s.mem = true) (h : exec i s = .next t) : Inv t := by
  obtain ⟨u, o, he, hm⟩ := exec_finishes i s
  have hu : Memory.wf u.mem = true := by
    rcases hm with hm | hm
    · exact hm ▸ hw
    · exact hm ▸ rfl
  exact finish_inv u o t hu (he ▸ h)

/-- `t` has the memory, the log and the selection of `s`. -/
def SameBetween (s t : State) : Prop := t.mem = s.mem ∧ t.wlog = s.wlog ∧ t.sel = s.sel

theorem SameBetween.inv {s t : State} (h : SameBetween s t) (hi : Inv s) : Inv t := by
  obtain ⟨hm, hl, hs⟩ := h
  exact ⟨hm ▸ hi.1, hl ▸ hi.2.1, hs ▸ hi.2.2⟩

theorem entryLasting_same (s : State) (h e : Nat) (y : Choice) : SameBetween s (s.entryLasting h e y) := by
  unfold State.entryLasting
  split
  · exact ⟨rfl, rfl, rfl⟩
  · exact ⟨rfl, rfl, rfl⟩

@[simp] theorem noteChoice_mem (s : State) (h e : Nat) (y : Choice) : (s.noteChoice h e y).mem = s.mem := rfl

@[simp] theorem countTransient_mem (s : State) (n : Nat) : (s.countTransient n).mem = s.mem := rfl

/-- The start that an arbiter has chosen keeps the invariant, an entry's lasting mismatch included (R363). -/
theorem runFire_inv {s t : State} {h e : Nat} {k : Check} (hi : Inv s) (hr : s.runFire h e k = .next t) : Inv t := by
  unfold State.runFire at hr
  split at hr
  · cases hr; exact hi
  · next x _ =>
    split at hr
    · next y _ =>
      split at hr
      · cases hr; exact (entryLasting_same s h e y).inv hi
      · dsimp only at hr
        split at hr
        · cases hr
        · refine exec_inv ?_ hr
          show Memory.wf (State.mem (if k = .transient then s.countTransient (stoveOf h) else s)) = true
          split
          · exact hi.1
          · exact hi.1
    · exact exec_inv hi.1 hr
    · cases hr; exact hi

theorem runMatrix_inv {s t : State} {h e : Nat} (hi : Inv s) (hr : s.runMatrix h e = .next t) : Inv t := by
  unfold State.runMatrix at hr
  split at hr
  · split at hr
    · dsimp only at hr
      split at hr
      · exact exec_inv (by exact hi.1) hr
      · cases hr
      · cases hr; exact hi
    · cases hr; exact hi
  · exact exec_inv hi.1 hr
  · cases hr; exact hi

theorem runAction_inv {a : Action} {s t : State} (hi : Inv s) (hr : runAction a s = .next t) : Inv t := by
  cases a with
  | event i =>
    simp only [runAction] at hr
    split at hr
    · exact exec_inv hi.1 hr
    · cases hr; exact hi
  | fire h e k => exact runFire_inv hi hr
  | matrix h e => exact runMatrix_inv hi hr
  | advance n => cases hr; exact hi
  | linkAck p n => cases hr; exact hi

/-- Settles O2: every meaning ends through `finish`, and what an action does beside running a meaning touches neither memory, log nor
selection. -/
theorem everyStepKeepsTheInvariant : Obligations.EveryStepKeepsTheInvariant := by
  intro s t hi hs
  unfold step at hs
  split at hs
  · exact runAction_inv (s := { s with cycle := s.cycle + 1 }) hi hs
  · next rest _ => exact runAction_inv (s := { s with agenda := rest }) hi hs

end Sys2Proof.Machine

/-! # Writes of the hearth slots (R186 to R188, R270) -/

namespace Sys2Proof.Machine

open Sys2Proof.Claim

/-! ## Bytes stored, and bytes read back -/

/-- A store writes its bytes; beside them it can only take poison away (R42). -/
theorem store_eq_setSide (s : State) (ma : Nat) (bs : List Byte) : ∃ m, s.store ma bs = (s.putBytes ma bs).setSide m := by
  unfold State.store
  dsimp only
  split
  · exact ⟨_, rfl⟩
  · refine List.foldlRecOn (motive := fun t => ∃ m, t = (s.putBytes ma bs).setSide m) _ _ ⟨_, rfl⟩ ?_
    rintro _ ⟨m, rfl⟩ i _
    split
    · exact ⟨_, rfl⟩
    · exact ⟨m, rfl⟩

@[simp] theorem store_mem (s : State) (ma : Nat) (bs : List Byte) : (s.store ma bs).mem = s.mem := by
  obtain ⟨m, h⟩ := store_eq_setSide s ma bs
  simp [h]

theorem byte_store (s : State) (ma : Nat) (bs : List Byte) (x : Nat) : (s.store ma bs).byte x = written s ma bs x := by
  obtain ⟨m, h⟩ := store_eq_setSide s ma bs
  have hx : (s.store ma bs).byte x = (s.putBytes ma bs).byte x := by rw [h]; rfl
  rw [hx, byte_putBytes, written]
  by_cases hr : ma ≤ x ∧ x < ma + bs.length
  · rw [dif_pos hr, if_pos hr, List.getElem_eq_getD 0]
  · rw [dif_neg hr, if_neg hr]

/-- A byte after the step is the byte that the step saw there last. -/
theorem after_commit {s u : State} (hw : Memory.wf s.mem = true) (hm : u.mem = s.mem) (x : Nat) :
    after (commit s u) x = u.byte x := get_commit s u x hw hm

theorem byte_commit {s u : State} (hw : Memory.wf s.mem = true) (hm : u.mem = s.mem) (x : Nat) :
    (commit s u).byte x = u.byte x := get_commit s u x hw hm

theorem getD_take_drop (bs : List Byte) (o n i : Nat) (h : i < n) : ((bs.drop o).take n).getD i 0 = bs.getD (o + i) 0 := by
  simp [List.getD_eq_getElem?_getD, List.getElem?_take_of_lt h]

/-- The little-endian value of bytes that stand at `a` as a slice of `bs` (R3). -/
theorem nat_eq_leNat_slice {t : State} {a o n : Nat} {bs : List Byte} (hl : o + n ≤ bs.length)
    (h : ∀ i, i < n → t.byte (a + i) = bs.getD (o + i) 0) : t.nat a n = leNat ((bs.drop o).take n) := by
  refine congrArg leNat (List.ext_getElem ?_ fun i h1 h2 => ?_)
  · rw [State.bytes, List.length_map, List.length_range, List.length_take, List.length_drop]
    omega
  · have hi : i < n := by simpa [State.bytes] using h1
    have hslice : ((bs.drop o).take n)[i] = bs.getD (o + i) 0 := by rw [List.getElem_eq_getD 0, getD_take_drop bs o n i hi]
    rw [hslice, ← h i hi]
    simp only [State.bytes, List.getElem_map, List.getElem_range]

theorem leBytes_eq_map_range (n v : Nat) : leBytes n v = (List.range n).map fun k => BitVec.ofNat 8 (v / 256 ^ k) := by
  induction n generalizing v with
  | zero => rfl
  | succ n ih =>
    rw [leBytes, ih, List.range_succ_eq_map, List.map_cons, List.map_map]
    simp [Function.comp_def, Nat.div_div_eq_div_mul, Nat.pow_succ']

/-! ## The scratchpad window, beat by beat (R186) -/

/-- Beat pieces stored one after another: the bytes of the write that the first `k` beats hold. -/
theorem byte_foldl_store_beatPiece (s : State) (base off : Nat) (bs : List Byte) (x k : Nat) :
    (((List.range k).map (beatPiece off bs)).foldl (fun s (p : Nat × List Byte) => s.store (base + p.1) p.2) s).byte x =
      if base + off ≤ x ∧ x < base + min (off + bs.length) (64 * (off / 64 + k)) then bs.getD (x - (base + off)) 0 else s.byte x := by
  induction k with
  | zero =>
    rw [if_neg (by omega)]
    rfl
  | succ k ih =>
    rw [List.range_succ, List.map_append, List.foldl_append, List.map_singleton, List.foldl_cons, List.foldl_nil, byte_store,
      written, ih]
    unfold beatPiece
    generalize hlo : max off (64 * (off / 64 + k)) = lo
    generalize hhi : min (off + bs.length) (64 * (off / 64 + (k + 1))) = hi
    have hlen : ((bs.drop (lo - off)).take (hi - lo)).length = hi - lo := by
      rw [List.length_take, List.length_drop]; omega
    simp only [hlen]
    by_cases hr : base + lo ≤ x ∧ x < base + lo + (hi - lo)
    · rw [if_pos hr, getD_take_drop _ _ _ _ (by omega), if_pos (by omega)]
      congr 1
      omega
    · rw [if_neg hr]
      exact ite_congr (propext (by omega)) (fun _ => rfl) fun _ => rfl

theorem foldl_store_mem (base : Nat) (l : List (Nat × List Byte)) (s : State) :
    (l.foldl (fun s (p : Nat × List Byte) => s.store (base + p.1) p.2) s).mem = s.mem :=
  List.foldlRecOn (motive := fun t : State => t.mem = s.mem) l _ rfl fun t ht p _ => by rw [store_mem, ht]

/-- Where no tile frame holds the scratchpad, a write of its window stores each of its bytes, and no other (R186, R195). -/
theorem padWrite_of_unmapped {s : State} {h : Nat} (ht : ∀ x ∈ (s.hearth h).tiles, x.2.mapped = false) (off : Nat)
    (bs : List Byte) :
    (s.padWrite h off bs).mem = s.mem ∧ ∀ x, (s.padWrite h off bs).byte x = written s (padAddr h off) bs x := by
  have hb : ∀ o, s.tileBlocks h o = false := by
    intro o
    rw [State.tileBlocks, List.any_eq_false]
    intro x hx
    simp [ht x hx]
  have hp : s.padWrite h off bs = ((List.range ((off + bs.length + 63) / 64 - off / 64)).map (beatPiece off bs)).foldl
      (fun s (p : Nat × List Byte) => s.store (slotBase + h * slotSize + p.1) p.2) s := by
    have hok : ∀ x ∈ (List.range ((off + bs.length + 63) / 64 - off / 64)).map (beatPiece off bs),
        (!(s.tileBlocks h x.1)) = true := fun x _ => by rw [hb]; rfl
    simp only [State.padWrite, List.all_eq_true.2 hok, List.filter_eq_self.2 hok, if_true]
    rfl
  rw [hp]
  refine ⟨foldl_store_mem .., fun x => ?_⟩
  rw [byte_foldl_store_beatPiece, written, padAddr]
  exact ite_congr (propext (by omega)) (fun _ => rfl) fun _ => rfl

/-! ## Writes of a hearth's slot (R186 to R188, R270) -/

@[simp] theorem windowWrite_of_disjoint {s : State} {a : Agent} {h off : Nat} {bs : List Byte} {lo hi k : Nat}
    (hd : min hi (off + bs.length) ≤ max lo off) : s.windowWrite a h off bs (lo, hi, k) = s := by
  simp only [State.windowWrite, if_pos hd]

/-- A write that lies in the scratchpad window is one of the scratchpad alone. -/
theorem slotWrite_of_pad {s : State} {a : Agent} {h off : Nat} {bs : List Byte} (hr : s.reachesSlot a h = true) (hb : bs ≠ [])
    (ho : off + bs.length ≤ 0x800000) : s.slotWrite a h off bs = s.padWrite h off bs := by
  have hn : 0 < bs.length := List.length_pos_iff.2 hb
  have hl : ¬ listedBytes off bs.length < bs.length := by
    simp only [listedBytes, slotWindows, List.map_cons, List.sum_cons]
    omega
  have h0 : s.windowWrite a h off bs (0, 0x800000, 0) = s.padWrite h off bs := by
    have hm : min 0x800000 (off + bs.length) = off + bs.length := by omega
    have hlt : ¬ off + bs.length ≤ off := by omega
    simp [State.windowWrite, hm, hlt, List.take_of_length_le]
  simp only [State.slotWrite, hr, Bool.not_true, Bool.false_eq_true, if_false, if_neg hl]
  simp only [slotWindows, List.foldl_cons, List.foldl_nil, h0]
  iterate 5 rw [windowWrite_of_disjoint (by omega)]

theorem slotWrite_of_not_reachesSlot {s : State} {a : Agent} {h : Nat} (hr : s.reachesSlot a h = false) (off : Nat)
    (bs : List Byte) : s.slotWrite a h off bs = s.countWindow := by simp [State.slotWrite, hr]

theorem hearthSlotWrite_pad {h off : Nat} {bs : List Byte} (s : State) (a : Agent) (hh : h < 168) (hb : bs ≠ [])
    (ho : off + bs.length ≤ 0x800000) :
    hearthSlotWrite a (slotBase + h * slotSize + off) bs s = some (s.slotWrite a h off bs) := by
  have hn : 0 < bs.length := List.length_pos_iff.2 hb
  have hsub : slotBase + h * slotSize + off - slotBase = h * slotSize + off := by omega
  have hdiv : (h * slotSize + off) / slotSize = h := by simp only [slotSize]; omega
  have hmod : (h * slotSize + off) % slotSize = off := by simp only [slotSize]; omega
  have hlt : slotBase + h * slotSize + off < slotEnd := by simp only [slotEnd, slotSize]; omega
  have hj : s.jafHeldAt (slotBase + h * slotSize + off) bs.length = false := by
    have hlow : ¬ 0x800000 ≤ off := by omega
    simp [State.jafHeldAt, hsub, hmod, hlow]
  rw [hearthSlotWrite, hsub, hdiv, hmod, if_pos ⟨by omega, hlt, hb, by simp [hj]⟩]

/-! ### Join slots -/

@[simp] theorem length_jafBytes (off : Nat) (bs : List Byte) : (jafBytes off bs).length = bs.length := by
  induction bs generalizing off with
  | nil => rfl
  | cons b bs ih => simp [jafBytes, ih]

theorem getD_jafBytes (off : Nat) (bs : List Byte) (i : Nat) :
    (jafBytes off bs).getD i 0 = jafByte ((off + i) % 64) (bs.getD i 0) := by
  induction bs generalizing off i with
  | nil => simp [jafBytes, jafByte]
  | cons b bs ih =>
    cases i with
    | zero => simp [jafBytes]
    | succ i =>
      rw [jafBytes, List.getD_cons_succ, List.getD_cons_succ, ih, Nat.add_right_comm, Nat.add_assoc]

/-- A slot's byte after a whole write of the slot: the byte written, its reserved bits dropped (R259, R270). -/
theorem byte_jafWrite {s : State} {h n : Nat} {bs : List Byte} (hl : bs.length = 64) {k : Nat} (hk : k < 64) :
    (s.jafWrite h (64 * n) bs).byte (jafAddr h n + k) = jafByte k (bs.getD k 0) := by
  have ha : jafAddr h 0 + 64 * n = jafAddr h n := by simp [jafAddr]
  have hmod : (64 * n + k) % 64 = k := by omega
  rw [State.jafWrite, ha, byte_store, written, length_jafBytes, hl, if_pos (by omega), Nat.add_sub_cancel_left, getD_jafBytes, hmod]

theorem byte_jafWrite_outside {s : State} {h n : Nat} {bs : List Byte} (hl : bs.length = 64) {x : Nat}
    (hx : ¬(jafAddr h n ≤ x ∧ x < jafAddr h n + 64)) : (s.jafWrite h (64 * n) bs).byte x = s.byte x := by
  have ha : jafAddr h 0 + 64 * n = jafAddr h n := by simp [jafAddr]
  rw [State.jafWrite, ha, byte_store, written, length_jafBytes, hl, if_neg hx]

/-- A join slot read from bytes that a whole write of it has left (R259). -/
theorem jslot_of_bytes {t : State} {h n : Nat} {bs : List Byte} (hl : bs.length = 64)
    (hb : ∀ k, k < 64 → t.byte (jafAddr h n + k) = jafByte k (bs.getD k 0)) :
    t.jslot h n true = if (bs.getD 19 0).getLsbD 7 = true then
      some { key := leNat (bs.take 8), value := leNat ((bs.drop 8).take 8), adds := leNat ((bs.drop 16).take 2) } else none := by
  have hvalid : (t.byte (jafAddr h n + 19)).getLsbD 7 = (bs.getD 19 0).getLsbD 7 := by
    rw [hb 19 (by omega)]
    simp [jafByte]
  have hfield : ∀ o len, o + len ≤ 18 → t.nat (jafAddr h n + o) len = leNat ((bs.drop o).take len) := by
    intro o len ho
    refine nat_eq_leNat_slice (by omega) fun i hi => ?_
    rw [Nat.add_assoc, hb (o + i) (by omega), jafByte, if_pos (by omega)]
  have hkey : t.nat (jafAddr h n) 8 = leNat (bs.take 8) := hfield 0 8 (by omega)
  rw [State.jslot]
  simp only [hvalid, hkey, hfield 8 8 (by omega), hfield 16 2 (by omega), if_true]

/-! ### Injection records -/

/-- A write of one whole record is that record's injection (R188). -/
theorem injectWrite_record {off : Nat} {bs : List Byte} (s : State) (h : Nat) (v : Option Nat) (ho : off % 256 = 0)
    (hlt : off < 0xC0000) (hl : bs.length = 256) : s.injectWrite h off v bs = s.injectRecord h off v bs := by
  have hk : (off + bs.length + 255) / 256 - off / 256 = 1 := by omega
  have hr : 256 * (off / 256 + 0) = off := by omega
  rw [State.injectWrite]
  simp only [hk, List.range_one, List.foldl_cons, List.foldl_nil, hr]
  rw [if_pos ⟨by omega, by omega, hlt⟩, Nat.sub_self, List.drop_zero, List.take_of_length_le (by omega)]

/-! ### The meanings -/

theorem exec_paramWindowWrite (a : Agent) (h ce ctx reg : Nat) (v : BitVec 32) (s : State) :
    exec (.paramWindowWrite a h ce ctx reg v) s = finish s (paramWindowWrite a h ce ctx reg v s) := rfl

theorem exec_hearthSlotWrite (a : Agent) (addr : Nat) (bs : List Byte) (s : State) :
    exec (.hearthSlotWrite a addr bs) s = finish s (hearthSlotWrite a addr bs s) := rfl

theorem exec_jafWindowWrite (a : Agent) (h off : Nat) (bs : List Byte) (s : State) :
    exec (.jafWindowWrite a h off bs) s = finish s (jafWindowWrite a h off bs s) := rfl

theorem exec_injectionWrite (a : Agent) (h off : Nat) (bs : List Byte) (s : State) :
    exec (.injectionWrite a h off bs) s = finish s (injectionWrite a h off bs s) := rfl

theorem slotWritesReachTheirTargets : SlotWritesReachTheirTargets := by
  refine ⟨?param, ?pad, ?join, ?record⟩
  case param =>
    intro s a h ce ctx reg v _ hw hce hctx hreg
    have hin : ¬(ceCount ≤ ce ∨ 16 ≤ ctx ∨ 64 ≤ reg) := by simp only [ceCount]; omega
    rw [exec_paramWindowWrite, paramWindowWrite, if_neg hin]
    refine ⟨fun hr => by simp [hr], fun hr => ⟨commit s (s.store (paramAddr h ce ctx reg) (leBytes 4 v.toNat)), by simp [hr], fun x => ?_⟩⟩
    rw [after_commit hw (store_mem ..), byte_store, leBytes_eq_map_range]
  case pad =>
    intro s a h off bs _ hw hh hb ho
    simp only [exec_hearthSlotWrite, hearthSlotWrite_pad s a hh hb ho, finish_some]
    refine ⟨fun hr => by rw [slotWrite_of_not_reachesSlot hr], fun hr ht => ⟨_, rfl, fun x => ?_⟩⟩
    obtain ⟨hm, hbyte⟩ := padWrite_of_unmapped ht off bs
    rw [slotWrite_of_pad hr hb ho, after_commit hw hm, hbyte]
    rfl
  case join =>
    intro s a h n bs _ hw hn hl
    have hin : ¬ 0x400000 < 64 * n + 64 := by omega
    simp only [exec_jafWindowWrite, jafWindowWrite, hl, if_neg hin]
    refine ⟨fun hr => by simp [hr], fun hr hheld => ?_⟩
    have hm : (s.jafWrite h (64 * n) bs).mem = s.mem := store_mem ..
    refine ⟨commit s (s.jafWrite h (64 * n) bs), by simp [hr, hheld], fun x hx => ?_, fun k hlo hhi => ?_, ?_⟩
    · rw [after_commit hw hm, byte_jafWrite_outside hl hx]
    · rw [after_commit hw hm, byte_jafWrite hl hhi, jafByte, if_neg (by omega), if_neg (by omega)]
    · exact jslot_of_bytes hl fun k hk => (byte_commit hw hm _).trans (byte_jafWrite hl hk)
  case record =>
    intro s a h off bs ho hlt hl
    have hin : ¬ 0xC0000 < off + 256 := by omega
    simp only [exec_injectionWrite, injectionWrite, hl, if_neg hin, injectWrite_record s h _ ho hlt hl, State.injectRecord]
    refine ⟨fun hr => by simp [hr], fun hr t ht =>
      ⟨commit s (s.setFab { s.fab with transit := s.fab.transit ++ [t] }), by simp [hr, ht], rfl⟩, fun hr hn => by simp [hr, hn]⟩

end Sys2Proof.Machine

/-! # Writes of the registers (R4, R43, R300, R327, R335, R345) -/

namespace Sys2Proof.Machine

open Sys2Proof.Claim

/-! ## Little-endian values and their fields (R3) -/

theorem leNat_append (as bs : List Byte) : leNat (as ++ bs) = leNat as + 256 ^ as.length * leNat bs := by
  induction as with
  | nil => simp [leNat]
  | cons a as ih => rw [List.cons_append, leNat, leNat, ih, List.length_cons, Nat.pow_succ', Nat.mul_add, Nat.mul_assoc, Nat.add_assoc]

theorem leNat_lt (bs : List Byte) : leNat bs < 256 ^ bs.length := by
  induction bs with
  | nil => simp [leNat]
  | cons b bs ih =>
    have hb : b.toNat < 256 := b.isLt
    rw [leNat, List.length_cons, Nat.pow_succ']
    omega

/-- A value is that of its low `n` bytes, below 256^n, and of the rest above them. -/
theorem leNat_split (bs : List Byte) (n : Nat) :
    leNat bs = leNat (bs.take n) + 256 ^ n * leNat (bs.drop n) ∧ leNat (bs.take n) < 256 ^ n := by
  rcases Nat.le_total n bs.length with hn | hn
  · have hlt := leNat_lt (bs.take n)
    have hsum := leNat_append (bs.take n) (bs.drop n)
    rw [List.length_take_of_le hn] at hlt hsum
    exact ⟨by rwa [List.take_append_drop] at hsum, hlt⟩
  · rw [List.take_of_length_le hn, List.drop_of_length_le hn]
    exact ⟨by simp [leNat], Nat.lt_of_lt_of_le (leNat_lt bs) (Nat.pow_le_pow_right (by omega) hn)⟩

theorem leNat_take (bs : List Byte) (n : Nat) : leNat (bs.take n) = leNat bs % 256 ^ n := by
  obtain ⟨hsum, hlt⟩ := leNat_split bs n
  rw [hsum, Nat.add_mul_mod_self_left, Nat.mod_eq_of_lt hlt]

theorem leNat_drop (bs : List Byte) (n : Nat) : leNat (bs.drop n) = leNat bs / 256 ^ n := by
  obtain ⟨hsum, hlt⟩ := leNat_split bs n
  rw [hsum, Nat.add_mul_div_left _ _ (Nat.pow_pos (by decide)), Nat.div_eq_of_lt hlt, Nat.zero_add]

/-- The bits of a value that `n` of its bytes hold, from byte `o`. -/
theorem bitsOf_leNat (bs : List Byte) (o : Nat) {n : Nat} (hn : 0 < n) :
    bitsOf (leNat bs) (8 * o + 8 * n - 1) (8 * o) = leNat ((bs.drop o).take n) := by
  have hw : 8 * o + 8 * n - 1 + 1 - 8 * o = 8 * n := by omega
  rw [leNat_take, leNat_drop, bitsOf, hw, Nat.pow_mul, Nat.pow_mul]

theorem ofNat_bitsOf {w hi lo n : Nat} (v : Nat) (hn : hi + 1 - lo = n) (hw : lo + n ≤ w) :
    BitVec.ofNat n (bitsOf v hi lo) = (BitVec.ofNat w v).extractLsb' lo n := by
  refine BitVec.eq_of_toNat_eq (Nat.eq_of_testBit_eq fun i => ?_)
  rw [BitVec.toNat_ofNat, BitVec.extractLsb'_toNat, BitVec.toNat_ofNat, bitsOf, hn, Nat.mod_mod]
  simp only [Nat.testBit_mod_two_pow, Nat.testBit_div_two_pow, Nat.testBit_shiftRight, Nat.add_comm i lo]
  by_cases hi : i < n
  · have hlt : lo + i < w := by omega
    simp [hlt]
  · simp [hi]

theorem bitOf_eq_getLsbD {w i : Nat} (v : Nat) (hi : i < w) : bitOf v i = (BitVec.ofNat w v).getLsbD i := by
  rw [BitVec.getLsbD_ofNat, decide_eq_true hi, Bool.true_and, Nat.testBit_eq_decide_div_mod_eq, bitOf]
  rfl

/-! ## One register written whole -/

@[simp] theorem overlay_whole {size : Nat} {bs : List Byte} (cur : Nat) (hl : bs.length = size) : overlay size cur 0 bs = leNat bs := by
  subst hl; simp [overlay]

/-- A write of a register's own bytes is that register's write alone. -/
theorem registerWrite_whole {o size : Nat} {r : Reg} {bs : List Byte} (s : State) (a : Agent) (hr : regAt o = some (r, o, size))
    (hl : bs.length = size) (hp : 0 < size) : s.registerWrite a o bs = s.writeReg a r 0 bs := by
  obtain ⟨b, bs, rfl⟩ : ∃ b bs', bs = b :: bs' := List.exists_cons_of_length_pos (by omega)
  have hend : ∀ n o s, writeRegs a n o [] s = s := fun n o s => by cases n <;> simp [writeRegs]
  rw [State.registerWrite, List.length_cons, writeRegs]
  simp [hr, ← hl, hend]

theorem exec_registerWrite (a : Agent) (o : Nat) (bs : List Byte) (s : State) :
    exec (.registerWrite a o bs) s = .next (commit s (s.registerWrite a o bs)) := rfl

/-! ### Offsets -/

theorem regAt_aspace {k : Nat} (hk : k < 4096) : regAt (0x10000 + 16 * k) = some (.aspace k, 0x10000 + 16 * k, 16) := by
  have h1 : (0x10000 + 16 * k - 0x10000) % 16 = 0 := by omega
  have h2 : (0x10000 + 16 * k - 0x10000) / 16 = k := by omega
  unfold regAt
  dsimp only
  repeat rw [if_neg (by omega)]
  rw [if_pos (by omega), h1, h2, if_pos (by omega)]

theorem regAt_qdb {v q : Nat} (hv : v < 1024) (hq : q < 256) :
    regAt (0x100000 + 8 * (256 * v + q)) = some (.qdb v q, 0x100000 + 8 * (256 * v + q), 8) := by
  have h1 : (0x100000 + 8 * (256 * v + q) - 0x100000) % 8 = 0 := by omega
  have h2 : (0x100000 + 8 * (256 * v + q) - 0x100000) / 8 = 256 * v + q := by omega
  have h3 : (256 * v + q) / 256 = v := by omega
  have h4 : (256 * v + q) % 256 = q := by omega
  unfold regAt
  dsimp only
  repeat rw [if_neg (by omega)]
  rw [if_pos (by omega), h1, h2, h3, h4, if_pos (by omega)]

theorem regAt_slot {i : Nat} (hi : i < 1024) : regAt (0x400000 + 32 * i) = some (.slot i, 0x400000 + 32 * i, 32) := by
  have h1 : (0x400000 + 32 * i - 0x400000) % 32 = 0 := by omega
  have h2 : (0x400000 + 32 * i - 0x400000) / 32 = i := by omega
  unfold regAt
  dsimp only
  repeat rw [if_neg (by omega)]
  rw [if_pos (by omega), h1, h2, if_pos (by omega)]

theorem regAt_csr {k o : Nat} (hk : k < 24) (ho : o = csrBase + 32 * k) : regAt o = some (.csr k, o, 32) := by
  have hb : csrBase = 0x8000000 := rfl
  have h1 : (o - csrBase) % 32 = 0 := by omega
  have h2 : (o - csrBase) / 32 = k := by omega
  unfold regAt
  dsimp only
  repeat rw [if_neg (by omega)]
  rw [if_pos (by omega), h1, h2, if_pos (by omega), ← ho]

/-! ### The slot table's commands (R335) -/

/-- A dispatch always takes place, if only by changing nothing: every branch of its meaning answers a state. -/
theorem bindDispatch_isSome (a : Agent) (i : Nat) (w : BitVec 256) (s : State) : (bindDispatch a i w s).isSome = true := by
  fun_cases bindDispatch a i w s <;> rfl

theorem bindTeardown_isSome (a : Agent) (i : Nat) (w : BitVec 256) (s : State) : (bindTeardown a i w s).isSome = true := by
  fun_cases bindTeardown a i w s <;> rfl

/-- A whole store of a bind record with command 1 is a dispatch. -/
theorem writeSlot_dispatch {s : State} {a : Agent} {bs : List Byte} (i : Nat) (ha : writesSlots a = true) (hl : bs.length = 32)
    (hc : (BitVec.ofNat 256 (leNat bs)).extractLsb' 118 3 = 1) :
    some (s.writeSlot a i 0 bs) = bindDispatch a i (BitVec.ofNat 256 (leNat bs)) s := by
  obtain ⟨t, ht⟩ := Option.isSome_iff_exists.1 (bindDispatch_isSome a i (BitVec.ofNat 256 (leNat bs)) s)
  simp only [State.writeSlot, ha, hl, hc]
  simp [ht]

/-- A whole store of a bind record with command 4 is a teardown. -/
theorem writeSlot_teardown {s : State} {a : Agent} {bs : List Byte} (i : Nat) (ha : writesSlots a = true) (hl : bs.length = 32)
    (hc : (BitVec.ofNat 256 (leNat bs)).extractLsb' 118 3 = 4) :
    some (s.writeSlot a i 0 bs) = bindTeardown a i (BitVec.ofNat 256 (leNat bs)) s := by
  obtain ⟨t, ht⟩ := Option.isSome_iff_exists.1 (bindTeardown_isSome a i (BitVec.ofNat 256 (leNat bs)) s)
  simp only [State.writeSlot, ha, hl, hc]
  simp [ht]

/-! ### A hart's CSRs as the step ends (R13, R345) -/

theorem Table.get?_map {α : Type} (t : Table α) (f : Nat → α → α) (k : Nat) :
    Table.get? (t.map fun (j, x) => (j, f j x)) k = (Table.get? t k).map (f k) := by
  induction t with
  | nil => rfl
  | cons y ys ih =>
    obtain ⟨j, x⟩ := y
    by_cases hj : j = k
    · subst hj; simp [Table.get?]
    · simpa [Table.get?, hj] using ih

/-- Hart `j` after the firebox has settled: its reservation is lost where another has written it. -/
def Firebox.settledHart (f : Firebox) (log : List Host.Cell) (j : Nat) (x : Hart) : Hart :=
  if f.now ≠ some j && (x.reserved.any fun r => log.any fun c => r.1 ≤ c.1 && c.1 < r.1 + r.2) then { x with reserved := none }
  else x

theorem Firebox.settledHart_eq (f : Firebox) (log : List Host.Cell) (j : Nat) (x : Hart) :
    ∃ r, f.settledHart log j x = { x with reserved := r } := by
  unfold Firebox.settledHart
  split
  · exact ⟨none, rfl⟩
  · exact ⟨x.reserved, rfl⟩

theorem get?_harts_settle (f : Firebox) (log : List Host.Cell) (k : Nat) :
    Table.get? (f.settle log).harts k = (Table.get? f.harts k).map (f.settledHart log k) :=
  Table.get?_map f.harts (f.settledHart log) k

/-- A hart that the step has written keeps what it was given as the step ends, its reservation apart. -/
theorem getD_harts_commit {u : State} {k : Nat} {x : Hart} (s : State) (hx : Table.get? u.firebox.harts k = some x) :
    ∃ r, Table.getD (commit s u).firebox.harts k .reset = { x with reserved := r } := by
  obtain ⟨r, hr⟩ := u.firebox.settledHart_eq u.wlog k x
  refine ⟨r, ?_⟩
  show (Table.get? (u.firebox.settle u.wlog).harts k).getD .reset = _
  rw [get?_harts_settle, hx, Option.map_some, Option.getD_some, hr]

/-- A hart whose Jarnak CSRs are the first three doublewords of `bs` (R345). -/
def Hart.withCsrs (h : Hart) (bs : List Byte) : Hart :=
  { h with juivec := BitVec.ofNat 64 (leNat ((bs.drop 0).take 8)), juirec := BitVec.ofNat 64 (leNat ((bs.drop 8).take 8))
           juivd := BitVec.ofNat 64 (leNat ((bs.drop 16).take 8)) }

/-- A tenant's whole write of a hart's CSRs: the hart takes them, and the tenant's thread is registered as they say (R345). -/
theorem writeCsr_whole (s : State) (v k : Nat) {bs : List Byte} (hl : bs.length = 32) :
    let old := Table.getD s.firebox.harts k .reset
    let thread := (Table.getD s.adm.threads v .reset).registeredAt v old (old.withCsrs bs) (leNat bs)
    s.writeCsr (.tenant v) k 0 bs =
      { s.setAdm { s.adm with threads := Table.put s.adm.threads v thread } with
        firebox := { s.firebox with harts := Table.put s.firebox.harts k (old.withCsrs bs) } } := by
  have hvec : bitsOf (leNat bs) 63 0 = leNat ((bs.drop 0).take 8) := bitsOf_leNat bs 0 (n := 8) (by omega)
  have hrec : bitsOf (leNat bs) 127 64 = leNat ((bs.drop 8).take 8) := bitsOf_leNat bs 8 (n := 8) (by omega)
  have hvd : bitsOf (leNat bs) 191 128 = leNat ((bs.drop 16).take 8) := bitsOf_leNat bs 16 (n := 8) (by omega)
  simp only [State.writeCsr, overlay_whole _ hl, hvec, hrec, hvd]
  rfl

theorem registeredAt_of_named {t : Thread} {v : Nat} {old new : Hart} (x : Nat) (hn : new.juivd.toNat = v) :
    (t.registeredAt v old new x).registered = true ∧ (t.registeredAt v old new x).juivec = new.juivec ∧
      (t.registeredAt v old new x).juirec = new.juirec := by simp [Thread.registeredAt, hn]

/-! ### Whole writes of the other registers -/

/-- The wholesaler's whole write of an address-space descriptor gives it the fields of R300. -/
theorem writeReg_aspace (s : State) (k : Nat) {bs : List Byte} (hl : bs.length = 16) :
    let v := BitVec.ofNat 128 (leNat bs)
    (s.writeReg .wholesaler (.aspace k) 0 bs).aspace k =
      { partition := v.extractLsb' 120 8, wRoot := v.extractLsb' 77 39, sRoot := v.extractLsb' 13 51, enable := v.getLsbD 0 } := by
  simp only [State.writeReg, Aspace.written, State.aspace, overlay_whole _ hl, beq_self_eq_true, if_true, setAdm_adm,
    Table.getD_put_self, Aspace.mk.injEq]
  exact ⟨ofNat_bitsOf _ rfl (by omega), ofNat_bitsOf _ rfl (by omega), ofNat_bitsOf _ rfl (by omega), bitOf_eq_getLsbD _ (by omega)⟩

/-- A tenant's whole write of its open queue's doorbell with command 0 sets the tail (R327). -/
theorem writeReg_qdb {s : State} {v q : Nat} {bs : List Byte} (hl : bs.length = 8) (hc : leNat bs / 2 ^ 56 % 4 = 0)
    (hs : (s.queue v q).state = 1) :
    (s.writeReg (.tenant v) (.qdb v q) 0 bs).queue v q = { s.queue v q with tail := BitVec.ofNat 24 (leNat bs) } := by
  have hcmd : bitsOf (leNat bs) 57 56 = 0 := hc
  have htail : BitVec.ofNat 24 (bitsOf (leNat bs) 23 0) = BitVec.ofNat 24 (leNat bs) :=
    (ofNat_bitsOf _ rfl (Nat.le_refl 24)).trans BitVec.extractLsb'_eq_self
  simp only [State.writeReg, State.reachesQueue, beq_self_eq_true, if_true, overlay_whole _ hl, State.writeQdb, hcmd,
    doorbellRing, hs]
  simpa [State.queue, State.modQueue, htail] using hs

theorem exec_rcCounterClear (a : Agent) (o : Nat) (s : State) :
    exec (.rcCounterClear a o) s = finish s (rcCounterClear a o s) := rfl

theorem registerWritesSetTheirFields : RegisterWritesSetTheirFields := by
  refine ⟨?actLimit, ?aspace, ?doorbell, ?slot, ?csr, ?noRegister, ?clear⟩
  case actLimit =>
    intro s bs hl
    have hw (a : Agent) := registerWrite_whole s a (show regAt 0xC20 = some (.actLimit, 0xC20, 8) by decide) hl (by omega)
    refine ⟨⟨_, exec_registerWrite .., ?_⟩, fun a ha => ?_⟩
    · rw [commit_mod, hw]
      simp [State.writeReg, hl]
    · rw [exec_registerWrite, hw]
      simp [State.writeReg, ha]
  case aspace =>
    intro s k bs hk hl
    refine ⟨_, exec_registerWrite .., ?_⟩
    rw [registerWrite_whole s _ (regAt_aspace hk) hl (by omega)]
    have hk' := writeReg_aspace s k hl
    exact ⟨congrArg Aspace.partition hk', congrArg Aspace.wRoot hk', congrArg Aspace.sRoot hk', congrArg Aspace.enable hk'⟩
  case doorbell =>
    intro s v q bs hv hq hl hc hs
    refine ⟨_, exec_registerWrite .., ?_⟩
    rw [registerWrite_whole s _ (regAt_qdb hv hq) hl (by omega)]
    exact writeReg_qdb hl hc hs
  case slot =>
    intro s a i bs hi hl ha
    rw [exec_registerWrite, registerWrite_whole s a (regAt_slot hi) hl (by omega), ← finish_some]
    exact ⟨fun hc => congrArg (finish s) (writeSlot_dispatch i ha hl hc),
      fun hc => congrArg (finish s) (writeSlot_teardown i ha hl hc)⟩
  case csr =>
    intro s v k bs hv hk hl
    refine ⟨_, exec_registerWrite .., ?_⟩
    rw [registerWrite_whole s _ (regAt_csr hk rfl) hl (by decide), State.writeReg]
    have hhart : Table.get? (s.writeCsr (.tenant v) k 0 bs).firebox.harts k =
        some ((Table.getD s.firebox.harts k .reset).withCsrs bs) := by
      rw [writeCsr_whole s v k hl]
      exact Table.get?_put_self ..
    refine ⟨?_, fun hn => ?_, fun w hw => ?_⟩
    · obtain ⟨r, hr⟩ := getD_harts_commit s hhart
      rw [hr]
      exact ⟨rfl, rfl, rfl, rfl⟩
    · have hlt : leNat ((bs.drop 16).take 8) < 2 ^ 64 := by
        rw [leNat_take]
        exact Nat.mod_lt _ (by decide)
      simp only [writeCsr_whole s v k hl, commit_adm, setAdm_adm, Table.getD_put_self]
      exact registeredAt_of_named _ ((BitVec.toNat_ofNat ..).trans ((Nat.mod_eq_of_lt hlt).trans hn))
    · rw [writeCsr_whole s v k hl]
      exact Table.get?_put_ne _ _ hw
  case noRegister =>
    intro s a o b ho
    rw [exec_registerWrite]
    simp [State.registerWrite, writeRegs, ho]
  case clear =>
    intro s a
    simp only [exec_rcCounterClear, rcCounterClear, show regAt 0xC00 = some (.damperRej, 0xC00, 8) by decide,
      show regAt 0xC08 = some (.windowRej, 0xC08, 8) by decide, show regAt 0xC10 = some (.exitedDrop, 0xC10, 8) by decide]
    refine ⟨?_, fun ha => ?_⟩
    · rintro rfl
      exact ⟨rfl, rfl, rfl⟩
    · simp [rcBytes, mayClear, ha]

/-- Settles O48: slot by slot and register by register, each write reaches the bytes or the fields that its offset names. -/
theorem windowAndRegisterWritesTakeEffect : Obligations.WindowAndRegisterWritesTakeEffect :=
  ⟨slotWritesReachTheirTargets, registerWritesSetTheirFields⟩

end Sys2Proof.Machine
